-- ==== Sys2Proof/Word.lean ====
section
/-! DEFINITION. The words, numbers and nest sets of the OSV2032, and the plainest operations on them. -/

namespace Sys2Proof

/-- One byte of a message, frame or store. -/
abbrev Byte := BitVec 8
/-- A 16-bit field: tags, step numbers, attention codes, digests. -/
abbrev Word16 := BitVec 16
/-- A 32-bit field: counters, lot ids, adapter ids. -/
abbrev Word32 := BitVec 32
/-- A 48-bit Ethernet station address, the first byte on the wire being the most significant. -/
abbrev MacAddr := BitVec 48

/-- A nest number, 0..31 (spec/00_scope.md, Terms). -/
abbrev Nest := Fin 32
/-- A stream number, 0..3 (R1). -/
abbrev StreamId := Fin 4
/-- A step entry number, 0..63 (R14). -/
abbrev EntryId := Fin 64
/-- A Payload Store block number, 0..511 (R18). -/
abbrev BlockId := Fin 512
/-- A Reply Store cell number, 0..511 (R123). -/
abbrev CellId := Fin 512

/-- A nest set: nest `n` at bit `n` (spec/00_scope.md, Conventions). -/
abbrev NestSet := BitVec 32

/-- Nest `n` is in the set. -/
def NestSet.has (S : NestSet) (n : Nest) : Bool := S.getLsbD n.val

/-- The set with nest `n` added. -/
def NestSet.insert (S : NestSet) (n : Nest) : NestSet := S ||| (1#32 <<< n.val)

/-- The set holding nest `n` alone. -/
def NestSet.single (n : Nest) : NestSet := 1#32 <<< n.val

/-- The set without nest `n`. -/
def NestSet.erase (S : NestSet) (n : Nest) : NestSet := S &&& ~~~(1#32 <<< n.val)

/-- All nests, in ascending order. -/
def allNests : List Nest := List.finRange 32

/-- The nests of the set, in ascending order. -/
def NestSet.toList (S : NestSet) : List Nest := allNests.filter (fun n => NestSet.has S n)

/-- The number of nests in the set. -/
def NestSet.size (S : NestSet) : Nat := (NestSet.toList S).length

/-- The set of the nests that satisfy `p`. -/
def NestSet.ofPred (p : Nest → Bool) : NestSet :=
  allNests.foldl (fun S n => if p n then NestSet.insert S n else S) 0#32

/-- Element `i` of a table replaced by `f` of it. -/
def upd {α : Type} {k : Nat} (v : Vector α k) (i : Fin k) (f : α → α) : Vector α k :=
  v.set i.val (f v[i.val]) i.isLt

/-- Every element of a table replaced by `f` of it. -/
def mapTable {α β : Type} {k : Nat} (f : α → β) (v : Vector α k) : Vector β k :=
  ⟨(v.toList.map f).toArray, by simp⟩

end Sys2Proof
end

