-- ==== Sys2Proof/Config.lean ====
section
/-! DEFINITION. The capacities of the part (spec/00_scope.md, Capacities) and its fixed numbers. -/

namespace Sys2Proof.Config

/-- The value none of a GET_STATE head field, 0xFF (R190, 11.1), in the two bytes of the head step number
of a stream or nest that has no head: the bytes 0xFF, 0x00 (DEDUCED, log entry 12). -/
def headStepNone : Word16 := 0x00FF#16

/-- Bytes of a Payload Store block (R18). -/
def blockSize : Nat := 256
/-- The longest step payload (R6, reason TOO_LONG). -/
def maxStepPayload : Nat := 1024
/-- Copies in one nest's copy queue (R43). -/
def queueCapacity : Nat := 8
/-- The most runs of one copy (R11). -/
def maxReps : Nat := 64
/-- The longest answer or chatter payload (R57). -/
def maxAnswer : Nat := 256
/-- The longest nest-link payload (R55). -/
def maxLinkPayload : Nat := 1024
/-- Frames in the receive buffer (R175). -/
def rxCapacity : Nat := 16
/-- Frames in the RESPONSE queue (R179). -/
def responseCapacity : Nat := 8
/-- Frames in the NOTICE queue (R179). -/
def noticeCapacity : Nat := 2
/-- Segments in the REPORT queue (R131, R179). -/
def reportCapacity : Nat := 32
/-- Frames in the CHATTER queue (R179). -/
def chatterCapacity : Nat := 16
/-- Bytes of a report segment's body (R142). -/
def segmentPayload : Nat := 1472
/-- The thresholds of the Settings row may not be above this (R185). -/
def maxThreshold : Nat := 512
/-- The longest halt grace, in ms (R64). -/
def maxGrace : Nat := 1000
/-- Halt grace after power-on, in ms (R64). -/
def defaultGrace : Nat := 100
/-- GREET repetition, in ms (R61). -/
def greetPeriod : Nat := 50

/-- The broadcast address. -/
def broadcast : MacAddr := 0xFFFFFFFFFFFF#48
/-- The bridge's local experimental EtherType (R190, 11.2). -/
def etherType : Word16 := 0x88B5#16
/-- The nest-link start delimiter (R190, 11.8). -/
def delimiter : Byte := 0xC3#8
/-- DESCRIBE's vendor code (R181). -/
def vendorCode : Nat := 0x0A71
/-- DESCRIBE's part code (R181). -/
def partCode : Nat := 0x2032

/-- The 26 capacity words of DESCRIBE, in the order of spec/11 (RESPONSE, DESCRIBE). -/
def capacities : List Nat :=
  [64, 512, 256, 1024, 8, 64, 64, 63, 4, 8, 4096, 256, 2, 512, 256, 32, 256, 1024, 4, 16, 8, 2, 32,
   16, 1472, 8]

end Sys2Proof.Config
end

