-- ==== Sys2Proof/Syntax.lean ====
section
/-! DEFINITION. The commands of the part: one constructor for each row of spec/opcode_table.json. -/

namespace Sys2Proof

/-- A command: one operation or event of the table. A row that takes a message from the Message
Dispatcher carries no operand; its message is the head of the receive buffer (log entry 3). -/
inductive Instr where
  /-- POWER_ON (R189): supplies come up; the strap pins read `strap`. -/
  | powerOn (strap : BitVec 4)
  /-- RESET_PIN (R189): the reset pin is released; the strap pins read `strap`. -/
  | resetPin (strap : BitVec 4)
  /-- LOADING_END (R188): the loader has read the flash image, or no flash answered. -/
  | loadingEnd (flash : Option (List Byte))
  /-- FRAME_RECEIVED (R173): an Ethernet frame from the PHY, destination address to check sequence. -/
  | frameReceived (frame : List Byte)
  /-- REQUEST_WAITING (R177). -/
  | requestWaiting
  /-- STEP (R6). -/
  | step
  /-- REQUEST_UNKNOWN_CODE (R181). -/
  | requestUnknownCode
  /-- DESCRIBE (R181). -/
  | describe
  /-- PUT_ROWS_GROUP (R38). -/
  | putRowsGroup
  /-- PUT_ROWS_PROFILE (R86). -/
  | putRowsProfile
  /-- PUT_ROWS_CODE_SET (R89). -/
  | putRowsCodeSet
  /-- PUT_ROWS_NEST_CONFIG (R65). -/
  | putRowsNestConfig
  /-- PUT_ROWS_ALLOW_LIST (R174). -/
  | putRowsAllowList
  /-- PUT_ROWS_SETTINGS (R185). -/
  | putRowsSettings
  /-- GET_ROWS (R184). -/
  | getRows
  /-- GET_COUNTERS (R186). -/
  | getCounters
  /-- GET_COUNTERS_CLEAR (R186). -/
  | getCountersClear
  /-- GET_STATE (R182). -/
  | getState
  /-- OPEN_LOT (R24). -/
  | openLot
  /-- CLOSE_LOT (R26). -/
  | closeLot
  /-- ABORT_STREAM (R146). -/
  | abortStream
  /-- STREAM_HALT_AND_VOID (R148): the port of nest `n` takes its part of the abort. -/
  | streamHaltAndVoid (n : Nest)
  /-- NEST_ACTION_HALT (R153). -/
  | nestActionHalt
  /-- NEST_ACTION_CYCLE (R154). -/
  | nestActionCycle
  /-- NEST_ACTION_EXCLUDE (R155). -/
  | nestActionExclude
  /-- NEST_ACTION_INCLUDE (R156). -/
  | nestActionInclude
  /-- NEST_ACTION_RETRAIN (R157). -/
  | nestActionRetrain
  /-- RELEASE_ATTENTION (R171). -/
  | releaseAttention
  /-- RESTART (R187). -/
  | restart
  /-- RESTART_EVENT (R187). -/
  | restartEvent
  /-- UPLINK_TRANSMIT_START (R180). -/
  | uplinkTransmitStart
  /-- UPLINK_FRAME_SENT (R180). -/
  | uplinkFrameSent
  /-- UPLINK_LINK_CHANGE (R180): the PHY reports its link `up` or down. -/
  | uplinkLinkChange (up : Bool)
  /-- LANE_SIGNAL_PRESENT (R60). -/
  | laneSignalPresent (n : Nest)
  /-- LANE_SIGNAL_LOST (R60). -/
  | laneSignalLost (n : Nest)
  /-- GREET_REPEAT (R61). -/
  | greetRepeat (n : Nest)
  /-- FRAME_LEAVES_LANE (R68): the last CRC byte of the frame being sent has left nest `n`'s lane. -/
  | frameLeavesLane (n : Nest)
  /-- BAD_FRAME (R58): the bytes received, from the start delimiter. -/
  | badFrame (n : Nest) (bytes : List Byte)
  /-- WELCOME (R61). -/
  | welcome (n : Nest) (adapterId : Word32) (presence : Byte)
  /-- PRESENCE (R63). -/
  | presence (n : Nest) (presence : Byte)
  /-- ANSWER (R71). -/
  | answer (n : Nest) (tag : Word16) (status : Byte) (payload : List Byte)
  /-- STOPPED (R75). -/
  | stopped (n : Nest) (tag : Word16)
  /-- NOTE (R80). -/
  | note (n : Nest) (code : Word16)
  /-- CHAT (R81). -/
  | chat (n : Nest) (payload : List Byte)
  /-- START_HEAD (R70). -/
  | startHead (n : Nest)
  /-- DEADLINE_EXPIRY (R73). -/
  | deadlineExpiry (n : Nest)
  /-- GAP_EXPIRY (R72). -/
  | gapExpiry (n : Nest)
  /-- GRACE_EXPIRY (R76). -/
  | graceExpiry (n : Nest)
  /-- STOP_FAILURE (R28). -/
  | stopFailure (n : Nest)
  /-- ABSENCE (R29). -/
  | absence (n : Nest)
  /-- STALL (R30). -/
  | stall (n : Nest)
  /-- VOID_INSTRUCTION (R47). -/
  | voidInstruction (n : Nest)
  /-- OUTCOME_DELIVERED (R36). -/
  | outcomeDelivered (n : Nest)
  /-- RETIREMENT_START (R134). -/
  | retirementStart
  /-- SEGMENT_PLACED (R135). -/
  | segmentPlaced
  /-- NOTICE_BUILD (R165). -/
  | noticeBuild
  /-- THROTTLE_EXPIRY (R167). -/
  | throttleExpiry
  /-- TIME_SINCE_START_TICK (R181). -/
  | timeSinceStartTick
  /-- RESET_PIN_ASSERTION (R189). -/
  | resetPinAssertion
  deriving DecidableEq, Repr

end Sys2Proof
end

