-- ==== Sys2Proof/Machine/Bytes.lean ====
section
/-! DEFINITION. Byte order, and the two check sequences: the nest-link CRC (R56) and the Ethernet frame
check sequence (R173). -/

namespace Sys2Proof.Machine

/-- The `k` bytes of `v`, least significant first (uplink fields, R190). -/
def leBytes : Nat → Nat → List Byte
  | 0, _ => []
  | k + 1, v => BitVec.ofNat 8 v :: leBytes k (v / 256)

/-- The number whose bytes, least significant first, are given. -/
def leNat : List Byte → Nat
  | [] => 0
  | b :: bs => b.toNat + 256 * leNat bs

/-- The `k` bytes of `v`, most significant first (nest-link fields, R55; addresses on the wire). -/
def beBytes (k v : Nat) : List Byte := (leBytes k v).reverse

/-- The number whose bytes, most significant first, are given. -/
def beNat (bs : List Byte) : Nat := leNat bs.reverse

/-- Byte `i` of a message, a missing byte reading as 0 (R192). -/
def byteAt (msg : List Byte) (i : Nat) : Byte := msg.getD i 0#8

/-- The `k`-byte field at offset `i` of a message, little-endian, missing bytes reading as 0 (R192). -/
def leAt (msg : List Byte) (i k : Nat) : Nat := leNat ((List.range k).map (fun j => byteAt msg (i + j)))

/-- A bit as a flag byte's value. -/
def bit (b : Bool) (i : Nat) : Nat := if b then 2 ^ i else 0

/-- One byte holding a number below 256. -/
def byte (v : Nat) : List Byte := leBytes 1 v

/-- One bit into the nest-link CRC register (R56): generator x^16+x^12+x^5+1. -/
def crc16Bit (r : Word16) (b : Bool) : Word16 :=
  if r.getLsbD 15 ^^ b then (r <<< 1) ^^^ 0x1021#16 else r <<< 1

/-- One byte into the nest-link CRC register, most significant bit first (R56). -/
def crc16Byte (r : Word16) (b : Byte) : Word16 :=
  [7, 6, 5, 4, 3, 2, 1, 0].foldl (fun r i => crc16Bit r (b.getLsbD i)) r

/-- The nest-link CRC (R56): the register starts at all ones and is not altered at the end. -/
def crc16 (bs : List Byte) : Word16 := bs.foldl crc16Byte 0xFFFF#16

/-- One bit into the Ethernet check register, held in the reflected bit order (R173). -/
def crc32Bit (r : Word32) (b : Bool) : Word32 :=
  if r.getLsbD 0 ^^ b then (r >>> 1) ^^^ 0xEDB88320#32 else r >>> 1

/-- One byte into the Ethernet check register, least significant bit first (R173). -/
def crc32Byte (r : Word32) (b : Byte) : Word32 :=
  [0, 1, 2, 3, 4, 5, 6, 7].foldl (fun r i => crc32Bit r (b.getLsbD i)) r

/-- The Ethernet frame check sequence (R173): the register starts at all ones and the result is
inverted. -/
def crc32 (bs : List Byte) : Word32 := ~~~(bs.foldl crc32Byte 0xFFFFFFFF#32)

/-- The check sequence as it is sent, least significant byte first (R173). -/
def fcsBytes (bs : List Byte) : List Byte := leBytes 4 (crc32 bs).toNat

/-- A group address: the first byte's lowest bit is set (R174). -/
def isGroupAddress (a : MacAddr) : Bool := a.getLsbD 40

/-- A list cut into pieces of `k`, `fuel` of them at most. -/
def piecesOf (k : Nat) : Nat → List Byte → List (List Byte)
  | 0, _ => []
  | f + 1, bs => bs.take k :: piecesOf k f (bs.drop k)

end Sys2Proof.Machine
end

