-- ==== Sys2Proof/Machine/Codes.lean ====
section
/-! DEFINITION. The enumerated values of the part and their codes (R190, table 11.1). -/

namespace Sys2Proof.Machine

/-- Position of a value in a list, the code of 11.1. -/
def codeIn {α : Type} [DecidableEq α] (l : List α) (a : α) : Nat := l.idxOf a

/-- The value that has code `c` in a list of 11.1, or none. -/
def valueOf {α : Type} (l : List α) (c : Nat) : Option α := l[c]?

/-- Refusal reasons (R6); code 0 is unused. -/
inductive RefusalReason where
  | badForm | lotClosed | draining | sequence | badTarget | badProfile | tooLong | noEntry | noSpace
  | nestBusy
  deriving DecidableEq, Repr

/-- The place of a reason in the order of R6, counted from 0: the index of its counter. -/
def RefusalReason.index (r : RefusalReason) : Fin 10 :=
  match r with
  | .badForm => 0 | .lotClosed => 1 | .draining => 2 | .sequence => 3 | .badTarget => 4
  | .badProfile => 5 | .tooLong => 6 | .noEntry => 7 | .noSpace => 8 | .nestBusy => 9

/-- The code of a refusal reason. -/
def RefusalReason.code (r : RefusalReason) : Nat := r.index.val + 1

/-- Target kinds (R4). -/
inductive TargetKind where
  | nest | group | all
  deriving DecidableEq, Repr

/-- The target kind with a code. -/
def targetKindOf (c : Nat) : Option TargetKind := valueOf [.nest, .group, .all] c

/-- Capture (R109). -/
inductive Capture where
  | none | each | coalesce
  deriving DecidableEq, Repr

/-- The capture with a code. -/
def captureOf (c : Nat) : Option Capture := valueOf [Capture.none, .each, .coalesce] c
/-- The code of a capture. -/
def Capture.code (c : Capture) : Nat := codeIn [Capture.none, .each, .coalesce] c

/-- Policy (R28). -/
inductive Policy where
  | continue_ | stop
  deriving DecidableEq, Repr

/-- The policy with a code. -/
def policyOf (c : Nat) : Option Policy := valueOf [Policy.continue_, .stop] c

/-- Request codes (10.4); code 0 is unused. -/
inductive RequestCode where
  | describe | putRows | getRows | getCounters | getState | openLot | closeLot | abortStream
  | nestAction | releaseAttention | restart
  deriving DecidableEq, Repr

/-- The eleven request codes, in code order from 1. -/
def requestCodes : List RequestCode :=
  [.describe, .putRows, .getRows, .getCounters, .getState, .openLot, .closeLot, .abortStream,
   .nestAction, .releaseAttention, .restart]

/-- The request code with a code, or none. -/
def requestCodeOf (c : Nat) : Option RequestCode := if c = 0 then none else valueOf requestCodes (c - 1)
/-- The code of a request code. -/
def RequestCode.code (r : RequestCode) : Nat := codeIn requestCodes r + 1

/-- Statuses of a response (10.4). -/
inductive Status where
  | ok | badRequest | unknownTable | badRow | inUse | busy | wrongLotState | notHeld
  deriving DecidableEq, Repr

/-- The code of a status. -/
def Status.code (s : Status) : Nat :=
  codeIn [Status.ok, .badRequest, .unknownTable, .badRow, .inUse, .busy, .wrongLotState, .notHeld] s

/-- The tables of PUT_ROWS and GET_ROWS (R183). -/
inductive Table where
  | group | profile | codeSet | nestConfig | allowList | settings
  deriving DecidableEq, Repr

/-- The tables in code order from 1. -/
def tables : List Table := [.group, .profile, .codeSet, .nestConfig, .allowList, .settings]
/-- The table with a code, or none. -/
def tableOf (c : Nat) : Option Table := if c = 0 then none else valueOf tables (c - 1)
/-- The code of a table. -/
def Table.code (t : Table) : Nat := codeIn tables t + 1

/-- The lowest row number of a table (R183). -/
def Table.firstRow (t : Table) : Nat :=
  match t with
  | .profile => 1
  | .group => 0 | .codeSet => 0 | .nestConfig => 0 | .allowList => 0 | .settings => 0

/-- The highest row number of a table (R183). -/
def Table.lastRow (t : Table) : Nat :=
  match t with
  | .group => 63 | .profile => 63 | .codeSet => 63 | .nestConfig => 31 | .allowList => 3 | .settings => 0

/-- The most rows of one request (R183). -/
def Table.maxRows (t : Table) : Nat :=
  match t with
  | .group => 64 | .profile => 12 | .codeSet => 16 | .nestConfig => 32 | .allowList => 4 | .settings => 1

/-- The size of a row image in bytes (11.4). -/
def Table.imageSize (t : Table) : Nat :=
  match t with
  | .group => 6 | .profile => 108 | .codeSet => 66 | .nestConfig => 4 | .allowList => 8 | .settings => 10

/-- Nest actions (R152). -/
inductive NestAction where
  | halt | cycle | exclude | include_ | retrain
  deriving DecidableEq, Repr

/-- The nest actions in code order from 0. -/
def nestActions : List NestAction := [.halt, .cycle, .exclude, .include_, .retrain]
/-- The nest action with a code, or none. -/
def nestActionOf (c : Nat) : Option NestAction := valueOf nestActions c
/-- The code of a nest action. -/
def NestAction.code (a : NestAction) : Nat := codeIn nestActions a

/-- The final result of a copy (spec/00_scope.md, Terms; R106). -/
inductive CopyOutcome where
  | pass | marginal | fail | errored | timeout | absent | halted | voided | skipped
  deriving DecidableEq, Repr

/-- The nine outcomes in code order from 0. -/
def copyOutcomes : List CopyOutcome :=
  [.pass, .marginal, .fail, .errored, .timeout, .absent, .halted, .voided, .skipped]
/-- The code of an outcome. -/
def CopyOutcome.code (o : CopyOutcome) : Nat := codeIn copyOutcomes o

/-- The outcome was judged from a final answer (R104). -/
def CopyOutcome.judged (o : CopyOutcome) : Bool :=
  match o with
  | .pass | .marginal | .fail => true
  | .errored | .timeout | .absent | .halted | .voided | .skipped => false

/-- The outcome is a failure: FAIL, ERRORED or TIMEOUT (R28, R36). -/
def CopyOutcome.failure (o : CopyOutcome) : Bool :=
  match o with
  | .fail | .errored | .timeout => true
  | .pass | .marginal | .absent | .halted | .voided | .skipped => false

/-- The result of one measure for one copy (R90). -/
inductive Verdict where
  | off | notJudged | pass | marginal | low | high | missing | codeBad
  deriving DecidableEq, Repr

/-- The code of a verdict. -/
def Verdict.code (v : Verdict) : Nat :=
  codeIn [Verdict.off, .notJudged, .pass, .marginal, .low, .high, .missing, .codeBad] v

/-- Measure modes (R85). -/
inductive Mode where
  | off | each | last | avg | min | max | span | code
  deriving DecidableEq, Repr

/-- The measure modes in code order from 0. -/
def modes : List Mode := [.off, .each, .last, .avg, .min, .max, .span, .code]
/-- The mode with a code, or none. -/
def modeOf (c : Nat) : Option Mode := valueOf modes c
/-- The code of a mode. -/
def Mode.number (m : Mode) : Nat := codeIn modes m

/-- A nest's status within the lot (2.2). -/
inductive Standing where
  | none | clear | failed | lost | vacant | excluded
  deriving DecidableEq, Repr

/-- The code of a standing. -/
def Standing.code (s : Standing) : Nat :=
  codeIn [Standing.none, .clear, .failed, .lost, .vacant, .excluded] s

/-- Link states of a nest port (R60). -/
inductive LinkState where
  | down | training | up
  deriving DecidableEq, Repr

/-- The code of a link state. -/
def LinkState.code (l : LinkState) : Nat := codeIn [LinkState.down, .training, .up] l

/-- Presence of a phone (R63). -/
inductive Presence where
  | empty | present
  deriving DecidableEq, Repr

/-- The code of a presence. -/
def Presence.code (p : Presence) : Nat := codeIn [Presence.empty, .present] p

/-- Service states of a nest port (R69); WAITING carries the current tag and HALTING the halted tag
(R66). -/
inductive Service where
  | idle
  | waiting (current : Word16)
  | gap
  | halting (halted : Word16)
  | stalled
  deriving DecidableEq, Repr

/-- The code of a service state. -/
def Service.code (s : Service) : Nat :=
  match s with
  | .idle => 0 | .waiting _ => 1 | .gap => 2 | .halting _ => 3 | .stalled => 4

/-- Copy states (R40). -/
inductive CopyState where
  | queued | inService | closing
  deriving DecidableEq, Repr

/-- The code of a copy state; 0 stands for no head (11.1). -/
def CopyState.code (c : CopyState) : Nat := codeIn [CopyState.queued, .inService, .closing] c + 1

/-- Entry states (R15). -/
inductive EntryState where
  | free | live | complete | reporting
  deriving DecidableEq, Repr

/-- The code of an entry state. -/
def EntryState.code (e : EntryState) : Nat :=
  codeIn [EntryState.free, .live, .complete, .reporting] e

/-- Attention slot states (R168). -/
inductive SlotState where
  | empty | pending | held
  deriving DecidableEq, Repr

/-- The code of a slot state. -/
def SlotState.code (s : SlotState) : Nat := codeIn [SlotState.empty, .pending, .held] s

/-- Notice causes (R161). -/
inductive Cause where
  | attention | link | presence | standing | payloadLow | replyLow | stepRefusalLost
  deriving DecidableEq, Repr

/-- A set of causes: one bit for each, bit 0 ATTENTION (11.1). -/
abbrev CauseSet := BitVec 7

/-- The bit of a cause in a cause set (11.1). -/
def Cause.index (c : Cause) : Nat :=
  match c with
  | .attention => 0 | .link => 1 | .presence => 2 | .standing => 3 | .payloadLow => 4 | .replyLow => 5
  | .stepRefusalLost => 6

/-- The cause set holding one cause. -/
def Cause.bit (c : Cause) : CauseSet := 1#7 <<< c.index

/-- The cause is in the set. -/
def CauseSet.has (S : CauseSet) (c : Cause) : Bool := S.getLsbD c.index

/-- Transmit classes, in the arbiter's order (R180). -/
inductive TxClass where
  | response | notice | report | chatter
  deriving DecidableEq, Repr

end Sys2Proof.Machine
end

