-- ==== Sys2Proof/Machine/Link.lean ====
section
/-! DEFINITION. The nest-link frame: what the bridge sends (R57), how its receiver finds and checks a
frame (R55, R56, R58), and the layout of both (11.8). -/

namespace Sys2Proof.Machine

/-- A frame the bridge sends to an adapter (R57). -/
inductive LaneOut where
  /-- GREET: carries the nest number. -/
  | greet (n : Nest)
  /-- RUN: carries the run tag and the step payload. -/
  | run (tag : Word16) (payload : List Byte)
  /-- HALT: carries the tag of the run to stop. -/
  | halt (tag : Word16)
  /-- CYCLE. -/
  | cycle
  deriving DecidableEq, Repr

/-- A good frame from an adapter (R57). -/
inductive LaneIn where
  | welcome (adapterId : Word32) (present : Bool)
  | answer (tag : Word16) (status : Byte) (payload : List Byte)
  | stopped (tag : Word16)
  | presence (present : Bool)
  | note (code : Word16)
  | chat (payload : List Byte)
  deriving DecidableEq, Repr

/-- The bytes of a frame (R55, 11.8): delimiter, kind, tag, payload length, the status byte of an
ANSWER, payload, CRC; the CRC is over the bytes from the kind to the last payload byte (R56). -/
def laneFrame (kind : Byte) (tag : Word16) (status payload : List Byte) : List Byte :=
  let covered := kind :: (beBytes 2 tag.toNat ++ beBytes 2 payload.length ++ status ++ payload)
  Config.delimiter :: (covered ++ beBytes 2 (crc16 covered).toNat)

/-- The presence byte of WELCOME and PRESENCE (R57). -/
def presenceByte (present : Bool) : Byte := if present then 1#8 else 0#8

/-- The bytes of a frame the bridge sends (11.8, R195). -/
def LaneOut.bytes (f : LaneOut) : List Byte :=
  match f with
  | .greet n => laneFrame 0x01#8 0#16 [] (byte n.val)
  | .run tag payload => laneFrame 0x02#8 tag [] payload
  | .halt tag => laneFrame 0x03#8 tag [] []
  | .cycle => laneFrame 0x04#8 0#16 [] []

/-- The bytes of a frame an adapter sends (11.8), its unused tag 0. -/
def LaneIn.bytes (f : LaneIn) : List Byte :=
  match f with
  | .welcome a p => laneFrame 0x81#8 0#16 [] (beBytes 4 a.toNat ++ [presenceByte p])
  | .answer tag status payload => laneFrame 0x82#8 tag [status] payload
  | .stopped tag => laneFrame 0x83#8 tag [] []
  | .presence p => laneFrame 0x84#8 0#16 [] [presenceByte p]
  | .note code => laneFrame 0x85#8 0#16 [] (beBytes 2 code.toNat)
  | .chat payload => laneFrame 0x86#8 0#16 [] payload

/-- A frame fits its kind: ANSWER and CHAT carry at most 256 bytes (R57). -/
def LaneIn.fits (f : LaneIn) : Bool :=
  match f with
  | .answer _ _ payload => payload.length ≤ Config.maxAnswer
  | .chat payload => payload.length ≤ Config.maxAnswer
  | .welcome _ _ | .stopped _ | .presence _ | .note _ => true

/-- A presence byte read: 0 or 1, and no other (R58). -/
def presenceOf (b : Byte) : Option Bool :=
  if b = 0#8 then some false else if b = 1#8 then some true else none

/-- What a complete frame with a good CRC is, by its kind and payload: none is a BAD_FRAME (R58). The
status byte, if any, stands before the payload in `body`. -/
def laneMeaning (kind : Byte) (tag : Word16) (len : Nat) (body : List Byte) : Option LaneIn :=
  if kind = 0x81#8 then
    if len = 5 then
      (presenceOf (byteAt body 4)).map (fun p => .welcome (BitVec.ofNat 32 (beNat (body.take 4))) p)
    else none
  else if kind = 0x82#8 then
    if len ≤ Config.maxAnswer then some (.answer tag (byteAt body 0) (body.drop 1)) else none
  else if kind = 0x83#8 then
    if len = 0 then some (.stopped tag) else none
  else if kind = 0x84#8 then
    if len = 1 then (presenceOf (byteAt body 0)).map (fun p => .presence p) else none
  else if kind = 0x85#8 then
    if len = 2 then some (.note (BitVec.ofNat 16 (beNat body))) else none
  else if kind = 0x86#8 then
    if len ≤ Config.maxAnswer then some (.chat body) else none
  else none

/-- What the receiver makes of the bytes from a start delimiter on (R55, R58): a good frame or a
BAD_FRAME, with the bytes after it, or none while the frame is not complete. -/
def receiveFrame (bytes : List Byte) : Option (Option LaneIn × List Byte) :=
  match bytes with
  | d :: kind :: t1 :: t0 :: l1 :: l0 :: rest =>
    if d ≠ Config.delimiter then none
    else
      let len := beNat [l1, l0]
      if len > Config.maxLinkPayload then some (none, rest)
      else
        let size := if kind = 0x82#8 then len + 1 else len
        if rest.length < size + 2 then none
        else
          let body := rest.take size
          let covered := kind :: t1 :: t0 :: l1 :: l0 :: body
          let crc := (rest.drop size).take 2
          let after := rest.drop (size + 2)
          if crc = beBytes 2 (crc16 covered).toNat then
            some (laneMeaning kind (BitVec.ofNat 16 (beNat [t1, t0])) len body, after)
          else some (none, after)
  | _ => none

/-- The receiver over a stretch of lane bytes (R55): it hunts for a delimiter, takes the frame there and
hunts again; an unfinished frame at the end is dropped. `fuel` bounds the bytes read. -/
def huntFrames : Nat → List Byte → List (Option LaneIn)
  | 0, _ => []
  | _ + 1, [] => []
  | fuel + 1, b :: bs =>
    if b = Config.delimiter then
      match receiveFrame (b :: bs) with
      | some (f, rest) => f :: huntFrames fuel rest
      | none => []
    else huntFrames fuel bs

/-- The bytes are one BAD_FRAME, and nothing after it (R58). -/
def isBadFrame (bytes : List Byte) : Bool := receiveFrame bytes = some (none, [])

end Sys2Proof.Machine
end

