-- ==== Sys2Proof/Machine/Types.lean ====
section
/-! DEFINITION. The records that State is made of, block by block, and the value of each after
power-on. -/

namespace Sys2Proof.Machine

/-! ### Messages -/

/-- A frame in the receive buffer (R175): its source address and its message, from offset 0 to the
message length. -/
structure RxFrame where
  src : MacAddr
  msg : List Byte
  deriving DecidableEq, Repr

/-- The fields of a REFUSAL (R10). -/
structure RefusalMsg where
  tag : Word16
  stream : Byte
  stepNumber : Word16
  reason : RefusalReason
  detail : Nat
  expected : Word16
  freeEntries : Nat
  freeBlocks : Nat
  deriving DecidableEq, Repr

/-- A request as the Management Engine answers it: where the response goes (R176) and what it echoes
(R195). -/
structure Req where
  dest : MacAddr
  tag : Word16
  id : Word32
  code : Byte
  deriving DecidableEq, Repr

/-- A RESPONSE (11.5): the request echoed, the status and the result data. -/
structure ResponseMsg where
  req : Req
  status : Status
  result : List Byte
  deriving DecidableEq, Repr

/-- A frame of the RESPONSE class queue (R179). -/
inductive ResponseFrame where
  | refusal (dest : MacAddr) (msg : RefusalMsg)
  | response (msg : ResponseMsg)
  deriving DecidableEq, Repr

/-- The report header (R138). -/
structure ReportHeader where
  stream : StreamId
  stepNumber : Word16
  lotId : Word32
  clamped : Bool
  aborted : Bool
  capture : Capture
  targetCount : Nat
  outcomeCounts : List Nat
  variantCount : Nat
  segmentCount : Nat
  freeEntries : Nat
  freeBlocks : Nat
  freeCells : Nat
  expected : Word16
  deriving DecidableEq, Repr

/-- One measure result of a nest record (R107). -/
structure MeasureResult where
  verdict : Verdict
  sat : Bool
  value : Int
  deriving DecidableEq, Repr

/-- One nest record of a report (R140). -/
structure NestRecord where
  nest : Nest
  outcome : Option CopyOutcome
  runs : Nat
  variant : Option Nat
  measures : List MeasureResult
  deriving DecidableEq, Repr

/-- One variant record of a report (R141); `payload` is empty where the variant carries none. -/
structure VariantRecord where
  index : Nat
  truncated : Bool
  digest : Word16
  length : Nat
  nests : NestSet
  payload : List Byte
  deriving DecidableEq, Repr

/-- The body of a segment (11.5): segment 0 carries the header and the nest records, the others variant
records (R142). -/
inductive SegmentBody where
  | head (header : ReportHeader) (records : List NestRecord)
  | variants (records : List VariantRecord)
  deriving DecidableEq, Repr

/-- A REPORT segment (R143). -/
structure SegmentMsg where
  stream : StreamId
  stepNumber : Word16
  index : Nat
  last : Bool
  body : SegmentBody
  deriving DecidableEq, Repr

/-- An attention record of a notice (R166). -/
structure AttentionRecord where
  nest : Nest
  code : Word16
  superseded : Bool
  deriving DecidableEq, Repr

/-- A NOTICE (R166). -/
structure NoticeMsg where
  serial : Word16
  causes : CauseSet
  links : NestSet
  standings : NestSet
  attention : List AttentionRecord
  deriving DecidableEq, Repr

/-- A CHATTER message (R81). -/
structure ChatterMsg where
  nest : Nest
  payload : List Byte
  deriving DecidableEq, Repr

/-! ### Uplink Port and Message Dispatcher -/

/-- An allow list entry (R174); an invalid entry stores no address and reads back with address 0. -/
structure AllowEntry where
  valid : Bool
  addr : MacAddr
  deriving DecidableEq, Repr

/-- The frame being sent on the uplink (R180): its class and its bytes, fixed as it begins (R176). -/
structure Sending where
  cls : TxClass
  frame : List Byte
  deriving DecidableEq, Repr

/-- The Uplink Port (chapter 10). -/
structure Uplink where
  mac : MacAddr
  allow : Vector AllowEntry 4
  reportAddr : MacAddr
  linkUp : Bool
  rx : List RxFrame
  response : List ResponseFrame
  notice : List NoticeMsg
  report : List SegmentMsg
  chatter : List ChatterMsg
  tx : Option Sending
  deriving DecidableEq, Repr

/-- A request passed to the Management Engine and not yet answered because other blocks still have to
take their parts. -/
inductive Task where
  /-- ABORT_STREAM (R146): the nest ports that have not taken their part, and the counts so far. -/
  | abort (req : Req) (stream : StreamId) (marked halted voided : Nat) (remaining : NestSet)
  /-- NEST_ACTION RETRAIN (R157): the absences of the nest that the Lot Controller must take before the
  response is built (R152), and the link state after the action. -/
  | retrain (req : Req) (nest : Nest) (absences : Nat) (link : LinkState)
  deriving DecidableEq, Repr

/-- RESTART answered and not yet carried out (R187): waiting for its response to be sent, or due. -/
inductive RestartState where
  | none | waiting | due
  deriving DecidableEq, Repr

/-- The Message Dispatcher (R177). The head message is the head of the receive buffer. -/
structure Dispatcher where
  waiting : Bool
  task : Option Task
  restart : RestartState
  deriving DecidableEq, Repr

/-! ### Step Intake, Step Table, Payload Store -/

/-- A stream record (R1); `draining` is the stream state. -/
structure StreamRec where
  expected : Word16
  draining : Bool
  deriving DecidableEq, Repr

/-- Where a variant stands (R112). -/
inductive Residence where
  | uncached
  | resident (set : Fin 256) (way : Fin 2)
  | settled
  deriving DecidableEq, Repr

/-- A variant (R112); its index is its place in the variant list. -/
structure Variant where
  digest : Word16
  length : Nat
  nests : NestSet
  cell : Option CellId
  truncated : Bool
  residence : Residence
  deriving DecidableEq, Repr

/-- A step entry (R14). -/
structure StepEntry where
  state : EntryState
  stream : StreamId
  stepNumber : Word16
  target : NestSet
  profile : Fin 64
  capture : Capture
  policy : Policy
  reps : Nat
  deadline : Nat
  gap : Nat
  payloadLength : Nat
  blocks : List BlockId
  pending : Nat
  clamped : Bool
  aborted : Bool
  variants : List Variant
  deriving DecidableEq, Repr

/-- A FREE entry as it stands after a reset (R17); the fields without a meaning in a FREE entry (R14)
have the values of log entry 10. -/
def StepEntry.free : StepEntry :=
  { state := .free, stream := 0, stepNumber := 0, target := 0, profile := 0, capture := .none,
    policy := .continue_, reps := 0, deadline := 0, gap := 0, payloadLength := 0, blocks := [],
    pending := 0, clamped := false, aborted := false, variants := [] }

/-- The Step Table (R14, R16). -/
structure StepTable where
  entries : Vector StepEntry 64
  alloc : EntryId
  deriving DecidableEq, Repr

/-- The Payload Store (R18, R19); a block holds the bytes written into it. -/
structure PayloadStore where
  blocks : Vector (List Byte) 512
  free : List BlockId
  refs : Vector Nat 64
  deriving DecidableEq, Repr

/-! ### Nest ports -/

/-- A Nest Config row (R64). -/
structure NestConfig where
  enabled : Bool
  excluded : Bool
  chatter : Bool
  haltGrace : Nat
  deriving DecidableEq, Repr

/-- A copy in a nest's queue (R40), with the step number of its step, which GET_STATE returns for the head
(R54). `freed`: the entry of this CLOSING copy has been freed, so that it is a copy of no entry any more (R43)
and only keeps its place at the head until its halt ends (R40; log entry 32). -/
structure Copy where
  entry : EntryId
  stream : StreamId
  stepNumber : Word16
  state : CopyState
  runs : Nat
  freed : Bool
  deriving DecidableEq, Repr

/-- A copy once entry `e` has been freed (R43; log entry 32). -/
def Copy.release (e : EntryId) (c : Copy) : Copy :=
  if c.entry = e ∧ c.state = .closing then { c with freed := true } else c

/-- A timer (R68): stopped; waiting for its starting frame to leave the lane, when it is loaded; or running
since then with the duration it was loaded with. -/
inductive Timer where
  | stopped
  | armed
  | running (duration : Nat)
  deriving DecidableEq, Repr

/-- The timer runs. -/
def Timer.isRunning (t : Timer) : Bool :=
  match t with
  | .running _ => true
  | .stopped | .armed => false

/-- The six per-nest counters (R82). -/
structure NestCounters where
  runsSent : Word32
  answers : Word32
  late : Word32
  badFrames : Word32
  timeouts : Word32
  chatterDropped : Word32
  deriving DecidableEq, Repr

/-- A Nest Port (chapter 4). The head of `backlog` is the frame being sent (R55). -/
structure NestPort where
  link : LinkState
  presence : Presence
  adapterId : Word32
  config : NestConfig
  runTag : Word16
  service : Service
  stopHold : Bool
  deadline : Timer
  gap : Timer
  grace : Timer
  greet : Timer
  queue : List Copy
  backlog : List LaneOut
  counters : NestCounters
  deriving DecidableEq, Repr

/-- All six per-nest counters 0. -/
def NestCounters.zero : NestCounters :=
  { runsSent := 0, answers := 0, late := 0, badFrames := 0, timeouts := 0, chatterDropped := 0 }

/-- A nest port after a reset, with the Nest Config row `c` (R60, R63, R66, R68, R69, R82). -/
def NestPort.initial (c : NestConfig) : NestPort :=
  { link := .down, presence := .empty, adapterId := 0, config := c, runTag := 0, service := .idle,
    stopHold := false, deadline := .stopped, gap := .stopped, grace := .stopped, greet := .stopped,
    queue := [], backlog := [], counters := NestCounters.zero }

/-- The Nest Config row after power-on, with its enabled flag (R64). -/
def NestConfig.default (enabled : Bool) : NestConfig :=
  { enabled := enabled, excluded := false, chatter := false, haltGrace := Config.defaultGrace }

/-! ### Judgement Unit -/

/-- A measure slot of a Profile row (R85), its fields as its image gives them (11.4). -/
structure MeasureSlot where
  mode : Mode
  position : Byte
  width : Byte
  signed : Bool
  gain : Word16
  shift : Byte
  codeSet : Byte
  window : Byte
  bias : Word32
  low : Word32
  high : Word32
  guard : Word32
  deriving DecidableEq, Repr

/-- A slot with mode OFF and every other field 0 (R84). -/
def MeasureSlot.zero : MeasureSlot :=
  { mode := .off, position := 0, width := 0, signed := false, gain := 0, shift := 0, codeSet := 0,
    window := 0, bias := 0, low := 0, high := 0, guard := 0 }

/-- A Profile row (R84) with its pin count (R87). -/
structure ProfileRow where
  defined : Bool
  slots : Vector MeasureSlot 4
  pins : Nat
  deriving DecidableEq, Repr

/-- An undefined row with pin count 0 (R84). -/
def ProfileRow.empty : ProfileRow :=
  { defined := false, slots := Vector.replicate 4 MeasureSlot.zero, pins := 0 }

/-- The code state of a CODE slot (R90, R103). -/
inductive CodeState where
  | pass | codeBad | missing
  deriving DecidableEq, Repr

/-- A slot record of the Judgement Store (R90). `last = none` is MISSING. -/
structure SlotRecord where
  n : Nat
  sum : Int
  min : Option Int
  max : Option Int
  last : Option Int
  held : Option (Verdict × Int)
  codeState : CodeState
  firstBad : Option Word16
  lastCode : Option Word16
  sat : Bool
  verdict : Verdict
  value : Int
  deriving DecidableEq, Repr

/-- The cleared slot record (R90). -/
def SlotRecord.cleared : SlotRecord :=
  { n := 0, sum := 0, min := none, max := none, last := none, held := none, codeState := .pass,
    firstBad := none, lastCode := none, sat := false, verdict := .off, value := 0 }

/-- A Judgement Store record (R90). -/
structure Record where
  outcome : Option CopyOutcome
  runs : Nat
  variant : Option Nat
  slots : Vector SlotRecord 4
  deriving DecidableEq, Repr

/-- The cleared record (R90). -/
def Record.cleared : Record :=
  { outcome := none, runs := 0, variant := none, slots := Vector.replicate 4 SlotRecord.cleared }

/-- The Judgement Unit (chapter 5). Profile rows stand at their numbers 1..63; place 0 is no row of the
table and is never written (R84). A code set row is a 512-bit chunk, index `512 k + i` at bit `i`
(R88). -/
structure Judgement where
  profiles : Vector ProfileRow 64
  codeSets : Vector (BitVec 512) 64
  records : Vector (Vector Record 32) 64
  deriving DecidableEq, Repr

/-! ### Coalescing Unit -/

/-- A valid way of the Variant Table (R116). -/
structure Way where
  entry : EntryId
  digest : Word16
  length : Nat
  index : Nat
  deriving DecidableEq, Repr

/-- A set of the Variant Table (R116): two ways, each valid or not, and the LRU mark. -/
structure VariantSet where
  ways : Vector (Option Way) 2
  lru : Fin 2
  deriving DecidableEq, Repr

/-- A set with both ways invalid and its mark naming way 0 (R116). -/
def VariantSet.empty : VariantSet := { ways := Vector.replicate 2 none, lru := 0 }

/-- The Coalescing Unit (chapter 6); a cell holds the bytes written into it. -/
structure Coalescing where
  sets : Vector VariantSet 256
  cells : Vector (List Byte) 512
  free : List CellId
  deriving DecidableEq, Repr

/-! ### Retire Unit -/

/-- A retirement in progress (7.4): the entry, the next segment to place, and the header and nest records
fixed at its start (R134). -/
structure Retirement where
  entry : EntryId
  next : Nat
  header : ReportHeader
  records : List NestRecord
  deriving DecidableEq, Repr

/-- The Retire Unit (chapter 7). -/
structure Retire where
  lists : Vector (List EntryId) 4
  candidate : Option EntryId
  rotation : StreamId
  progress : Option Retirement
  deriving DecidableEq, Repr

/-! ### Lot Controller -/

/-- Why a void instruction was given: it answers a stop failure (R28) or a stall (R30). The voids of a
cycle or an exclude are taken within their NEST_ACTION (R154, R155). -/
inductive VoidCause where
  | stopFailure | stall
  deriving DecidableEq, Repr

/-- An event that a nest port delivers to the Lot Controller (R27): the stop failure of a copy of an entry
(R28), an absence (R29) or a stall (R30). -/
inductive StandingEvent where
  | stopFailure (entry : EntryId)
  | absence
  | stall
  deriving DecidableEq, Repr

/-- What the Lot Controller holds for one nest (R23, R36), with the outcomes (R36, R46) and the events (R27)
delivered to it and not yet taken, oldest first, and the void instructions it gave that the nest port has
not taken (R34). -/
structure LotNest where
  standing : Standing
  passes : Word16
  marginals : Word16
  failures : Word16
  outcomes : List (EntryId × CopyOutcome)
  events : List StandingEvent
  voids : List VoidCause
  deriving DecidableEq, Repr

/-- A nest of the Lot Controller after a reset (R23). -/
def LotNest.initial : LotNest :=
  { standing := .none, passes := 0, marginals := 0, failures := 0, outcomes := [], events := [],
    voids := [] }

/-- The Lot Controller (R23). -/
structure Lot where
  isOpen : Bool
  id : Word32
  nests : Vector LotNest 32
  deriving DecidableEq, Repr

/-! ### Notice Unit and Management Engine -/

/-- An attention slot (R168). -/
structure Slot where
  state : SlotState
  code : Word16
  superseded : Bool
  missed : Bool
  deriving DecidableEq, Repr

/-- An EMPTY slot (R168). -/
def Slot.none : Slot := { state := .empty, code := 0, superseded := false, missed := false }

/-- The Notice Unit (chapter 9); the throttle timer is stopped or running. -/
structure NoticeUnit where
  causes : CauseSet
  links : NestSet
  standings : NestSet
  slots : Vector Slot 32
  throttle : Timer
  serial : Word16
  deriving DecidableEq, Repr

/-- The Notice Unit after a reset (R160). -/
def NoticeUnit.initial : NoticeUnit :=
  { causes := 0, links := 0, standings := 0, slots := Vector.replicate 32 Slot.none,
    throttle := .stopped, serial := 0 }

/-- The Settings row (R185). -/
structure Settings where
  throttle : Nat
  payloadLow : Nat
  replyLow : Nat
  mask : CauseSet
  deriving DecidableEq, Repr

/-- The Settings row after power-on (R185): every cause masked. -/
def Settings.default : Settings := { throttle := 0, payloadLow := 0, replyLow := 0, mask := 0x7F#7 }

/-- The twenty global counters (R186); the refusal counters in reason order. -/
structure Globals where
  rxAccepted : Word32
  rxFilter : Word32
  rxMalformed : Word32
  rxOverflow : Word32
  stepsAccepted : Word32
  refused : Vector Word32 10
  refusalsLost : Word32
  reports : Word32
  notices : Word32
  evictions : Word32
  truncations : Word32
  deriving DecidableEq, Repr

/-- Every global counter 0. -/
def Globals.zero : Globals :=
  { rxAccepted := 0, rxFilter := 0, rxMalformed := 0, rxOverflow := 0, stepsAccepted := 0,
    refused := Vector.replicate 10 0, refusalsLost := 0, reports := 0, notices := 0, evictions := 0,
    truncations := 0 }

/-- The Management Engine (chapter 10). -/
structure Management where
  settings : Settings
  counters : Globals
  time : Word32
  strap : BitVec 4
  fromFlash : Bool
  deriving DecidableEq, Repr

/-- Where the part stands between a reset and its run (R189): the reset pin is held; the Configuration
Loader runs; or the part runs. -/
inductive Phase where
  | held | loading | running
  deriving DecidableEq, Repr

end Sys2Proof.Machine
end

