-- ==== Sys2Proof/Machine/State.lean ====
section
/-! DEFINITION. The state of the part, the reasons a step may stop, and the state right after power-on. -/

namespace Sys2Proof.Machine

/-- The part raises no fault that stops it: what the manual calls bad is an effect on State. No meaning
raises one; the type has no constructor. -/
inductive Fault where
  deriving DecidableEq, Repr

/-- The reasons a command has no meaning. -/
inductive Refusal where
  /-- The command's meaning is not written. Raised by exec alone, for an arm rejected by name; safe. No
  arm is. -/
  | notModelled (mnemonic : String)
  deriving DecidableEq, Repr

/-- Everything the spec gives the part, block by block, and the queue of waiting commands. `phase`,
`signal` and `phyUp` are what the part sees at its pins: the reset pin and the loader, the lane signal
levels (R60) and the link status the PHY reports (R180). -/
structure State where
  phase : Phase
  signal : Vector Bool 32
  phyUp : Bool
  uplink : Uplink
  dispatcher : Dispatcher
  streams : Vector StreamRec 4
  table : StepTable
  payload : PayloadStore
  groups : Vector NestSet 64
  ports : Vector NestPort 32
  judge : Judgement
  coalesce : Coalescing
  retire : Retire
  lot : Lot
  notice : NoticeUnit
  mgmt : Management
  pending : List Instr
  deriving DecidableEq, Repr

/-! ### The values after each reset, block by block -/

/-- The uplink's queues and report address after any reset (R175, R176, R179, R187), the rest kept. -/
def Uplink.cleared (u : Uplink) : Uplink :=
  { u with reportAddr := Config.broadcast, rx := [], response := [], notice := [], report := [],
           chatter := [], tx := none }

/-- The Uplink Port after power-on, before loading has ended (R189; log entry 9). -/
def Uplink.initial : Uplink :=
  { mac := 0, allow := Vector.replicate 4 { valid := false, addr := 0 },
    reportAddr := Config.broadcast, linkUp := false, rx := [], response := [], notice := [],
    report := [], chatter := [], tx := none }

/-- The Dispatcher after any reset (R178). -/
def Dispatcher.initial : Dispatcher := { waiting := false, task := none, restart := .none }

/-- The stream records after any reset (R1). -/
def initialStreams : Vector StreamRec 4 := Vector.replicate 4 { expected := 0, draining := false }

/-- The Step Table after any reset (R17). -/
def StepTable.initial : StepTable := { entries := Vector.replicate 64 StepEntry.free, alloc := 0 }

/-- The Payload Store after any reset (R18): the free list in ascending order. -/
def PayloadStore.initial : PayloadStore :=
  { blocks := Vector.replicate 512 [], free := List.finRange 512, refs := Vector.replicate 64 0 }

/-- The Judgement Store after any reset (R90). -/
def initialRecords : Vector (Vector Record 32) 64 :=
  Vector.replicate 64 (Vector.replicate 32 Record.cleared)

/-- The Judgement Unit after power-on (R84, R88, R90). -/
def Judgement.initial : Judgement :=
  { profiles := Vector.replicate 64 ProfileRow.empty, codeSets := Vector.replicate 64 0,
    records := initialRecords }

/-- The Coalescing Unit after any reset (R128). -/
def Coalescing.initial : Coalescing :=
  { sets := Vector.replicate 256 VariantSet.empty, cells := Vector.replicate 512 [],
    free := List.finRange 512 }

/-- The Retire Unit after any reset (R145). -/
def Retire.initial : Retire :=
  { lists := Vector.replicate 4 [], candidate := none, rotation := 0, progress := none }

/-- The Lot Controller after any reset (R23). -/
def Lot.initial : Lot := { isOpen := false, id := 0, nests := Vector.replicate 32 LotNest.initial }

/-- The state right after power-on with strap value 0, the Configuration Loader running (R189), no lane
signal, the PHY's link down and no command waiting (log entry 9). -/
def State.reset : State :=
  { phase := .loading, signal := Vector.replicate 32 false, phyUp := false,
    uplink := Uplink.initial, dispatcher := Dispatcher.initial, streams := initialStreams,
    table := StepTable.initial, payload := PayloadStore.initial, groups := Vector.replicate 64 0,
    ports := Vector.replicate 32 (NestPort.initial (NestConfig.default false)),
    judge := Judgement.initial, coalesce := Coalescing.initial, retire := Retire.initial,
    lot := Lot.initial, notice := NoticeUnit.initial,
    mgmt := { settings := Settings.default, counters := Globals.zero, time := 0, strap := 0,
              fromFlash := false },
    pending := [] }

end Sys2Proof.Machine
end

