-- ==== Sys2Proof/Machine/Flags.lean ====
section
/-! DEFINITION. Saturating counters, notice causes and their nest sets. -/

namespace Sys2Proof.Machine

/-- A 32-bit counter increased by one, saturating (spec/00_scope.md, Counters; R186). -/
def satInc (c : Word32) : Word32 := if c = BitVec.allOnes 32 then c else c + 1#32

/-- A 16-bit lot tally increased by one, saturating (R36). -/
def satInc16 (c : Word16) : Word16 := if c = BitVec.allOnes 16 then c else c + 1#16

/-- The Notice Unit changed by `f`. -/
def State.updNotice (s : State) (f : NoticeUnit → NoticeUnit) : State := { s with notice := f s.notice }

/-- The Management Engine's global counters changed by `f` (R186). -/
def State.updCounters (s : State) (f : Globals → Globals) : State :=
  { s with mgmt := { s.mgmt with counters := f s.mgmt.counters } }

/-- A raise sets the cause; one already set stays set (R161). -/
def raiseCause (c : Cause) (s : State) : State :=
  s.updNotice (fun u => { u with causes := u.causes ||| c.bit })

/-- A raise of LINK for nest `n` (R62, R162). -/
def raiseLink (n : Nest) (s : State) : State :=
  s.updNotice (fun u => { u with causes := u.causes ||| Cause.link.bit, links := NestSet.insert u.links n })

/-- A raise of STANDING for nest `n` (R35, R162). -/
def raiseStanding (n : Nest) (s : State) : State :=
  s.updNotice (fun u =>
    { u with causes := u.causes ||| Cause.standing.bit, standings := NestSet.insert u.standings n })

/-- The causes that are set and not masked (R163, R165). -/
def eligibleCauses (s : State) : CauseSet := s.notice.causes &&& ~~~s.mgmt.settings.mask

end Sys2Proof.Machine
end

