-- ==== Sys2Proof/Machine/Ops.lean ====
section
/-! DEFINITION. The operations over the part's tables and stores that every block's meanings share:
reading and changing one row, the Payload Store, delivering an event, and the frames of a lane. -/

namespace Sys2Proof.Machine

/-- The answer of a meaning whose event takes place when `enabled` holds: `t` then, and otherwise the
state as it stood, since an event that cannot take place changes nothing (log entry 1). -/
def takesPlace (enabled : Bool) (s t : State) : Host.Outcome State Fault Refusal :=
  .next (if enabled then t else s)

/-- The part runs: neither held in reset nor loading (R189). -/
def State.running (s : State) : Bool := s.phase = .running

/-! ### One row read or changed -/

/-- The nest port of nest `n`. -/
def State.port (s : State) (n : Nest) : NestPort := s.ports[n.val]
/-- The nest port of nest `n` changed by `f`. -/
def State.updPort (s : State) (n : Nest) (f : NestPort → NestPort) : State :=
  { s with ports := upd s.ports n f }
/-- Step entry `e`. -/
def State.entry (s : State) (e : EntryId) : StepEntry := s.table.entries[e.val]
/-- Step entry `e` changed by `f`. -/
def State.updEntry (s : State) (e : EntryId) (f : StepEntry → StepEntry) : State :=
  { s with table := { s.table with entries := upd s.table.entries e f } }
/-- The Lot Controller's record of nest `n`. -/
def State.lotNest (s : State) (n : Nest) : LotNest := s.lot.nests[n.val]
/-- The Lot Controller's record of nest `n` changed by `f`. -/
def State.updLotNest (s : State) (n : Nest) (f : LotNest → LotNest) : State :=
  { s with lot := { s.lot with nests := upd s.lot.nests n f } }
/-- The stream record of stream `st`. -/
def State.stream (s : State) (st : StreamId) : StreamRec := s.streams[st.val]
/-- The stream record of stream `st` changed by `f`. -/
def State.updStream (s : State) (st : StreamId) (f : StreamRec → StreamRec) : State :=
  { s with streams := upd s.streams st f }
/-- The retire list of stream `st` (R130). -/
def State.retireList (s : State) (st : StreamId) : List EntryId := s.retire.lists[st.val]
/-- The Retire Unit changed by `f`. -/
def State.updRetire (s : State) (f : Retire → Retire) : State := { s with retire := f s.retire }
/-- The Judgement Store record of entry `e` and nest `n` (R90). -/
def State.record (s : State) (e : EntryId) (n : Nest) : Record := (s.judge.records[e.val])[n.val]
/-- The Judgement Store record of entry `e` and nest `n` changed by `f`. -/
def State.updRecord (s : State) (e : EntryId) (n : Nest) (f : Record → Record) : State :=
  { s with judge := { s.judge with records := upd s.judge.records e (fun r => upd r n f) } }
/-- Profile row `r` (R84). -/
def State.profile (s : State) (r : Fin 64) : ProfileRow := s.judge.profiles[r.val]
/-- Profile row `r` changed by `f`. -/
def State.updProfile (s : State) (r : Fin 64) (f : ProfileRow → ProfileRow) : State :=
  { s with judge := { s.judge with profiles := upd s.judge.profiles r f } }
/-- The per-nest counters of nest `n` changed by `f` (R82). -/
def State.updNestCounters (s : State) (n : Nest) (f : NestCounters → NestCounters) : State :=
  s.updPort n (fun p => { p with counters := f p.counters })

/-- The number of FREE step entries (R10, R21). -/
def freeEntries (s : State) : Nat := s.table.entries.toList.countP (fun e => e.state = .free)
/-- Some step entry is not FREE (R24, R26). -/
def someEntryInUse (s : State) : Bool := s.table.entries.toList.any (fun e => e.state ≠ .free)
/-- The number of step entries that are not FREE (R187). -/
def entriesInUse (s : State) : Nat := s.table.entries.toList.countP (fun e => e.state ≠ .free)

/-! ### The Payload Store (R18, R19) -/

/-- The blocks a payload of `len` bytes needs: its length over 256, rounded up (R18). -/
def blocksNeeded (len : Nat) : Nat := (len + (Config.blockSize - 1)) / Config.blockSize

/-- Bytes written into blocks, 256 to a block, in list order (R18). -/
def writeBlocks (blocks : List BlockId) (payload : List Byte) (v : Vector (List Byte) 512) :
    Vector (List Byte) 512 :=
  (blocks.zip (piecesOf Config.blockSize blocks.length payload)).foldl
    (fun w bp => upd w bp.1 (fun _ => bp.2)) v

/-- The payload of entry `e`, from its blocks in block order (R18, R57). -/
def stepPayload (s : State) (e : EntryId) : List Byte :=
  ((s.entry e).blocks.flatMap (fun b => s.payload.blocks[b.val])).take (s.entry e).payloadLength

/-- The blocks of entry `e` go to the tail of the free list in the step's own block order, and the
entry's list of block numbers is emptied (R19). -/
def freeBlocks (e : EntryId) (s : State) : State :=
  { s.updEntry e (fun x => { x with blocks := [] }) with
    payload := { s.payload with free := s.payload.free ++ (s.entry e).blocks } }

/-- A final outcome lowers the step's reference count by one, and at 0 frees its blocks (R19). -/
def lowerReference (e : EntryId) (s : State) : State :=
  let s1 := { s with payload := { s.payload with refs := upd s.payload.refs e (fun k => k - 1) } }
  if s.payload.refs[e.val] - 1 = 0 then freeBlocks e s1 else s1

/-! ### Choosing the next report (R133) -/

/-- The head of stream `st`'s retire list, if it is COMPLETE. -/
def completeHead (s : State) (st : StreamId) : Option EntryId :=
  match s.retireList st with
  | e :: _ => if (s.entry e).state = .complete then some e else none
  | [] => none

/-- The streams in rotation order, from the rotation pointer (R133). -/
def rotationOrder (r : StreamId) : List StreamId := [r, r + 1, r + 2, r + 3]

/-- The choice of a candidate: made when there is none and no retirement is in progress; the first
stream from the rotation pointer whose head is COMPLETE supplies it (R133). -/
def chooseCandidate (s : State) : State :=
  if s.retire.candidate = none ∧ s.retire.progress = none then
    s.updRetire (fun r =>
      { r with candidate := (rotationOrder r.rotation).findSome? (completeHead s) })
  else s

/-- A final outcome lowers the entry's pending count by one, and at 0 the LIVE entry becomes COMPLETE
and is reported to the Retire Unit (R15, R129). -/
def lowerPending (e : EntryId) (s : State) : State :=
  let k := (s.entry e).pending - 1
  if k = 0 ∧ (s.entry e).state = .live then
    chooseCandidate (s.updEntry e (fun x => { x with pending := k, state := .complete }))
  else s.updEntry e (fun x => { x with pending := k })

/-! ### Events delivered to the Lot Controller (log entry 5) -/

/-- The outcome of a copy of entry `e` on nest `n` is delivered (R46 item 5). -/
def deliverOutcome (n : Nest) (e : EntryId) (o : CopyOutcome) (s : State) : State :=
  s.updLotNest n (fun l => { l with outcomes := l.outcomes ++ [(e, o)] })

/-- An event of nest `n` is delivered, behind those delivered before it: the Lot Controller takes the events
of one nest in the order delivered, as R30 has it of a stall behind a stop failure. -/
def deliverEvent (n : Nest) (x : StandingEvent) (s : State) : State :=
  s.updLotNest n (fun l => { l with events := l.events ++ [x] })

/-- An absence of nest `n` is delivered (R29). -/
def deliverAbsence (n : Nest) (s : State) : State := deliverEvent n .absence s

/-- A stall of nest `n` is delivered (R76). -/
def deliverStall (n : Nest) (s : State) : State := deliverEvent n .stall s

/-- A failing outcome of a copy of a step under policy STOP is delivered as a stop failure and sets the
stop hold (R28, R74). -/
def deliverStopFailure (n : Nest) (e : EntryId) (o : CopyOutcome) (s : State) : State :=
  if o.failure ∧ (s.entry e).policy = .stop then
    (deliverEvent n (.stopFailure e) s).updPort n (fun p => { p with stopHold := true })
  else s

/-! ### The frames of a lane (R55) -/

/-- A frame the port produces joins the tail of what it sends (R55). -/
def sendLane (n : Nest) (f : LaneOut) (s : State) : State :=
  s.updPort n (fun p => { p with backlog := p.backlog ++ [f] })

/-- A received BAD_FRAME: counted in TRAINING and UP, and no other effect (R58). -/
def countBadFrame (n : Nest) (s : State) : State :=
  if (s.port n).link = .down then s
  else s.updNestCounters n (fun c => { c with badFrames := satInc c.badFrames })

/-- A frame taken as LATE is counted (R67). -/
def countLate (n : Nest) (s : State) : State :=
  s.updNestCounters n (fun c => { c with late := satInc c.late })

end Sys2Proof.Machine
end

