-- ==== Sys2Proof/Machine/Judge.lean ====
section
/-! DEFINITION. The Judgement Unit (chapter 5): extraction, scaling, accumulation, the compared value,
the verdict and the copy outcome. -/

namespace Sys2Proof.Machine

/-- Least value a slot can hold, −2^31 (R95). -/
def valueMin : Int := -2147483648
/-- Greatest value a slot can hold, 2^31−1 (R95). -/
def valueMax : Int := 2147483647

/-- The slot is used: its mode is not OFF (R85). -/
def MeasureSlot.used (m : MeasureSlot) : Bool := m.mode ≠ .off

/-- A `width`-byte field read as two's complement (R93). -/
def signedField (width x : Nat) : Int :=
  if x < 2 ^ (8 * width - 1) then (x : Int) else (x : Int) - 2 ^ (8 * width)

/-- Stage 1 (R93): the raw value, or none where the run is MISSING for this slot. -/
def extractRaw (m : MeasureSlot) (payload : List Byte) : Option Int :=
  if payload.length < m.position.toNat + m.width.toNat then none
  else
    let x := leAt payload m.position.toNat m.width.toNat
    some (if m.signed then signedField m.width.toNat x else (x : Int))

/-- The exact value before the clamp (R94, R95): product, shift with halves toward plus infinity, bias. -/
def scaleExact (m : MeasureSlot) (x : Int) : Int :=
  let p := x * m.gain.toInt
  let sh := m.shift.toNat
  let q := if sh = 0 then p else (p + 2 ^ (sh - 1)) / 2 ^ sh
  q + m.bias.toInt

/-- The clamp to −2^31..2^31−1 (R95). -/
def clampValue (y : Int) : Int := if y < valueMin then valueMin else if y > valueMax then valueMax else y

/-- The band test (R100), the sums formed exactly. -/
def bandTest (m : MeasureSlot) (v : Int) : Verdict :=
  if v < m.low.toInt then .low
  else if v > m.high.toInt then .high
  else if v < m.low.toInt + m.guard.toNat ∨ v > m.high.toInt - m.guard.toNat then .marginal
  else .pass

/-- The rank of a run's verdict in EACH (R97). -/
def rankOfVerdict (v : Verdict) : Nat :=
  match v with
  | .pass => 1
  | .marginal => 2
  | .low | .high => 3
  | .missing => 4
  | .off | .notJudged | .codeBad => 0

/-- Holding the worst run's verdict, the earliest of equal rank (R97). -/
def holdWorse (held : Option (Verdict × Int)) (v : Verdict) (y : Int) : Option (Verdict × Int) :=
  match held with
  | none => some (v, y)
  | some (hv, hy) => if rankOfVerdict hv < rankOfVerdict v then some (v, y) else some (hv, hy)

/-- The accumulator of LAST, AVG, MIN, MAX and SPAN after a run (R96). -/
def accumulate (r : SlotRecord) (y : Option Int) : SlotRecord :=
  match y with
  | none => { r with last := none }
  | some y =>
    { r with
      n := r.n + 1, sum := r.sum + y,
      min := some (match r.min with | none => y | some a => if y < a then y else a),
      max := some (match r.max with | none => y | some a => if a < y then y else a),
      last := some y }

/-- The 12 bits of a code that index the set (R102). -/
def windowIndex (window : Byte) (u : Nat) : Nat :=
  match window.toNat with
  | 0 => u % 4096
  | 1 => u / 4 % 4096
  | 2 => u / 8 % 4096
  | _ => u / 16

/-- Bit `index` of code set `c`, from the chunk rows (R88). -/
def codeAccepted (sets : Vector (BitVec 512) 64) (c index : Nat) : Bool :=
  (sets.toList.getD (8 * c + index / 512) 0).getLsbD (index % 512)

/-- The code fields after a run (R102, R103). -/
def codeRun (m : MeasureSlot) (sets : Vector (BitVec 512) 64) (payload : List Byte) (r : SlotRecord) :
    SlotRecord :=
  if payload.length < m.position.toNat + 2 then { r with codeState := .missing }
  else
    let u := leAt payload m.position.toNat 2
    let r1 := { r with lastCode := some (BitVec.ofNat 16 u) }
    if codeAccepted sets m.codeSet.toNat (windowIndex m.window u) then r1
    else
      { r1 with
        codeState := if r.codeState = .pass then .codeBad else r.codeState
        firstBad := match r.firstBad with | some b => some b | none => some (BitVec.ofNat 16 u) }

/-- The slot record after one run (R92 item 2). -/
def judgeRun (m : MeasureSlot) (sets : Vector (BitVec 512) 64) (payload : List Byte) (r : SlotRecord) :
    SlotRecord :=
  match m.mode with
  | .off => r
  | .code => codeRun m sets payload r
  | .each | .last | .avg | .min | .max | .span =>
    let exact := (extractRaw m payload).map (scaleExact m)
    let y := exact.map clampValue
    let r1 := { r with sat := r.sat || (exact ≠ y) }
    if m.mode = .each then
      match y with
      | none => { r1 with held := holdWorse r.held .missing 0 }
      | some v => { r1 with held := holdWorse r.held (bandTest m v) v }
    else accumulate r1 y

/-- The average, halves away from zero (R99). -/
def roundedAverage (sum : Int) (n : Nat) : Int :=
  if 0 ≤ sum then (2 * sum + n) / (2 * n) else -((2 * (-sum) + n) / (2 * n))

/-- The compared value of LAST, AVG, MIN, MAX and SPAN (R98), none where MISSING, before the SPAN
clamp. -/
def comparedValue (m : MeasureSlot) (r : SlotRecord) : Option Int :=
  match m.mode with
  | .last => r.last
  | .avg => if r.n = 0 then none else some (roundedAverage r.sum r.n)
  | .min => r.min
  | .max => r.max
  | .span =>
    match r.min, r.max with
    | some a, some b => some (b - a)
    | none, _ => none
    | _, none => none
  | .off | .each | .code => none

/-- The verdict, reported value and SAT of a slot at the final run (R98 to R103). -/
def judgeFinal (m : MeasureSlot) (r : SlotRecord) : SlotRecord :=
  match m.mode with
  | .off => r
  | .each =>
    match r.held with
    | some (v, y) => { r with verdict := v, value := y }
    | none => r
  | .code =>
    match r.codeState with
    | .missing => { r with verdict := .missing, value := 0 }
    | .codeBad => { r with verdict := .codeBad, value := (r.firstBad.getD 0).toNat }
    | .pass => { r with verdict := .pass, value := (r.lastCode.getD 0).toNat }
  | .last | .avg | .min | .max | .span =>
    match comparedValue m r with
    | none => { r with verdict := .missing, value := 0 }
    | some exact =>
      let v := if exact > valueMax then valueMax else exact
      { r with verdict := bandTest m v, value := v, sat := r.sat || (v ≠ exact) }

/-- Every slot record of a record changed by a function of its measure slot. -/
def mapSlots (slots : Vector MeasureSlot 4) (f : MeasureSlot → SlotRecord → SlotRecord)
    (v : Vector SlotRecord 4) : Vector SlotRecord 4 :=
  (List.finRange 4).foldl (fun w i => upd w i (f slots[i.val])) v

/-- The verdicts of the used slots (R104). -/
def usedVerdicts (slots : Vector MeasureSlot 4) (v : Vector SlotRecord 4) : List Verdict :=
  ((List.finRange 4).filter (fun i => slots[i.val].used)).map (fun i => v[i.val].verdict)

/-- The copy outcome from the verdicts of its used slots (R104). -/
def outcomeOf (verdicts : List Verdict) : CopyOutcome :=
  if verdicts.any (fun v => v = .low ∨ v = .high ∨ v = .missing ∨ v = .codeBad) then .fail
  else if verdicts.any (fun v => v = .marginal) then .marginal
  else .pass

/-- The Judgement Unit takes an answer with status 0 of the copy of entry `e` on nest `n` (R92); the
outcome is what it returns for the final run. -/
def judgeAnswer (e : EntryId) (n : Nest) (payload : List Byte) (final : Bool) (s : State) :
    State × CopyOutcome :=
  let r := (s.entry e).profile
  if r = 0 then (s, .pass)
  else
    let slots := (s.profile r).slots
    let run := mapSlots slots (fun m x => judgeRun m s.judge.codeSets payload x) (s.record e n).slots
    let done := if final then mapSlots slots judgeFinal run else run
    (s.updRecord e n (fun x => { x with slots := done }), outcomeOf (usedVerdicts slots done))

/-- The slot records of a copy that is not judged (R105, R106): each used slot NOT_JUDGED, SAT clear and
value 0, its accumulation discarded; each OFF slot OFF. -/
def unjudgedSlots (s : State) (e : EntryId) : Vector SlotRecord 4 :=
  let r := (s.entry e).profile
  let slots := (s.profile r).slots
  mapSlots slots
    (fun m x => if r ≠ 0 ∧ m.used then { x with verdict := .notJudged } else x)
    (Vector.replicate 4 SlotRecord.cleared)

/-- The outcome and runs completed are written into the record (R46 item 1); the slots of a copy that
was not judged are set by R105 and R106. -/
def writeOutcome (e : EntryId) (n : Nest) (runs : Nat) (o : CopyOutcome) (s : State) : State :=
  s.updRecord e n (fun x =>
    { x with outcome := some o, runs := runs,
             slots := if o.judged then x.slots else unjudgedSlots s e })

end Sys2Proof.Machine
end

