-- ==== Sys2Proof/Machine/Coalesce.lean ====
section
/-! DEFINITION. The Coalescing Unit (chapter 6): digest, capture EACH, lookup, hit, miss, eviction, and
the Reply Store. -/

namespace Sys2Proof.Machine

/-- The 16-bit little-endian words of a payload, the last byte alone when the length is odd (R113). -/
def digestWords : List Byte → List Nat
  | [] => []
  | [a] => [a.toNat]
  | a :: b :: rest => (a.toNat + 256 * b.toNat) :: digestWords rest

/-- Addition with end-around carry (R113). -/
def addEndAround (sum w : Nat) : Nat := if sum + w > 65535 then sum + w - 65536 + 1 else sum + w

/-- The digest of a payload (R113). -/
def digest (payload : List Byte) : Word16 :=
  BitVec.ofNat 16 ((digestWords payload).foldl addEndAround 0)

/-- The set of an answer of entry `e` with digest `d`: (d mod 256) XOR (4 × e) (R117). -/
def setIndex (e : EntryId) (d : Word16) : Fin 256 :=
  (BitVec.ofNat 8 d.toNat ^^^ BitVec.ofNat 8 (4 * e.val)).toFin

/-- Set `i` of the Variant Table. -/
def State.variantSet (s : State) (i : Fin 256) : VariantSet := s.coalesce.sets[i.val]

/-- Set `i` of the Variant Table changed by `f`. -/
def State.updVariantSet (s : State) (i : Fin 256) (f : VariantSet → VariantSet) : State :=
  { s with coalesce := { s.coalesce with sets := upd s.coalesce.sets i f } }

/-- The variant a way holds (R116). -/
def wayVariant (s : State) (w : Way) : Option Variant := (s.entry w.entry).variants[w.index]?

/-- A way matches an offered payload (R118): its entry, digest and length agree, and a stored payload
agrees byte for byte. -/
def wayMatches (s : State) (e : EntryId) (payload : List Byte) (w : Option Way) : Bool :=
  match w with
  | none => false
  | some w =>
    w.entry = e && w.digest = digest payload && w.length = payload.length &&
      match wayVariant s w with
      | none => false
      | some v =>
        match v.cell with
        | some c => s.coalesce.cells[c.val] = payload
        | none => true

/-- The way's variant has a cell. -/
def wayHasCell (s : State) (w : Option Way) : Bool :=
  ((w.bind (wayVariant s)).map (fun v => v.cell.isSome)).getD false

/-- The way an offered answer hits, or none for a miss (R118). -/
def findHit (s : State) (e : EntryId) (payload : List Byte) : Option (Fin 2) :=
  let vs := s.variantSet (setIndex e (digest payload))
  let m0 := wayMatches s e payload vs.ways[0]
  let m1 := wayMatches s e payload vs.ways[1]
  if m0 ∧ m1 then
    (if wayHasCell s vs.ways[1] ∧ ¬wayHasCell s vs.ways[0] then some 1 else some 0)
  else if m0 then some 0
  else if m1 then some 1
  else none

/-- The variant index written into the record of the nest (R112). -/
def setRecordVariant (e : EntryId) (n : Nest) (i : Nat) (s : State) : State :=
  s.updRecord e n (fun x => { x with variant := some i })

/-- Nest `n` joins variant `i` of entry `e` (R119). -/
def joinVariant (e : EntryId) (n : Nest) (i : Nat) (s : State) : State :=
  setRecordVariant e n i
    (s.updEntry e (fun x =>
      { x with variants := x.variants.modify i (fun v => { v with nests := NestSet.insert v.nests n }) }))

/-- A cell for a payload (R123): the head of the free list, the payload written into it, with REPLY_LOW on
a downward crossing of the threshold (R126). With no free cell, none, and TRUNCATIONS rises (R125). -/
def takeCell (payload : List Byte) (s : State) : Option CellId × State :=
  match s.coalesce.free with
  | [] => (none, s.updCounters (fun c => { c with truncations := satInc c.truncations }))
  | c :: rest =>
    let s1 := { s with coalesce := { s.coalesce with
                  free := rest, cells := upd s.coalesce.cells c (fun _ => payload) } }
    let low := s.mgmt.settings.replyLow
    (some c, if low ≤ rest.length + 1 ∧ rest.length < low then raiseCause .replyLow s1 else s1)

/-- A new variant at the tail of the entry's list (R114, R120), holding the offering nest alone, with a
cell if its length is above 0. -/
def createVariant (e : EntryId) (n : Nest) (payload : List Byte) (res : Residence) (s : State) : State :=
  let r := if payload.length = 0 then (none, s) else takeCell payload s
  let v : Variant :=
    { digest := digest payload, length := payload.length, nests := NestSet.single n, cell := r.1,
      truncated := r.1.isNone && payload.length ≠ 0, residence := res }
  setRecordVariant e n (s.entry e).variants.length
    (r.2.updEntry e (fun x => { x with variants := x.variants ++ [v] }))

/-- The variant a way holds becomes SETTLED and EVICTIONS rises (R121). -/
def evict (w : Way) (s : State) : State :=
  (s.updEntry w.entry (fun x =>
      { x with variants := x.variants.modify w.index (fun v => { v with residence := .settled }) })).updCounters
    (fun c => { c with evictions := satInc c.evictions })

/-- The way of a set that a miss fills (R120). -/
def fillWay (vs : VariantSet) : Fin 2 :=
  match vs.ways[0], vs.ways[1] with
  | none, _ => 0
  | some _, none => 1
  | some _, some _ => vs.lru

/-- The LRU mark after way `w` is used: the other way (R122). -/
def otherWay (w : Fin 2) : Fin 2 := if w = 0 then 1 else 0

/-- A miss (R120): the variant in the way to be filled is evicted if the way is valid, a new variant is
created, and the way takes it. -/
def coalesceMiss (e : EntryId) (n : Nest) (payload : List Byte) (s : State) : State :=
  let i := setIndex e (digest payload)
  let vs := s.variantSet i
  let w := fillWay vs
  let s1 := match vs.ways[w.val] with
    | some old => evict old s
    | none => s
  let index := (s.entry e).variants.length
  (createVariant e n payload (.resident i w) s1).updVariantSet i (fun x =>
    { ways := upd x.ways w (fun _ =>
        some { entry := e, digest := digest payload, length := payload.length, index := index }),
      lru := otherWay w })

/-- A hit on way `w` (R119). -/
def coalesceHit (e : EntryId) (n : Nest) (payload : List Byte) (w : Fin 2) (s : State) : State :=
  let i := setIndex e (digest payload)
  match (s.variantSet i).ways[w.val] with
  | some way => (joinVariant e n way.index s).updVariantSet i (fun x => { x with lru := otherWay w })
  | none => s

/-- A final answer's payload is offered by the copy of entry `e` on nest `n` (R109, R110). -/
def offerAnswer (e : EntryId) (n : Nest) (payload : List Byte) (s : State) : State :=
  match (s.entry e).capture with
  | .none => s
  | .each => createVariant e n payload .uncached s
  | .coalesce =>
    match findHit s e payload with
    | some w => coalesceHit e n payload w s
    | none => coalesceMiss e n payload s

/-- At retirement every way that holds a variant of the entry is made invalid, the LRU marks unchanged
(R127). The variants keep their residence, which nothing reads from then on (log entry 33). -/
def invalidateWays (e : EntryId) (s : State) : State :=
  { s with coalesce := { s.coalesce with
      sets := mapTable (fun vs =>
        { vs with ways := mapTable (fun w =>
            match w with
            | some x => if x.entry = e then none else some x
            | none => none) vs.ways }) s.coalesce.sets } }

/-- The cells of variants go to the tail of the Reply Store free list, in variant index order (R124,
R135). The variants keep their cell numbers, which are fixed at creation (R112) and which nothing reads from then
on (log entry 37). -/
def freeCells (vs : List Variant) (s : State) : State :=
  { s with coalesce := { s.coalesce with free := s.coalesce.free ++ vs.filterMap (fun v => v.cell) } }

end Sys2Proof.Machine
end

