-- ==== Sys2Proof/Machine/Copies.lean ====
section
/-! DEFINITION. Ending copies (R46), voids (R47, R48), the halt request (R78), the absence rule (R79), the
end of a halt (R75) and the sending of a run (R70, R72). -/

namespace Sys2Proof.Machine

/-- The outcome of a copy of entry `e` on nest `n` is set (R46 items 1, 4, 3 and 5, in that order: item 4
is taken before item 3). Item 2, the copy leaving the queue, is the caller's; item 6 is `offerAnswer`. -/
def finishCopy (n : Nest) (e : EntryId) (runs : Nat) (o : CopyOutcome) (s : State) : State :=
  deliverOutcome n e o (lowerPending e (lowerReference e (writeOutcome e n runs o s)))

/-- Copies that have left the queue of nest `n` are ended with outcome `o`, in the order given, each
through R46. -/
def finishAll (n : Nest) (o : CopyOutcome) (cs : List Copy) (s : State) : State :=
  cs.foldl (fun t c => finishCopy n c.entry c.runs o t) s

/-- The copy is QUEUED and satisfies `p`. -/
def isVoidable (p : Copy → Bool) (c : Copy) : Bool := c.state = .queued && p c

/-- Every QUEUED copy of nest `n` that satisfies `p` ends VOIDED, head to tail; the others stay in order
(R47, R48). -/
def voidQueued (n : Nest) (p : Copy → Bool) (s : State) : State :=
  let q := (s.port n).queue
  finishAll n .voided (q.filter (isVoidable p))
    (s.updPort n (fun x => { x with queue := q.filter (fun c => !isVoidable p c) }))

/-- The number of copies a void ends. -/
def voidCount (n : Nest) (p : Copy → Bool) (s : State) : Nat :=
  ((s.port n).queue.filter (isVoidable p)).length

/-- The head that a halt request halts: one in service, in WAITING or GAP, that satisfies `p` (R78). -/
def haltedHead (n : Nest) (p : Copy → Bool) (s : State) : Option Copy :=
  match (s.port n).service, (s.port n).queue with
  | .waiting _, c :: _ => if p c then some c else none
  | .gap, c :: _ => if p c then some c else none
  | .waiting _, [] => none
  | .gap, [] => none
  | .idle, _ => none
  | .halting _, _ => none
  | .stalled, _ => none

/-- The halt request of R78 at nest `n`, acting on a head that satisfies `p`. -/
def haltHead (n : Nest) (p : Copy → Bool) (s : State) : State :=
  match haltedHead n p s with
  | none => s
  | some c =>
    match (s.port n).service with
    | .waiting tag =>
      finishCopy n c.entry c.runs .halted
        (s.updPort n (fun x =>
          { x with queue := { c with state := .closing } :: x.queue.tail, deadline := .stopped,
                   backlog := x.backlog ++ [.halt tag], service := .halting tag,
                   grace := .armed }))
    | .gap =>
      finishCopy n c.entry c.runs .halted
        (s.updPort n (fun x =>
          { x with queue := x.queue.tail, gap := .stopped, service := .idle }))
    | .idle => s
    | .halting _ => s
    | .stalled => s

/-- The halt ends (R75): the grace timer stops, the CLOSING copy leaves lowering nothing, and the nest is
IDLE. -/
def endHalt (n : Nest) (s : State) : State :=
  s.updPort n (fun p => { p with grace := .stopped, queue := p.queue.tail, service := .idle })

/-- The absence rule of nest `n` (R79): the head in service and every QUEUED copy end ABSENT, a CLOSING
head leaves, the running timer stops and the nest is IDLE; the stop hold stands. -/
def absenceRule (n : Nest) (s : State) : State :=
  let q := (s.port n).queue
  finishAll n .absent (q.filter (fun c => c.state ≠ .closing))
    (s.updPort n (fun p =>
      { p with queue := [], deadline := .stopped, gap := .stopped, grace := .stopped, service := .idle }))

/-- A RUN for the head copy `c` of nest `n` (R66, R70, R72): a new tag, the step's payload, RUNS_SENT, the
deadline loaded when the RUN leaves the lane, and WAITING with that tag. -/
def sendRun (n : Nest) (c : Copy) (s : State) : State :=
  let payload := stepPayload s c.entry
  s.updPort n (fun p =>
    { p with runTag := p.runTag + 1,
             backlog := p.backlog ++ [.run (p.runTag + 1) payload],
             counters := { p.counters with runsSent := satInc p.counters.runsSent },
             deadline := .armed,
             service := .waiting (p.runTag + 1) })

/-! ### Link state and presence -/

/-- The link enters TRAINING (R61): a GREET is sent, its repetition timed from its leaving the lane, and
LINK is raised (R62). -/
def enterTraining (n : Nest) (s : State) : State :=
  raiseLink n (s.updPort n (fun p =>
    { p with link := .training, backlog := p.backlog ++ [.greet n], greet := .armed }))

/-- A nest that is enabled, has signal and is DOWN goes to TRAINING (R60). -/
def trainIfReady (n : Nest) (s : State) : State :=
  if (s.port n).link = .down ∧ (s.port n).config.enabled ∧ s.signal[n.val] then enterTraining n s else s

/-- Presence becomes EMPTY, raising PRESENCE on a change of value (R63). -/
def presenceGone (n : Nest) (s : State) : State :=
  if (s.port n).presence = .present then
    raiseCause .presence (s.updPort n (fun p => { p with presence := .empty }))
  else s

/-- A change of link state to DOWN (R62): presence EMPTY, the absence rule, one absence delivered; LINK is
raised, the GREETs stop, and what was being sent and the backlog are discarded (R55). A link that is DOWN
stays so. -/
def linkDown (n : Nest) (s : State) : State :=
  if (s.port n).link = .down then s
  else
    raiseLink n (deliverAbsence n (absenceRule n (presenceGone n
      (s.updPort n (fun p => { p with link := .down, greet := .stopped, backlog := [] })))))

/-- A presence byte taken with the link UP (R63): a change raises PRESENCE, and a change to EMPTY applies
the absence rule and delivers an absence. -/
def setPresence (n : Nest) (present : Bool) (s : State) : State :=
  if present then
    (if (s.port n).presence = .empty then
      raiseCause .presence (s.updPort n (fun p => { p with presence := .present }))
    else s)
  else if (s.port n).presence = .present then
    deliverAbsence n (absenceRule n (presenceGone n s))
  else s

end Sys2Proof.Machine
end

