-- ==== Sys2Proof/Machine/Messages.lean ====
section
/-! DEFINITION. The bytes of every message the bridge sends (11.5 to 11.7, R190, R195) and of the
Ethernet frame around them (11.2, R176). -/

namespace Sys2Proof.Machine

/-- The common header (11.2): version 1, class, message length, tag; then the rest of the message. -/
def message (cls : Nat) (tag : Word16) (rest : List Byte) : List Byte :=
  byte 1 ++ byte cls ++ leBytes 2 (6 + rest.length) ++ leBytes 2 tag.toNat ++ rest

/-- A REFUSAL (11.5). -/
def RefusalMsg.bytes (m : RefusalMsg) : List Byte :=
  message 3 m.tag
    (byte m.stream.toNat ++ byte m.reason.code ++ leBytes 2 m.stepNumber.toNat ++ byte m.detail ++
     byte m.freeEntries ++ leBytes 2 m.expected.toNat ++ leBytes 2 m.freeBlocks)

/-- A RESPONSE (11.5), its tag, request id and code those of the request (R195). -/
def ResponseMsg.bytes (m : ResponseMsg) : List Byte :=
  message 4 m.req.tag
    (leBytes 4 m.req.id.toNat ++ [m.req.code] ++ byte m.status.code ++ leBytes 2 m.result.length ++
     m.result)

/-- The report header (11.5), 28 bytes. -/
def ReportHeader.bytes (h : ReportHeader) : List Byte :=
  byte h.stream.val ++ byte (bit h.clamped 0 + bit h.aborted 1) ++ leBytes 2 h.stepNumber.toNat ++
  leBytes 4 h.lotId.toNat ++ byte h.capture.code ++ byte h.targetCount ++ byte h.variantCount ++
  byte h.segmentCount ++ h.outcomeCounts.flatMap byte ++ byte h.freeEntries ++
  leBytes 2 h.freeBlocks ++ leBytes 2 h.freeCells ++ leBytes 2 h.expected.toNat

/-- A whole number as `k` bytes in two's complement. -/
def intBytes (k : Nat) (v : Int) : List Byte := leBytes k (v % 2 ^ (8 * k)).toNat

/-- One measure result (11.5), 8 bytes. -/
def MeasureResult.bytes (m : MeasureResult) : List Byte :=
  byte m.verdict.code ++ byte (bit m.sat 0) ++ leBytes 2 0 ++ intBytes 4 m.value

/-- A nest record (11.5), 36 bytes; no variant index is 0xFF (R190). -/
def NestRecord.bytes (r : NestRecord) : List Byte :=
  byte r.nest.val ++ byte (r.outcome.elim 0 CopyOutcome.code) ++ byte r.runs ++
  byte (r.variant.getD 0xFF) ++ r.measures.flatMap MeasureResult.bytes

/-- A variant record (11.5): 10 bytes, then the payload it carries (R141). -/
def VariantRecord.bytes (v : VariantRecord) : List Byte :=
  byte v.index ++ byte (bit v.truncated 0) ++ leBytes 2 v.digest.toNat ++ leBytes 2 v.length ++
  leBytes 4 v.nests.toNat ++ v.payload

/-- The body of a segment (11.5). -/
def SegmentBody.bytes (b : SegmentBody) : List Byte :=
  match b with
  | .head h rs => h.bytes ++ rs.flatMap NestRecord.bytes
  | .variants vs => vs.flatMap VariantRecord.bytes

/-- A REPORT segment (11.5), tag 0 (R195). -/
def SegmentMsg.bytes (g : SegmentMsg) : List Byte :=
  message 5 0
    (byte g.stream.val ++ byte (bit g.last 0) ++ leBytes 2 g.stepNumber.toNat ++ byte g.index ++
     byte 0 ++ g.body.bytes)

/-- An attention record (11.5), 4 bytes. -/
def AttentionRecord.bytes (a : AttentionRecord) : List Byte :=
  byte a.nest.val ++ byte (bit a.superseded 0) ++ leBytes 2 a.code.toNat

/-- A NOTICE (11.5), tag 0 (R195). -/
def NoticeMsg.bytes (m : NoticeMsg) : List Byte :=
  message 6 0
    (leBytes 2 m.serial.toNat ++ byte m.causes.toNat ++ byte m.attention.length ++
     leBytes 4 m.links.toNat ++ leBytes 4 m.standings.toNat ++ m.attention.flatMap AttentionRecord.bytes)

/-- A CHATTER message (11.5), tag 0 (R195). -/
def ChatterMsg.bytes (m : ChatterMsg) : List Byte :=
  message 7 0 (byte m.nest.val ++ byte 0 ++ leBytes 2 m.payload.length ++ m.payload)

/-- The bytes of a frame of the RESPONSE class. -/
def ResponseFrame.bytes (f : ResponseFrame) : List Byte :=
  match f with
  | .refusal _ m => m.bytes
  | .response m => m.bytes

/-- Where a frame of the RESPONSE class goes: the source of the frame that carried the request or the STEP
(R176). -/
def ResponseFrame.dest (f : ResponseFrame) : MacAddr :=
  match f with
  | .refusal d _ => d
  | .response m => m.req.dest

/-- The shortest Ethernet payload, in bytes: 64 less the header and the check sequence. -/
def minPayload : Nat := 46

/-- The Ethernet frame around a message (11.2, R176): padded with zero bytes to the minimum, with its
check sequence. -/
def ethernetFrame (dest src : MacAddr) (msg : List Byte) : List Byte :=
  let body := beBytes 6 dest.toNat ++ beBytes 6 src.toNat ++ beBytes 2 Config.etherType.toNat ++ msg ++
    List.replicate (minPayload - msg.length) 0#8
  body ++ fcsBytes body

/-! ### Result data (11.5 to 11.7) -/

/-- DESCRIBE's result data (R181), every field little-endian (R190), the own MAC address as well (log entry 35
says which of its bytes is the least significant). -/
def describeResult (s : State) : List Byte :=
  leBytes 2 Config.vendorCode ++ leBytes 2 Config.partCode ++ byte 1 ++ byte 32 ++ byte 4 ++
  byte s.mgmt.strap.toNat ++ leBytes 6 s.uplink.mac.toNat ++ byte (bit s.mgmt.fromFlash 0) ++ byte 0 ++
  leBytes 4 s.mgmt.time.toNat ++ byte Config.capacities.length ++ byte 0 ++
  Config.capacities.flatMap (leBytes 2)

/-- The six counters of a nest, in index order (11.7). -/
def NestCounters.list (c : NestCounters) : List Word32 :=
  [c.runsSent, c.answers, c.late, c.badFrames, c.timeouts, c.chatterDropped]

/-- The twenty global counters, in index order (11.7). -/
def Globals.list (g : Globals) : List Word32 :=
  [g.rxAccepted, g.rxFilter, g.rxMalformed, g.rxOverflow, g.stepsAccepted] ++ g.refused.toList ++
  [g.refusalsLost, g.reports, g.notices, g.evictions, g.truncations]

/-- Every counter, in index order (11.7). -/
def allCounters (s : State) : List Word32 :=
  s.mgmt.counters.list ++ s.ports.toList.flatMap (fun p => p.counters.list)

/-- GET_COUNTERS' result data (11.5). -/
def countersResult (s : State) : List Byte :=
  leBytes 2 (allCounters s).length ++ leBytes 2 0 ++ (allCounters s).flatMap (fun c => leBytes 4 c.toNat)

/-- The value of a standing, link or other code over the nests, one byte each. -/
def nestBytes (f : Nest → Nat) : List Byte := allNests.flatMap (fun n => byte (f n))

/-- The lot part of GET_STATE, 40 bytes (11.6). -/
def lotPart (s : State) : List Byte :=
  byte (bit s.lot.isOpen 0) ++ [0#8, 0#8, 0#8] ++ leBytes 4 s.lot.id.toNat ++
  nestBytes (fun n => (s.lotNest n).standing.code)

/-- One stream of GET_STATE, 8 bytes (11.6); with no head its state is 0xFF and its step number the value
of log entry 12. -/
def streamPart (s : State) (st : StreamId) : List Byte :=
  let r := s.stream st
  let l := s.retireList st
  byte (bit r.draining 0) ++
  byte (l.head?.elim 0xFF (fun e => (s.entry e).state.code)) ++
  leBytes 2 r.expected.toNat ++ byte l.length ++ byte 0 ++
  leBytes 2 (l.head?.elim Config.headStepNone (fun e => (s.entry e).stepNumber)).toNat

/-- Room of the REPORT queue (R131). -/
def reportRoom (s : State) : Nat := Config.reportCapacity - s.uplink.report.length

/-- The retirement part of GET_STATE, 8 bytes (11.6). -/
def retirePart (s : State) : List Byte :=
  byte (s.retire.candidate.elim 0xFF (fun e => (s.entry e).stream.val)) ++
  byte s.retire.rotation.val ++ byte (reportRoom s) ++ byte 0 ++
  leBytes 2 (s.retire.candidate.elim 0 (fun e => (s.entry e).stepNumber.toNat)) ++ leBytes 2 0

/-- The stores part of GET_STATE, 8 bytes (11.6). -/
def storesPart (s : State) : List Byte :=
  byte (freeEntries s) ++ byte 0 ++ leBytes 2 s.payload.free.length ++
  leBytes 2 s.coalesce.free.length ++ leBytes 2 0

/-- The notices part of GET_STATE, 16 bytes (R172, 11.6). The byte `throttle running` is 1 while the timer runs and 0
otherwise: DESIGN CHOICE, the spec gives the field no code (log entry 38). -/
def noticePart (s : State) : List Byte :=
  byte s.notice.causes.toNat ++ byte s.mgmt.settings.mask.toNat ++
  byte (bit s.notice.throttle.isRunning 0) ++ byte 0 ++ leBytes 2 s.notice.serial.toNat ++ leBytes 2 0 ++
  leBytes 4 s.notice.links.toNat ++ leBytes 4 s.notice.standings.toNat

/-- The uplink part of GET_STATE, 12 bytes (11.6), every field little-endian (R190), the report address as well (log
entry 35 says which of its bytes is the least significant). -/
def uplinkPart (s : State) : List Byte :=
  byte (if s.uplink.linkUp then LinkState.up.code else LinkState.down.code) ++
  byte s.uplink.rx.length ++ byte s.uplink.response.length ++ byte s.uplink.notice.length ++
  byte s.uplink.report.length ++ byte s.uplink.chatter.length ++ leBytes 6 s.uplink.reportAddr.toNat

/-- The current or halted tag of a nest, 0 in IDLE, GAP and STALLED (R66, R83). -/
def Service.tag (x : Service) : Word16 :=
  match x with
  | .waiting t => t
  | .halting t => t
  | .idle | .gap | .stalled => 0

/-- One nest of GET_STATE, 24 bytes (11.6). -/
def nestPart (s : State) (n : Nest) : List Byte :=
  let p := s.port n
  let x := s.notice.slots[n.val]
  byte p.link.code ++ byte p.presence.code ++ byte p.service.code ++ byte (bit p.stopHold 0) ++
  leBytes 4 p.adapterId.toNat ++ leBytes 2 p.runTag.toNat ++ leBytes 2 p.service.tag.toNat ++
  byte p.queue.length ++ byte (p.queue.head?.elim 0 (fun c => c.state.code)) ++
  byte (p.queue.head?.elim 0xFF (fun c => c.stream.val)) ++ byte x.state.code ++
  leBytes 2 (p.queue.head?.elim Config.headStepNone (fun c => c.stepNumber)).toNat ++
  leBytes 2 x.code.toNat ++ byte (bit x.superseded 0 + bit x.missed 1) ++ [0#8, 0#8, 0#8]

/-- GET_STATE's result data (R182, 11.6). -/
def stateResult (s : State) : List Byte :=
  lotPart s ++ (List.finRange 4).flatMap (streamPart s) ++ retirePart s ++ storesPart s ++ noticePart s ++
  uplinkPart s ++ allNests.flatMap (nestPart s)

/-- The nests with a standing. -/
def standingSet (s : State) (x : Standing) : NestSet :=
  NestSet.ofPred (fun n => (s.lotNest n).standing = x)

/-- OPEN_LOT's result data (11.5), from the state after it. -/
def openLotResult (s : State) : List Byte :=
  leBytes 4 s.lot.id.toNat ++ leBytes 4 (standingSet s .clear).toNat ++
  leBytes 4 (standingSet s .vacant).toNat ++ leBytes 4 (standingSet s .excluded).toNat ++
  leBytes 4 (NestSet.ofPred (fun n => (s.port n).link = .up)).toNat

/-- CLOSE_LOT's summary (R26, 11.5), from the state before it. -/
def lotSummary (s : State) : List Byte :=
  leBytes 4 s.lot.id.toNat ++
  allNests.flatMap (fun n =>
    let l := s.lotNest n
    byte n.val ++ byte l.standing.code ++ leBytes 2 l.passes.toNat ++ leBytes 2 l.marginals.toNat ++
    leBytes 2 l.failures.toNat)

/-- ABORT_STREAM's result data (R150, 11.5). -/
def abortResult (s : State) (st : StreamId) (marked halted voided : Nat) : List Byte :=
  byte st.val ++ byte (bit (s.stream st).draining 0) ++ leBytes 2 (s.stream st).expected.toNat ++
  byte (s.retireList st).length ++ byte marked ++ byte halted ++ byte 0 ++ leBytes 2 voided

/-- NEST_ACTION's result data (R152, 11.5), from the state after the action. `halted` is the stream and
step number of the copy halted. -/
def actionResult (s : State) (n : Nest) (a : NestAction) (halted : Option (StreamId × Word16))
    (cycleSent : Bool) (link : LinkState) (voided : Nat) : List Byte :=
  byte n.val ++ byte a.code ++
  byte (bit halted.isSome 0 + bit cycleSent 1 + bit (s.port n).config.excluded 2) ++
  byte (s.lotNest n).standing.code ++ byte link.code ++
  byte (halted.elim 0 (fun h => h.1.val)) ++ leBytes 2 (halted.elim 0 (fun h => h.2.toNat)) ++
  byte voided ++ byte 0

/-! ### Row images (11.4) -/

/-- A Profile measure slot's 26 bytes (11.4). -/
def MeasureSlot.bytes (m : MeasureSlot) : List Byte :=
  byte m.mode.number ++ [m.position, m.width] ++ byte (bit m.signed 0) ++ leBytes 2 m.gain.toNat ++
  [m.shift, m.codeSet, m.window] ++ byte 0 ++ leBytes 4 m.bias.toNat ++ leBytes 4 m.low.toNat ++
  leBytes 4 m.high.toNat ++ leBytes 4 m.guard.toNat

/-- Row `r` of a table as GET_ROWS returns it (R184, 11.4). Row numbers outside the table do not reach
it. -/
def rowImage (s : State) (t : Table) (r : Nat) : List Byte :=
  match t with
  | .group => byte r ++ byte 0 ++ leBytes 4 (s.groups.toList.getD r 0).toNat
  | .profile =>
    let p := s.judge.profiles.toList.getD r ProfileRow.empty
    byte r ++ byte (bit p.defined 0) ++ byte p.pins ++ byte 0 ++ p.slots.toList.flatMap MeasureSlot.bytes
  | .codeSet => byte r ++ byte 0 ++ leBytes 64 (s.judge.codeSets.toList.getD r 0).toNat
  | .nestConfig =>
    let c := (s.ports.toList.getD r (NestPort.initial (NestConfig.default false))).config
    byte r ++ byte (bit c.enabled 0 + bit c.excluded 1 + bit c.chatter 2) ++ leBytes 2 c.haltGrace
  | .allowList =>
    let a := s.uplink.allow.toList.getD r { valid := false, addr := 0 }
    byte r ++ byte (bit a.valid 0) ++ beBytes 6 a.addr.toNat
  | .settings =>
    let c := s.mgmt.settings
    byte r ++ byte 0 ++ leBytes 2 c.throttle ++ leBytes 2 c.payloadLow ++ leBytes 2 c.replyLow ++
    byte c.mask.toNat ++ byte 0

end Sys2Proof.Machine
end

