-- ==== Sys2Proof/Machine/Operands.lean ====
section
/-! DEFINITION. What a message carries (11.3, 11.4, R191 to R194): the fields of a STEP and a REQUEST, the
arguments of each request code, and the table row images. -/

namespace Sys2Proof.Machine

/-- The class byte of a message (11.2). -/
def classOf (msg : List Byte) : Nat := (byteAt msg 1).toNat
/-- The class code of STEP. -/
def classStep : Nat := 1
/-- The class code of REQUEST. -/
def classRequest : Nat := 2
/-- The length of a STEP's fixed part (11.3). -/
def stepFixed : Nat := 22
/-- The length of a REQUEST before its arguments (11.3). -/
def requestFixed : Nat := 12

/-- The tag of a message (11.2). -/
def tagOf (msg : List Byte) : Word16 := BitVec.ofNat 16 (leAt msg 4 2)

/-! ### STEP -/

/-- A STEP whose form is good (R4, R6 reason 1): the stream is 0..3 and the coded fields are defined. -/
structure StepReq where
  stream : StreamId
  kind : TargetKind
  target : Nat
  profile : Nat
  capture : Capture
  policy : Policy
  reps : Nat
  number : Word16
  deadline : Nat
  gap : Nat
  length : Nat
  payload : List Byte
  deriving DecidableEq, Repr

/-- The stream as given in a STEP, 0..255 (R10). -/
def stepStream (msg : List Byte) : Byte := byteAt msg 6
/-- The step number as given in a STEP (R10). -/
def stepNumber (msg : List Byte) : Word16 := BitVec.ofNat 16 (leAt msg 14 2)

/-- A STEP decoded (11.3), or none for BAD_FORM (R6 reason 1, R191, R192). -/
def decodeStep (msg : List Byte) : Option StepReq :=
  let len := leAt msg 20 2
  if h : (stepStream msg).toNat < 4 then
    if msg.length = stepFixed + len then
      match targetKindOf (byteAt msg 7).toNat, captureOf (byteAt msg 10).toNat,
        policyOf (byteAt msg 11).toNat with
      | some kind, some capture, some policy =>
        some { stream := ⟨(stepStream msg).toNat, h⟩, kind := kind, target := (byteAt msg 8).toNat,
               profile := (byteAt msg 9).toNat, capture := capture, policy := policy,
               reps := (byteAt msg 12).toNat, number := stepNumber msg, deadline := leAt msg 16 2,
               gap := leAt msg 18 2, length := len, payload := msg.drop stepFixed }
      | none, _, _ => none
      | _, none, _ => none
      | _, _, none => none
    else none
  else none

/-! ### REQUEST -/

/-- The request code byte, 0 where missing (R192). -/
def requestCode (msg : List Byte) : Byte := byteAt msg 10

/-- The request that a response answers: where it came from and what is echoed (R176, R195). -/
def reqOf (f : RxFrame) : Req :=
  { dest := f.src, tag := tagOf f.msg, id := BitVec.ofNat 32 (leAt f.msg 6 4), code := requestCode f.msg }

/-- The arguments of a REQUEST. -/
def argsOf (msg : List Byte) : List Byte := msg.drop requestFixed

/-- A REQUEST of code `c`, long enough to carry it whole (R192). -/
def isRequestOf (c : RequestCode) (msg : List Byte) : Bool :=
  classOf msg = classRequest && requestFixed ≤ msg.length && requestCodeOf (requestCode msg).toNat = some c

/-- A REQUEST answered BAD_REQUEST for its code or its length (R181, R192). -/
def isUnknownRequest (msg : List Byte) : Bool :=
  classOf msg = classRequest &&
    (msg.length < requestFixed || requestCodeOf (requestCode msg).toNat = none)

/-- The table a PUT_ROWS or GET_ROWS names: none with no table byte, and `some none` for an unknown one
(R193). -/
def tableArg (args : List Byte) : Option (Option Table) :=
  match args with
  | [] => none
  | b :: _ => some (tableOf b.toNat)

/-- A PUT_ROWS that the row of table `t` takes: one naming `t`, or one that names no table of the bridge
and is answered without reaching any (R183, R193; log entry 4). -/
def isPutRows (t : Table) (msg : List Byte) : Bool :=
  isRequestOf .putRows msg &&
    match tableArg (argsOf msg) with
    | some (some u) => u = t
    | some none => true
    | none => true

/-- The arguments of a good NEST_ACTION (R152, R193). -/
def nestActionArgs (args : List Byte) : Option (Nest × NestAction) :=
  match args with
  | [n, a] =>
    match nestActionOf a.toNat with
    | some act => if h : n.toNat < 32 then some (⟨n.toNat, h⟩, act) else none
    | none => none
  | _ => none

/-- A NEST_ACTION that the row of action `a` takes: a good one naming `a`, or one answered BAD_REQUEST (R152;
log entry 4). -/
def isNestAction (a : NestAction) (msg : List Byte) : Bool :=
  isRequestOf .nestAction msg &&
    match nestActionArgs (argsOf msg) with
    | some (_, b) => b = a
    | none => true

/-- The clear option of a good GET_COUNTERS (R186, R193): NO or YES. -/
def clearOption (args : List Byte) : Option Bool :=
  match args with
  | [b] => if b = 0#8 then some false else if b = 1#8 then some true else none
  | _ => none

/-- A GET_COUNTERS that the row with clear option `clear` takes: a good one carrying it, or one answered
BAD_REQUEST (R186; log entry 4). -/
def isGetCounters (clear : Bool) (msg : List Byte) : Bool :=
  isRequestOf .getCounters msg &&
    match clearOption (argsOf msg) with
    | some b => b = clear
    | none => true

/-- The stream of a good ABORT_STREAM (R146). -/
def abortArg (args : List Byte) : Option StreamId :=
  match args with
  | [b] => if h : b.toNat < 4 then some ⟨b.toNat, h⟩ else none
  | _ => none

/-- The nest of a good RELEASE_ATTENTION (R171). -/
def releaseArg (args : List Byte) : Option Nest :=
  match args with
  | [b] => if h : b.toNat < 32 then some ⟨b.toNat, h⟩ else none
  | _ => none

/-- The lot id of a good OPEN_LOT (R24, R193). -/
def openLotArg (args : List Byte) : Option Word32 :=
  if args.length = 4 then some (BitVec.ofNat 32 (leNat args)) else none

/-! ### Row images (11.4, R194) -/

/-- A measure slot decoded from its 26 bytes; none for an unknown mode (R86). Undefined flag bits and the
reserved byte are not stored (R191; log entry 17). -/
def decodeSlot (b : List Byte) : Option MeasureSlot :=
  (modeOf (byteAt b 0).toNat).map (fun mode =>
    { mode := mode, position := byteAt b 1, width := byteAt b 2, signed := (byteAt b 3).getLsbD 0,
      gain := BitVec.ofNat 16 (leAt b 4 2), shift := byteAt b 6, codeSet := byteAt b 7,
      window := byteAt b 8, bias := BitVec.ofNat 32 (leAt b 10 4), low := BitVec.ofNat 32 (leAt b 14 4),
      high := BitVec.ofNat 32 (leAt b 18 4), guard := BitVec.ofNat 32 (leAt b 22 4) })

/-- A slot passes the slot checks of R86. -/
def MeasureSlot.valid (m : MeasureSlot) : Bool :=
  m.mode = .off ||
    ((m.width = 1#8 || m.width = 2#8 || m.width = 4#8) &&
     m.position.toNat + m.width.toNat ≤ 256 &&
     m.shift.toNat ≤ 24 &&
     m.guard.toNat ≤ 2147483647 &&
     m.low.toInt ≤ m.high.toInt &&
     (m.mode ≠ .code ||
       (m.width = 2#8 && m.gain = 1#16 && m.shift = 0#8 && m.bias = 0#32 && m.codeSet.toNat ≤ 7 &&
        m.window.toNat ≤ 3)))

/-- The four slots of a Profile image, or none if one has an unknown mode (11.4). -/
def decodeSlots (img : List Byte) : Option (Vector MeasureSlot 4) :=
  match decodeSlot (img.drop 4), decodeSlot (img.drop 30), decodeSlot (img.drop 56),
    decodeSlot (img.drop 82) with
  | some a, some b, some c, some d => some #v[a, b, c, d]
  | none, _, _, _ => none
  | _, none, _, _ => none
  | _, _, none, _ => none
  | _, _, _, none => none

end Sys2Proof.Machine
end

