-- ==== Sys2Proof/Machine/Intake.lean ====
section
/-! DEFINITION. The Message Dispatcher (10.2), the Step Intake (chapter 1) and the fan-out (chapter 3). -/

namespace Sys2Proof.Machine

/-! ### The Dispatcher -/

/-- The head message, when the Dispatcher can take it or holds it waiting (R177): the part runs, no request
is being carried out, and no RESTART has been answered (R187). -/
def headMessage (s : State) : Option RxFrame :=
  if s.running ∧ s.dispatcher.task = none ∧ s.dispatcher.restart = .none then s.uplink.rx.head? else none

/-- The Dispatcher passes the head message on: the report address becomes its source (R176), and it no
longer waits. -/
def passMessage (f : RxFrame) (s : State) : State :=
  { s with uplink := { s.uplink with reportAddr := f.src },
           dispatcher := { s.dispatcher with waiting := false } }

/-- The Dispatcher finishes with the head message: its frame leaves the receive buffer (R177). -/
def finishMessage (s : State) : State :=
  { s with uplink := { s.uplink with rx := s.uplink.rx.tail } }

/-! ### Validation -/

/-- The target set of a step (R39), or none for BAD_TARGET (R6 reason 5). -/
def resolveTarget (s : State) (kind : TargetKind) (value : Nat) : Option NestSet :=
  match kind with
  | .nest => if h : value < 32 then some (NestSet.single ⟨value, h⟩) else none
  | .group =>
    if h : value < 64 then
      (if s.groups[value] = 0#32 then none else some s.groups[value])
    else none
  | .all => some (BitVec.allOnes 32)

/-- The target nest has standing CLEAR. -/
def isClear (s : State) (n : Nest) : Bool := (s.lotNest n).standing = .clear

/-- The lowest-numbered target nest of standing CLEAR with 8 copies queued (R6 reason 10, R8). -/
def fullNest (s : State) (target : NestSet) : Option Nest :=
  (NestSet.toList target).find? (fun n => isClear s n && Config.queueCapacity ≤ (s.port n).queue.length)

/-- The profile row that judges a step: 0, or a defined row of 1..63; none for BAD_PROFILE (R6 reason 6). -/
def profileRow (s : State) (v : Nat) : Option (Fin 64) :=
  if h : v < 64 then
    (if v = 0 ∨ (s.profile ⟨v, h⟩).defined then some ⟨v, h⟩ else none)
  else none

/-- What the Step Intake makes of a STEP: refused with a reason and a detail, or accepted with its target
set and profile row. -/
inductive IntakeResult where
  | refuse (reason : RefusalReason) (detail : Nat)
  | accept (q : StepReq) (target : NestSet) (profile : Fin 64)
  deriving DecidableEq, Repr

/-- Reasons 7 to 10 of R6, for a step whose target set and profile row are known. -/
def checkRoom (s : State) (q : StepReq) (target : NestSet) (r : Fin 64) : IntakeResult :=
  if q.length > Config.maxStepPayload then .refuse .tooLong 0
  else if freeEntries s = 0 then .refuse .noEntry 0
  else if s.payload.free.length < blocksNeeded q.length then .refuse .noSpace 0
  else
    match fullNest s target with
    | some n => .refuse .nestBusy n.val
    | none => .accept q target r

/-- The ten checks of R6, in order. -/
def checkStep (s : State) (msg : List Byte) : IntakeResult :=
  match decodeStep msg with
  | none => .refuse .badForm 0
  | some q =>
    if s.lot.isOpen = false then .refuse .lotClosed 0
    else if (s.stream q.stream).draining then .refuse .draining 0
    else if q.number ≠ (s.stream q.stream).expected then .refuse .sequence 0
    else
      match resolveTarget s q.kind q.target with
      | none => .refuse .badTarget 0
      | some target =>
        match profileRow s q.profile with
        | none => .refuse .badProfile 0
        | some r => checkRoom s q target r

/-! ### Refusal -/

/-- The expected number a REFUSAL reports: 0 when the stream given is above 3 (R10). -/
def refusalExpected (s : State) (stream : Byte) : Word16 :=
  if h : stream.toNat < 4 then (s.stream ⟨stream.toNat, h⟩).expected else 0

/-- The REFUSAL built for a STEP (R10). -/
def refusalFor (s : State) (f : RxFrame) (reason : RefusalReason) (detail : Nat) : RefusalMsg :=
  { tag := tagOf f.msg, stream := stepStream f.msg, stepNumber := stepNumber f.msg, reason := reason,
    detail := detail, expected := refusalExpected s (stepStream f.msg), freeEntries := freeEntries s,
    freeBlocks := s.payload.free.length }

/-- A refused step (R9, R10): its reason counter rises, and the REFUSAL is placed in the RESPONSE queue, or
dropped, counted and raised as STEP_REFUSAL_LOST when the queue is full. -/
def refuseStep (f : RxFrame) (reason : RefusalReason) (detail : Nat) (s : State) : State :=
  let s1 := s.updCounters (fun c => { c with refused := upd c.refused reason.index satInc })
  if s.uplink.response.length < Config.responseCapacity then
    { s1 with uplink := { s1.uplink with
        response := s1.uplink.response ++ [.refusal f.src (refusalFor s f reason detail)] } }
  else
    raiseCause .stepRefusalLost
      (s1.updCounters (fun c => { c with refusalsLost := satInc c.refusalsLost }))

/-! ### Acceptance -/

/-- Reps after clamping (R11). -/
def clampReps (r : Nat) : Nat := if r = 0 then 1 else if r > Config.maxReps then Config.maxReps else r
/-- Deadline after clamping (R11). -/
def clampDeadline (d : Nat) : Nat := if d = 0 then 1 else d

/-- The entry the allocation pointer chooses: the first FREE entry at or after it, wrapping (R16). -/
def chooseEntry (s : State) : Option EntryId :=
  ((List.finRange 64).map (fun (i : EntryId) => s.table.alloc + i)).find?
    (fun e => (s.entry e).state = .free)

/-- Items 1, 2, 3 and 5 of R12: the entry is filled, its blocks are taken from the head of the free list and
its counts are set to `c`; the pointer moves past it (R16). -/
def fillEntry (e : EntryId) (q : StepReq) (target : NestSet) (r : Fin 64) (c : Nat) (s : State) : State :=
  let blocks := s.payload.free.take (blocksNeeded q.length)
  { s with
    table :=
      { entries := upd s.table.entries e (fun _ =>
          { state := .live, stream := q.stream, stepNumber := q.number, target := target, profile := r,
            capture := q.capture, policy := q.policy, reps := clampReps q.reps,
            deadline := clampDeadline q.deadline, gap := q.gap, payloadLength := q.length,
            blocks := blocks, pending := c,
            clamped := clampReps q.reps ≠ q.reps || clampDeadline q.deadline ≠ q.deadline,
            aborted := false, variants := [] }),
        alloc := e + 1 },
    payload :=
      { blocks := writeBlocks blocks q.payload s.payload.blocks,
        free := s.payload.free.drop (blocksNeeded q.length),
        refs := upd s.payload.refs e (fun _ => c) } }

/-- The fan-out to one target nest (R41): a QUEUED copy for a CLEAR nest, and a SKIPPED copy otherwise. -/
def fanOutNest (e : EntryId) (st : StreamId) (number : Word16) (s : State) (n : Nest) : State :=
  if isClear s n then
    (s.updPort n (fun p =>
        { p with queue := p.queue ++
            [{ entry := e, stream := st, stepNumber := number, state := .queued, runs := 0,
               freed := false }] })).updRecord
      e n (fun _ => Record.cleared)
  else
    s.updRecord e n (fun _ =>
      { Record.cleared with outcome := some .skipped, slots := unjudgedSlots s e })

/-- The fan-out of entry `e` to its target set, in ascending nest order (R41). -/
def fanOut (e : EntryId) (st : StreamId) (number : Word16) (target : NestSet) (s : State) : State :=
  (NestSet.toList target).foldl (fanOutNest e st number) s

/-- A step with no copy appended (R12): the entry is COMPLETE at once and its blocks go back within the
acceptance (R19). -/
def completeEmpty (e : EntryId) (s : State) : State :=
  chooseCandidate ((freeBlocks e s).updEntry e (fun x => { x with state := .complete }))

/-- PAYLOAD_LOW on a downward crossing of the threshold by the acceptance taken whole (R20). -/
def testPayloadLow (before : Nat) (s : State) : State :=
  let low := s.mgmt.settings.payloadLow
  if low ≤ before ∧ s.payload.free.length < low then raiseCause .payloadLow s else s

/-- A nest serves copies: its link is UP and its presence PRESENT (R63). -/
def serves (s : State) (n : Nest) : Bool := (s.port n).link = .up && (s.port n).presence = .present

/-- Acceptance (R12) into entry `e`. Copies appended where the link is not UP or presence is EMPTY are ended
ABSENT once the acceptance is whole (R45). -/
def acceptInto (e : EntryId) (q : StepReq) (target : NestSet) (r : Fin 64) (s : State) : State :=
  let clear := (NestSet.toList target).filter (isClear s)
  let s1 := fanOut e q.stream q.number target (fillEntry e q target r clear.length s)
  let s2 := if r = 0 then s1 else s1.updProfile r (fun p => { p with pins := p.pins + 1 })
  let s3 := s2.updRetire (fun x => { x with lists := upd x.lists q.stream (fun l => l ++ [e]) })
  let s4 := s3.updStream q.stream (fun x => { x with expected := x.expected + 1 })
  let s5 := s4.updCounters (fun c => { c with stepsAccepted := satInc c.stepsAccepted })
  let s6 := if clear.length = 0 then completeEmpty e s5 else s5
  let s7 := testPayloadLow s.payload.free.length s6
  (clear.filter (fun n => !serves s n)).foldl (fun t n => absenceRule n t) s7

/-- The Step Intake takes a STEP whole (R6): accepted or refused. -/
def takeStep (f : RxFrame) (s : State) : State :=
  match checkStep s f.msg with
  | .refuse reason detail => refuseStep f reason detail s
  | .accept q target r =>
    match chooseEntry s with
    | some e => acceptInto e q target r s
    | none => s

/-- The Dispatcher's head message is a STEP. -/
def headStep (s : State) : Option RxFrame :=
  (headMessage s).filter (fun f => classOf f.msg = classStep)

/-- STEP (R6): the Dispatcher passes the head message to the Step Intake, whatever the room in the RESPONSE
queue (R177). -/
def execStep (s : State) : Host.Outcome State Fault Refusal :=
  match headStep s with
  | some f => .next (finishMessage (takeStep f (passMessage f s)))
  | none => .next s

end Sys2Proof.Machine
end

