-- ==== Sys2Proof/Machine/Requests.lean ====
section
/-! DEFINITION. The management requests of the Message Dispatcher and the Management Engine that reach no
nest port: waiting, BAD_REQUEST, DESCRIBE, GET_ROWS, GET_COUNTERS, GET_STATE, RELEASE_ATTENTION and RESTART
(10.2, 10.4 to 10.7). -/

namespace Sys2Proof.Machine

/-- The RESPONSE queue has room (R177, R179). -/
def responseRoom (s : State) : Bool := s.uplink.response.length < Config.responseCapacity

/-- A response is placed at the tail of the RESPONSE queue, and the Dispatcher finishes with the request
(R177, R181). -/
def respond (r : Req) (status : Status) (result : List Byte) (s : State) : State :=
  finishMessage { s with uplink := { s.uplink with
    response := s.uplink.response ++ [.response { req := r, status := status, result := result }] } }

/-- The head message, when it is a request that `p` takes and the RESPONSE queue has room (R177). -/
def headRequest (p : List Byte → Bool) (s : State) : Option RxFrame :=
  if responseRoom s then (headMessage s).filter (fun f => p f.msg) else none

/-- A request that `p` takes is passed to the Management Engine and carried out by `act` (R177, R178). -/
def runRequest (p : List Byte → Bool) (act : Req → List Byte → State → State) (s : State) :
    Host.Outcome State Fault Refusal :=
  match headRequest p s with
  | some f => .next (act (reqOf f) (argsOf f.msg) (passMessage f s))
  | none => .next s

/-- The head message is a REQUEST and the RESPONSE queue is full (R177). -/
def mustWait (s : State) : Bool :=
  !responseRoom s && (headMessage s).any (fun f => classOf f.msg = classRequest)

/-- REQUEST_WAITING (R177): the Dispatcher holds the request as waiting. -/
def execRequestWaiting (s : State) : Host.Outcome State Fault Refusal :=
  takesPlace (mustWait s) s { s with dispatcher := { s.dispatcher with waiting := true } }

/-- REQUEST_UNKNOWN_CODE (R181, R192): answered BAD_REQUEST, changing nothing. -/
def execRequestUnknownCode (s : State) : Host.Outcome State Fault Refusal :=
  runRequest isUnknownRequest (fun r _ t => respond r .badRequest [] t) s

/-- A request without arguments answered BAD_REQUEST when it carries some (R193). -/
def withoutArgs (act : Req → State → State) (r : Req) (args : List Byte) (s : State) : State :=
  if args.length = 0 then act r s else respond r .badRequest [] s

/-- DESCRIBE (R181). -/
def execDescribe (s : State) : Host.Outcome State Fault Refusal :=
  runRequest (isRequestOf .describe)
    (withoutArgs (fun r t => respond r .ok (describeResult t) t)) s

/-- The lowest row of `first .. first + count - 1` outside the table (R184). -/
def rowOutside (t : Table) (first count : Nat) : Option Nat :=
  ((List.range count).map (fun i => first + i)).find? (fun r => r < t.firstRow ∨ t.lastRow < r)

/-- GET_ROWS of a known table (R184, R193). -/
def getRowsOf (t : Table) (r : Req) (args : List Byte) (s : State) : State :=
  let first := (byteAt args 1).toNat
  let count := (byteAt args 2).toNat
  if args.length ≠ 3 ∨ count = 0 ∨ t.maxRows < count then respond r .badRequest [] s
  else
    match rowOutside t first count with
    | some bad => respond r .badRow (byte bad) s
    | none =>
      respond r .ok
        (byte t.code ++ byte count ++ ((List.range count).map (fun i => first + i)).flatMap (rowImage s t)) s

/-- The table byte examined first (R193): none is BAD_REQUEST, an unknown table UNKNOWN_TABLE. -/
def withTable (act : Table → Req → List Byte → State → State) (r : Req) (args : List Byte) (s : State) :
    State :=
  match tableArg args with
  | none => respond r .badRequest [] s
  | some none => respond r .unknownTable [] s
  | some (some t) => act t r args s

/-- GET_ROWS (R184). -/
def execGetRows (s : State) : Host.Outcome State Fault Refusal :=
  runRequest (isRequestOf .getRows) (withTable getRowsOf) s

/-- GET_COUNTERS with clear option NO, or one answered BAD_REQUEST (R186). -/
def execGetCounters (s : State) : Host.Outcome State Fault Refusal :=
  runRequest (isGetCounters false)
    (fun r args t =>
      match clearOption args with
      | some _ => respond r .ok (countersResult t) t
      | none => respond r .badRequest [] t) s

/-- Every counter set to 0 (R186); the lot tallies are not counters. -/
def clearCounters (s : State) : State :=
  { s.updCounters (fun _ => Globals.zero) with
    ports := mapTable (fun p => { p with counters := NestCounters.zero }) s.ports }

/-- GET_COUNTERS with clear option YES, or one answered BAD_REQUEST (R186). -/
def execGetCountersClear (s : State) : Host.Outcome State Fault Refusal :=
  runRequest (isGetCounters true)
    (fun r args t =>
      match clearOption args with
      | some _ => respond r .ok (countersResult t) (clearCounters t)
      | none => respond r .badRequest [] t) s

/-- GET_STATE (R182). -/
def execGetState (s : State) : Host.Outcome State Fault Refusal :=
  runRequest (isRequestOf .getState) (withoutArgs (fun r t => respond r .ok (stateResult t) t)) s

/-- RELEASE_ATTENTION of nest `n` (R171). -/
def releaseSlot (n : Nest) (r : Req) (s : State) : State :=
  let x := s.notice.slots[n.val]
  match x.state with
  | .held =>
    respond r .ok
      (byte n.val ++ byte (bit x.superseded 0 + bit x.missed 1) ++ leBytes 2 x.code.toNat)
      (s.updNotice (fun u => { u with slots := upd u.slots n (fun _ => Slot.none) }))
  | .pending => respond r .notHeld (byte n.val) s
  | .empty => respond r .notHeld (byte n.val) s

/-- RELEASE_ATTENTION (R171). -/
def execReleaseAttention (s : State) : Host.Outcome State Fault Refusal :=
  runRequest (isRequestOf .releaseAttention)
    (fun r args t =>
      match releaseArg args with
      | some n => releaseSlot n r t
      | none => respond r .badRequest [] t) s

/-- RESTART (R187): answered OK with the count of entries not FREE; the Dispatcher takes no further
message. -/
def execRestart (s : State) : Host.Outcome State Fault Refusal :=
  runRequest (isRequestOf .restart)
    (withoutArgs (fun r t =>
      let t1 := respond r .ok (byte (entriesInUse t)) t
      { t1 with dispatcher := { t1.dispatcher with restart := .waiting } })) s

end Sys2Proof.Machine
end

