-- ==== Sys2Proof/Machine/Tables.lean ====
section
/-! DEFINITION. PUT_ROWS (R183) and the rule of each table: Group (R38), Profile (R86), Code Set (R89), Nest
Config (R65), Allow List (R174) and Settings (R185). -/

namespace Sys2Proof.Machine

/-- What a row image comes to: written, with the state after it, or refused with a status. -/
inductive RowResult where
  | written (s : State)
  | refused (status : Status)

/-- A Group row image (R38): every nest set is valid. -/
def writeGroupRow (img : List Byte) (s : State) : RowResult :=
  if h : (byteAt img 0).toNat < 64 then
    .written { s with groups := upd s.groups ⟨(byteAt img 0).toNat, h⟩ (fun _ =>
      BitVec.ofNat 32 (leAt img 2 4)) }
  else .refused .badRow

/-- A Profile row image (R86, R194): the row number and the defined byte, then the pin count, then the
slots. An image that clears the row stores no slot. -/
def writeProfileRow (img : List Byte) (s : State) : RowResult :=
  if h : 1 ≤ (byteAt img 0).toNat ∧ (byteAt img 0).toNat < 64 ∧ (byteAt img 1).toNat ≤ 1 then
    let r : Fin 64 := ⟨(byteAt img 0).toNat, h.2.1⟩
    if (s.profile r).pins ≠ 0 then .refused .inUse
    else if byteAt img 1 = 0#8 then .written (s.updProfile r (fun _ => ProfileRow.empty))
    else
      match decodeSlots img with
      | none => .refused .badRow
      | some slots =>
        if slots.toList.all MeasureSlot.valid then
          .written (s.updProfile r (fun _ => { defined := true, slots := slots, pins := 0 }))
        else .refused .badRow
  else .refused .badRow

/-- Code Set `c` is in use (R89): a Profile row with a pin count above 0 has a CODE slot naming it. -/
def codeSetInUse (s : State) (c : Nat) : Bool :=
  s.judge.profiles.toList.any (fun p =>
    p.pins ≠ 0 && p.slots.toList.any (fun m => m.mode = .code && m.codeSet.toNat = c))

/-- A Code Set row image (R88, R89): a 512-bit chunk of set row / 8. -/
def writeCodeSetRow (img : List Byte) (s : State) : RowResult :=
  if h : (byteAt img 0).toNat < 64 then
    if codeSetInUse s ((byteAt img 0).toNat / 8) then .refused .inUse
    else
      .written { s with judge := { s.judge with
        codeSets := upd s.judge.codeSets ⟨(byteAt img 0).toNat, h⟩ (fun _ =>
          BitVec.ofNat 512 (leNat ((img.drop 2).take 64))) } }
  else .refused .badRow

/-- A Nest Config row stored, and the link moved by a change of enabled (R60, R65). -/
def storeNestConfig (n : Nest) (c : NestConfig) (s : State) : State :=
  let old := (s.port n).config
  let s1 := s.updPort n (fun p => { p with config := c })
  if old.enabled ∧ ¬c.enabled then linkDown n s1
  else if ¬old.enabled ∧ c.enabled then trainIfReady n s1
  else s1

/-- A Nest Config row image (R64, R65): halt grace 1..1000. -/
def writeNestConfigRow (img : List Byte) (s : State) : RowResult :=
  let grace := leAt img 2 2
  if h : (byteAt img 0).toNat < 32 then
    if grace = 0 ∨ Config.maxGrace < grace then .refused .badRow
    else
      .written (storeNestConfig ⟨(byteAt img 0).toNat, h⟩
        { enabled := (byteAt img 1).getLsbD 0, excluded := (byteAt img 1).getLsbD 1,
          chatter := (byteAt img 1).getLsbD 2, haltGrace := grace } s)
  else .refused .badRow

/-- An Allow List row image (R174, R194): a valid group address is refused, and an invalid entry stores no
address. -/
def writeAllowRow (img : List Byte) (s : State) : RowResult :=
  let addr : MacAddr := BitVec.ofNat 48 (beNat ((img.drop 2).take 6))
  let valid : Bool := byteAt img 1 = 1#8
  if h : (byteAt img 0).toNat < 4 then
    if (byteAt img 1).toNat > 1 ∨ (valid ∧ isGroupAddress addr) then .refused .badRow
    else
      .written { s with uplink := { s.uplink with
        allow := upd s.uplink.allow ⟨(byteAt img 0).toNat, h⟩ (fun _ =>
          { valid := valid, addr := if valid then addr else 0 }) } }
  else .refused .badRow

/-- A Settings row image (R185, R194). -/
def writeSettingsRow (img : List Byte) (s : State) : RowResult :=
  let c : Settings :=
    { throttle := leAt img 2 2, payloadLow := leAt img 4 2, replyLow := leAt img 6 2,
      mask := BitVec.ofNat 7 (byteAt img 8).toNat }
  if byteAt img 0 ≠ 0#8 ∨ Config.maxThreshold < c.payloadLow ∨ Config.maxThreshold < c.replyLow
      ∨ (byteAt img 8).getLsbD 7 then .refused .badRow
  else .written { s with mgmt := { s.mgmt with settings := c } }

/-- The rule of each table for a row image (R183). -/
def writeRow (t : Table) (img : List Byte) (s : State) : RowResult :=
  match t with
  | .group => writeGroupRow img s
  | .profile => writeProfileRow img s
  | .codeSet => writeCodeSetRow img s
  | .nestConfig => writeNestConfigRow img s
  | .allowList => writeAllowRow img s
  | .settings => writeSettingsRow img s

/-- The images of a request, in order (R183 item 3): each written before the next is taken, the first that
fails stopping the request with its status and row number. `done` counts the rows written. -/
def writeRows (t : Table) (r : Req) (done : Nat) : List (List Byte) → State → State
  | [], s => respond r .ok (byte done ++ byte 0) s
  | img :: rest, s =>
    match writeRow t img s with
    | .written s1 => writeRows t r (done + 1) rest s1
    | .refused status => respond r status (byte done ++ [byteAt img 0]) s

/-- PUT_ROWS of a known table (R183): the row count and the argument length, then the images. -/
def putRowsOf (t : Table) (r : Req) (args : List Byte) (s : State) : State :=
  let count := (byteAt args 1).toNat
  if args.length < 2 ∨ count = 0 ∨ t.maxRows < count ∨ args.length ≠ 2 + count * t.imageSize then
    respond r .badRequest [] s
  else writeRows t r 0 (piecesOf t.imageSize count (args.drop 2)) s

/-- A PUT_ROWS that the row of table `t` takes (R183, R193). -/
def putRows (t : Table) (s : State) : Host.Outcome State Fault Refusal :=
  runRequest (isPutRows t) (withTable putRowsOf) s

/-- PUT_ROWS_GROUP (R38). -/
def execPutRowsGroup (s : State) : Host.Outcome State Fault Refusal := putRows .group s
/-- PUT_ROWS_PROFILE (R86). -/
def execPutRowsProfile (s : State) : Host.Outcome State Fault Refusal := putRows .profile s
/-- PUT_ROWS_CODE_SET (R89). -/
def execPutRowsCodeSet (s : State) : Host.Outcome State Fault Refusal := putRows .codeSet s
/-- PUT_ROWS_NEST_CONFIG (R65). -/
def execPutRowsNestConfig (s : State) : Host.Outcome State Fault Refusal := putRows .nestConfig s
/-- PUT_ROWS_ALLOW_LIST (R174). -/
def execPutRowsAllowList (s : State) : Host.Outcome State Fault Refusal := putRows .allowList s
/-- PUT_ROWS_SETTINGS (R185). -/
def execPutRowsSettings (s : State) : Host.Outcome State Fault Refusal := putRows .settings s

end Sys2Proof.Machine
end

