-- ==== Sys2Proof/Machine/Lots.lean ====
section
/-! DEFINITION. The Lot Controller (chapter 2): opening and closing a lot, and the events it takes. -/

namespace Sys2Proof.Machine

/-- The standing of a nest at OPEN_LOT, by the first line of R25 that applies. -/
def standingAtOpen (p : NestPort) : Standing :=
  if p.config.excluded then .excluded
  else if ¬p.config.enabled then .vacant
  else if p.link ≠ .up then .vacant
  else if p.presence = .empty then .vacant
  else if p.service = .stalled then .vacant
  else .clear

/-- A nest of the Lot Controller as OPEN_LOT leaves it (R24): tallies 0 and its standing. Events and void
instructions still under way stay: an event is taken with the standing it then finds (log entry 21), and a
void given before the lot opened ends what is QUEUED when the port takes it (log entry 31). -/
def openNest (s : State) (n : Nest) (l : LotNest) : LotNest :=
  { l with standing := standingAtOpen (s.port n), passes := 0, marginals := 0, failures := 0 }

/-- The lot opened with an id (R24). -/
def openLot (id : Word32) (s : State) : State :=
  { s with lot :=
      { isOpen := true, id := id,
        nests := allNests.foldl (fun v n => upd v n (openNest s n)) s.lot.nests } }

/-- OPEN_LOT (R24): WRONG_LOT_STATE, then BUSY, then carried out. -/
def execOpenLot (s : State) : Host.Outcome State Fault Refusal :=
  runRequest (isRequestOf .openLot)
    (fun r args t =>
      match openLotArg args with
      | none => respond r .badRequest [] t
      | some id =>
        if t.lot.isOpen then respond r .wrongLotState [] t
        else if someEntryInUse t then respond r .busy [] t
        else respond r .ok (openLotResult (openLot id t)) (openLot id t)) s

/-- The lot closed: every standing NONE, the id and the tallies kept (R26). -/
def closeLot (s : State) : State :=
  { s with lot := { s.lot with
      isOpen := false, nests := mapTable (fun l => { l with standing := .none }) s.lot.nests } }

/-- CLOSE_LOT (R26): WRONG_LOT_STATE, then BUSY, then the summary. -/
def execCloseLot (s : State) : Host.Outcome State Fault Refusal :=
  runRequest (isRequestOf .closeLot)
    (withoutArgs (fun r t =>
      if t.lot.isOpen = false then respond r .wrongLotState [] t
      else if someEntryInUse t then respond r .busy [] t
      else respond r .ok (lotSummary t) (closeLot t))) s

/-- A standing change within an open lot, which raises STANDING (R35). -/
def changeStanding (n : Nest) (x : Standing) (s : State) : State :=
  raiseStanding n (s.updLotNest n (fun l => { l with standing := x }))

/-- A CLEAR nest becomes LOST; any other standing stays (R29, R30, R31). -/
def loseIfClear (n : Nest) (s : State) : State :=
  if isClear s n then changeStanding n .lost s else s

/-- A void instruction is given to the port of nest `n` (R34). -/
def giveVoid (n : Nest) (c : VoidCause) (s : State) : State :=
  s.updLotNest n (fun l => { l with voids := l.voids ++ [c] })

/-- The Lot Controller takes a stop failure of nest `n` (R28): FAILED and a void for a CLEAR nest, and
otherwise no change, which clears the stop hold (R74). -/
def takeStopFailure (n : Nest) (s : State) : State :=
  if isClear s n then giveVoid n .stopFailure (changeStanding n .failed s)
  else s.updPort n (fun p => { p with stopHold := false })

/-- The event of nest `n` that the Lot Controller takes next: the oldest delivered and not yet taken, so that
a stall finds the nest as an earlier stop failure left it (R30; log entry 5). -/
def nextEvent (n : Nest) (s : State) : Option StandingEvent :=
  if s.running then (s.lotNest n).events.head? else none

/-- The oldest event of nest `n` is taken. -/
def dropEvent (n : Nest) (s : State) : State :=
  s.updLotNest n (fun l => { l with events := l.events.tail })

/-- The event is a stop failure. -/
def StandingEvent.isStopFailure (x : StandingEvent) : Bool :=
  match x with
  | .stopFailure _ => true
  | .absence | .stall => false

/-- STOP_FAILURE (R28): the Lot Controller takes the stop failure that is next of nest `n`. -/
def execStopFailure (n : Nest) (s : State) : Host.Outcome State Fault Refusal :=
  takesPlace ((nextEvent n s).any StandingEvent.isStopFailure) s (takeStopFailure n (dropEvent n s))

/-- A RETRAIN of nest `n` waiting for the Lot Controller counts an absence taken, and at the last its
response is built (R152, R157; log entry 7). -/
def retrainProgress (n : Nest) (s : State) : State :=
  match s.dispatcher.task with
  | some (.retrain r m k link) =>
    if m = n then
      (if k ≤ 1 then
        respond r .ok (actionResult s n .retrain none false link 0)
          { s with dispatcher := { s.dispatcher with task := none } }
      else { s with dispatcher := { s.dispatcher with task := some (.retrain r m (k - 1) link) } })
    else s
  | some (.abort _ _ _ _ _ _) => s
  | none => s

/-- ABSENCE (R29): a CLEAR nest becomes LOST, with no void. -/
def execAbsence (n : Nest) (s : State) : Host.Outcome State Fault Refusal :=
  takesPlace (nextEvent n s = some .absence) s (retrainProgress n (loseIfClear n (dropEvent n s)))

/-- STALL (R30): a CLEAR nest becomes LOST, and a void is given whatever the standing. -/
def execStall (n : Nest) (s : State) : Host.Outcome State Fault Refusal :=
  takesPlace (nextEvent n s = some .stall) s (giveVoid n .stall (loseIfClear n (dropEvent n s)))

/-- The tallies of a nest after an outcome (R36). -/
def tally (o : CopyOutcome) (l : LotNest) : LotNest :=
  match o with
  | .pass => { l with passes := satInc16 l.passes }
  | .marginal => { l with marginals := satInc16 l.marginals }
  | .fail | .errored | .timeout => { l with failures := satInc16 l.failures }
  | .absent | .halted | .voided | .skipped => l

/-- OUTCOME_DELIVERED (R36): the oldest outcome delivered by nest `n` is taken and tallied. -/
def execOutcomeDelivered (n : Nest) (s : State) : Host.Outcome State Fault Refusal :=
  match (s.lotNest n).outcomes with
  | (_, o) :: rest =>
    takesPlace s.running s (s.updLotNest n (fun l => tally o { l with outcomes := rest }))
  | [] => .next s

end Sys2Proof.Machine
end

