-- ==== Sys2Proof/Machine/Lane.lean ====
section
/-! DEFINITION. The lane and link commands of a nest port: signal, GREET, frames leaving, WELCOME,
PRESENCE, NOTE, CHAT and BAD_FRAME (4.1 to 4.3, 4.8). -/

namespace Sys2Proof.Machine

/-- LANE_SIGNAL_PRESENT (R60): an enabled nest that is DOWN goes to TRAINING. While the part does not run
only the level is seen (R189). -/
def execLaneSignalPresent (n : Nest) (s : State) : Host.Outcome State Fault Refusal :=
  let s1 := { s with signal := upd s.signal n (fun _ => true) }
  .next (if s.running then trainIfReady n s1 else s1)

/-- LANE_SIGNAL_LOST (R60): a link in TRAINING or UP goes DOWN. -/
def execLaneSignalLost (n : Nest) (s : State) : Host.Outcome State Fault Refusal :=
  let s1 := { s with signal := upd s.signal n (fun _ => false) }
  .next (if s.running then linkDown n s1 else s1)

/-- A further GREET is due: the link is in TRAINING and 50 ms have run since the last left (R61). -/
def greetDue (n : Nest) (s : State) : Bool :=
  s.running && (s.port n).link = .training && (s.port n).greet.isRunning

/-- GREET_REPEAT (R61). -/
def execGreetRepeat (n : Nest) (s : State) : Host.Outcome State Fault Refusal :=
  takesPlace (greetDue n s) s
    (s.updPort n (fun p =>
      { p with backlog := p.backlog ++ [.greet n], greet := .armed }))

/-- A timer that waits for its frame to leave the lane is loaded with `d` and runs; another is as it was
(R68). -/
def Timer.start (d : Nat) (t : Timer) : Timer :=
  match t with
  | .armed => .running d
  | .stopped => .stopped
  | .running k => .running k

/-- The timer that a frame leaving the lane loads and starts: a RUN with the current tag the deadline, with
the deadline of the head's step; a HALT with the halted tag the grace, with the halt grace as it then stands
in the Nest Config row (R65); a GREET in TRAINING the repetition (R68, R61; log entry 19). -/
def startTimerOf (s : State) (f : LaneOut) (p : NestPort) : NestPort :=
  match f with
  | .run tag _ =>
    match p.queue with
    | c :: _ =>
      if p.service = .waiting tag then { p with deadline := p.deadline.start (s.entry c.entry).deadline } else p
    | [] => p
  | .halt tag => if p.service = .halting tag then { p with grace := p.grace.start p.config.haltGrace } else p
  | .greet _ => if p.link = .training then { p with greet := p.greet.start Config.greetPeriod } else p
  | .cycle => p

/-- FRAME_LEAVES_LANE (R68): the frame being sent leaves, and the timer that waited on it is loaded. -/
def execFrameLeavesLane (n : Nest) (s : State) : Host.Outcome State Fault Refusal :=
  takesPlace s.running s
    (match (s.port n).backlog with
     | [] => s
     | f :: rest => s.updPort n (fun p => startTimerOf s f { p with backlog := rest }))

/-- BAD_FRAME (R58): the bytes are counted if they are a bad frame. -/
def execBadFrame (n : Nest) (bytes : List Byte) (s : State) : Host.Outcome State Fault Refusal :=
  takesPlace (s.running && isBadFrame bytes) s (countBadFrame n s)

/-- A good WELCOME (R59, R61). -/
def takeWelcome (n : Nest) (adapterId : Word32) (present : Bool) (s : State) : State :=
  match (s.port n).link with
  | .down => s
  | .training =>
    raiseLink n ((setPresence n present (s.updPort n (fun p => { p with adapterId := adapterId }))).updPort n
      (fun p => { p with link := .up, greet := .stopped }))
  | .up => setPresence n present (s.updPort n (fun p => { p with adapterId := adapterId }))

/-- WELCOME (R61); one whose presence byte is neither 0 nor 1 is a BAD_FRAME (R58). -/
def execWelcome (n : Nest) (adapterId : Word32) (presence : Byte) (s : State) :
    Host.Outcome State Fault Refusal :=
  takesPlace s.running s
    (match presenceOf presence with
     | some present => takeWelcome n adapterId present s
     | none => countBadFrame n s)

/-- PRESENCE (R63): taken in UP alone (R59); a bad presence byte makes it a BAD_FRAME (R58). -/
def execPresence (n : Nest) (presence : Byte) (s : State) : Host.Outcome State Fault Refusal :=
  takesPlace s.running s
    (match presenceOf presence with
     | some present => if (s.port n).link = .up then setPresence n present s else s
     | none => countBadFrame n s)

/-- What a NOTE's code does to the nest's slot (R169). -/
def Slot.take (code : Word16) (x : Slot) : Slot :=
  match x.state with
  | .empty => { state := .pending, code := code, superseded := false, missed := false }
  | .pending => { x with code := code, superseded := true }
  | .held => { x with missed := true }

/-- The Notice Unit takes a NOTE of nest `n` (R169): ATTENTION is raised unless the slot is HELD. -/
def takeNote (n : Nest) (code : Word16) (s : State) : State :=
  let held : Bool := s.notice.slots[n.val].state = .held
  let s1 := s.updNotice (fun u => { u with slots := upd u.slots n (Slot.take code) })
  if held then s1 else raiseCause .attention s1

/-- NOTE (R80): taken in UP alone. -/
def execNote (n : Nest) (code : Word16) (s : State) : Host.Outcome State Fault Refusal :=
  takesPlace (s.running && (s.port n).link = .up) s (takeNote n code s)

/-- A CHAT taken in UP (R81): forwarded with the chatter flag set and room in the queue, and otherwise
dropped and counted. -/
def takeChat (n : Nest) (payload : List Byte) (s : State) : State :=
  if (s.port n).config.chatter ∧ s.uplink.chatter.length < Config.chatterCapacity then
    { s with uplink := { s.uplink with
        chatter := s.uplink.chatter ++ [{ nest := n, payload := payload }] } }
  else s.updNestCounters n (fun c => { c with chatterDropped := satInc c.chatterDropped })

/-- CHAT (R81); one with more than 256 bytes is a BAD_FRAME (R58). -/
def execChat (n : Nest) (payload : List Byte) (s : State) : Host.Outcome State Fault Refusal :=
  takesPlace s.running s
    (if payload.length > Config.maxAnswer then countBadFrame n s
     else if (s.port n).link = .up then takeChat n payload s
     else s)

end Sys2Proof.Machine
end

