-- ==== Sys2Proof/Machine/Service.lean ====
section
/-! DEFINITION. The service machine of a nest port (4.5 to 4.7): starting the head, answers, expiries,
halts, voids and the stream halt and void of an abort. -/

namespace Sys2Proof.Machine

/-- The head of nest `n` can be started (R70): IDLE, the head QUEUED, the link UP, the presence PRESENT
and the stop hold clear. -/
def startable (n : Nest) (s : State) : Option Copy :=
  let p := s.port n
  match p.queue with
  | c :: _ =>
    if s.running ∧ p.service = .idle ∧ c.state = .queued ∧ p.link = .up ∧ p.presence = .present
        ∧ p.stopHold = false then some c else none
  | [] => none

/-- The head of the queue of nest `n` replaced by `c`. -/
def setHead (n : Nest) (c : Copy) (s : State) : State :=
  s.updPort n (fun p => { p with queue := c :: p.queue.tail })

/-- START_HEAD (R70). -/
def execStartHead (n : Nest) (s : State) : Host.Outcome State Fault Refusal :=
  match startable n s with
  | some c => .next (sendRun n c (setHead n { c with state := .inService, runs := 0 } s))
  | none => .next s

/-- The head copy `c` of nest `n` ends by an answer, with outcome `o` (R46, R71): it leaves the queue, the
nest is IDLE, the outcome is carried through R46, a failure under STOP is a stop failure (R74), and the
answer's payload is offered (R110). -/
def endByAnswer (n : Nest) (c : Copy) (runs : Nat) (o : CopyOutcome) (payload : List Byte) (s : State) :
    State :=
  offerAnswer c.entry n payload
    (deliverStopFailure n c.entry o
      (finishCopy n c.entry runs o
        (s.updPort n (fun p => { p with queue := p.queue.tail, service := .idle }))))

/-- An answer leaves reps remaining (R72): the gap timer is loaded and the nest enters GAP, or with gap 0
the next RUN is sent at once. -/
def nextRun (n : Nest) (c : Copy) (s : State) : State :=
  let gap := (s.entry c.entry).gap
  if gap = 0 then sendRun n c s
  else s.updPort n (fun p => { p with gap := .running gap, service := .gap })

/-- The answer of the run of head copy `c` (R71). -/
def takeAnswer (n : Nest) (c : Copy) (status : Byte) (payload : List Byte) (s : State) : State :=
  let runs := c.runs + 1
  let s1 := setHead n { c with runs := runs }
    (s.updPort n (fun p =>
      { p with deadline := .stopped,
               counters := { p.counters with answers := satInc p.counters.answers } }))
  if status ≠ 0#8 then endByAnswer n c runs .errored payload s1
  else if runs < (s.entry c.entry).reps then nextRun n c (judgeAnswer c.entry n payload false s1).1
  else
    let j := judgeAnswer c.entry n payload true s1
    endByAnswer n c runs j.2 payload j.1

/-- An ANSWER taken in UP, classified by service state and tag (R67). -/
def classifyAnswer (n : Nest) (tag : Word16) (status : Byte) (payload : List Byte) (s : State) : State :=
  match (s.port n).service with
  | .waiting current =>
    if tag = current then
      match (s.port n).queue with
      | c :: _ => takeAnswer n c status payload s
      | [] => s
    else countLate n s
  | .halting halted => if tag = halted then endHalt n (countLate n s) else countLate n s
  | .idle => countLate n s
  | .gap => countLate n s
  | .stalled => countLate n s

/-- ANSWER (R71): taken in UP alone (R59); one with more than 256 payload bytes is a BAD_FRAME (R58). -/
def execAnswer (n : Nest) (tag : Word16) (status : Byte) (payload : List Byte) (s : State) :
    Host.Outcome State Fault Refusal :=
  takesPlace s.running s
    (if payload.length > Config.maxAnswer then countBadFrame n s
     else if (s.port n).link = .up then classifyAnswer n tag status payload s
     else s)

/-- STOPPED (R67, R75): with the halted tag in HALTING it ends the halt, uncounted; otherwise LATE. -/
def execStopped (n : Nest) (tag : Word16) (s : State) : Host.Outcome State Fault Refusal :=
  takesPlace (s.running && (s.port n).link = .up) s
    (if (s.port n).service = .halting tag then endHalt n s else countLate n s)

/-- The deadline can expire: WAITING, with the deadline timer running (R68, R73). -/
def deadlineDue (n : Nest) (s : State) : Option (Copy × Word16) :=
  let p := s.port n
  match p.service, p.queue with
  | .waiting tag, c :: _ => if s.running ∧ p.deadline.isRunning then some (c, tag) else none
  | .waiting _, [] => none
  | .idle, _ => none
  | .gap, _ => none
  | .halting _, _ => none
  | .stalled, _ => none

/-- The deadline expires (R73): the copy is CLOSING with outcome TIMEOUT, a HALT with the current tag is
sent, the nest is HALTING, and the outcome is carried through R46. -/
def expireDeadline (n : Nest) (c : Copy) (tag : Word16) (s : State) : State :=
  deliverStopFailure n c.entry .timeout
    (finishCopy n c.entry c.runs .timeout
      (s.updPort n (fun p =>
        { p with queue := { c with state := .closing } :: p.queue.tail, deadline := .stopped,
                 counters := { p.counters with timeouts := satInc p.counters.timeouts },
                 backlog := p.backlog ++ [.halt tag], service := .halting tag,
                 grace := .armed })))

/-- DEADLINE_EXPIRY (R73). -/
def execDeadlineExpiry (n : Nest) (s : State) : Host.Outcome State Fault Refusal :=
  match deadlineDue n s with
  | some (c, tag) => .next (expireDeadline n c tag s)
  | none => .next s

/-- The gap timer can expire: GAP, with the timer running (R72). -/
def gapDue (n : Nest) (s : State) : Option Copy :=
  let p := s.port n
  match p.queue with
  | c :: _ => if s.running ∧ p.service = .gap ∧ p.gap.isRunning then some c else none
  | [] => none

/-- GAP_EXPIRY (R72): the next RUN is sent with a new tag. -/
def execGapExpiry (n : Nest) (s : State) : Host.Outcome State Fault Refusal :=
  match gapDue n s with
  | some c => .next (sendRun n c (s.updPort n (fun p => { p with gap := .stopped })))
  | none => .next s

/-- The grace can expire: HALTING, with the grace timer running (R76). -/
def graceDue (n : Nest) (s : State) : Bool :=
  s.running && (s.port n).grace.isRunning &&
    match (s.port n).service with
    | .halting _ => true
    | .idle | .waiting _ | .gap | .stalled => false

/-- GRACE_EXPIRY (R76): the CLOSING copy leaves, the nest is STALLED and a stall is delivered. -/
def execGraceExpiry (n : Nest) (s : State) : Host.Outcome State Fault Refusal :=
  takesPlace (graceDue n s) s
    (deliverStall n (s.updPort n (fun p =>
      { p with grace := .stopped, queue := p.queue.tail, service := .stalled })))

/-- Any copy. -/
def anyCopy (_ : Copy) : Bool := true

/-- The port of nest `n` takes the void instructions `taken`, leaving `rest` to be taken (R47): the first ends
every QUEUED copy VOIDED, and those behind it find none. One that answers a stop failure clears the stop hold
(R74; log entry 6). -/
def takeVoids (n : Nest) (taken rest : List VoidCause) (s : State) : State :=
  (voidQueued n anyCopy (s.updLotNest n (fun l => { l with voids := rest }))).updPort n
    (fun p => { p with stopHold := p.stopHold && !taken.contains .stopFailure })

/-- VOID_INSTRUCTION (R47): the port takes the oldest void the Lot Controller gave it. -/
def execVoidInstruction (n : Nest) (s : State) : Host.Outcome State Fault Refusal :=
  match (s.lotNest n).voids with
  | cause :: rest => takesPlace s.running s (takeVoids n [cause] rest s)
  | [] => .next s

/-- The port of nest `n` takes every void instruction given to it and not yet taken, as it does before the void
of a CYCLE or an EXCLUDE: it takes them in the order given, so that the later one finds the queue empty (R32,
R34; log entry 36). -/
def takeWaitingVoids (n : Nest) (s : State) : State :=
  if (s.lotNest n).voids = [] then s else takeVoids n (s.lotNest n).voids [] s

/-- The copy is of stream `st`. -/
def ofStream (st : StreamId) (c : Copy) : Bool := c.stream = st

/-- Nest `n` takes the stream's halt request and stream void as one event (R148): the halt first, then the
void of the copies that remain QUEUED. -/
def haltAndVoid (n : Nest) (st : StreamId) (s : State) : State :=
  voidQueued n (ofStream st) (haltHead n (ofStream st) s)

end Sys2Proof.Machine
end

