-- ==== Sys2Proof/Machine/Actions.lean ====
section
/-! DEFINITION. ABORT_STREAM with its per-nest part (8.1) and the five actions of NEST_ACTION (8.2). -/

namespace Sys2Proof.Machine

/-! ### ABORT_STREAM -/

/-- The stream state at an abort (R3): DRAINING if its retire list is not empty. -/
def drainStream (st : StreamId) (s : State) : State :=
  if s.retireList st = [] then s else s.updStream st (fun x => { x with draining := true })

/-- The entry is a LIVE entry of the stream (R147). -/
def marks (st : StreamId) (e : StepEntry) : Bool := e.state = .live && e.stream = st

/-- The number of entries an abort marks (R147). -/
def markCount (st : StreamId) (s : State) : Nat := s.table.entries.toList.countP (marks st)

/-- The marking (R147): ABORTED on every LIVE entry of the stream. -/
def markEntries (st : StreamId) (s : State) : State :=
  { s with table := { s.table with
      entries := mapTable (fun e => { e with aborted := e.aborted || marks st e }) s.table.entries } }

/-- ABORT_STREAM (R146): the stream state, the marking, and then every nest port has its part to take. -/
def execAbortStream (s : State) : Host.Outcome State Fault Refusal :=
  runRequest (isRequestOf .abortStream)
    (fun r args t =>
      match abortArg args with
      | none => respond r .badRequest [] t
      | some st =>
        let t1 := markEntries st (drainStream st t)
        { t1 with dispatcher := { t1.dispatcher with
            task := some (.abort r st (markCount st t) 0 0 (BitVec.allOnes 32)) } }) s

/-- The abort in progress after nest `n` has taken its part, with the response when it was the last (R148,
R150). -/
def abortProgress (n : Nest) (r : Req) (st : StreamId) (marked halted voided : Nat) (left : NestSet)
    (s : State) : State :=
  let rest := NestSet.erase left n
  if rest = 0#32 then
    respond r .ok (abortResult s st marked halted voided)
      { s with dispatcher := { s.dispatcher with task := none } }
  else
    { s with dispatcher := { s.dispatcher with task := some (.abort r st marked halted voided rest) } }

/-- STREAM_HALT_AND_VOID (R148): nest `n` takes its part of the abort in progress, once. -/
def execStreamHaltAndVoid (n : Nest) (s : State) : Host.Outcome State Fault Refusal :=
  match s.dispatcher.task with
  | some (.abort r st marked halted voided left) =>
    takesPlace (s.running && NestSet.has left n) s
      (abortProgress n r st marked
        (halted + (if (haltedHead n (ofStream st) s).isSome then 1 else 0))
        (voided + voidCount n (ofStream st) (haltHead n (ofStream st) s))
        left (haltAndVoid n st s))
  | some (.retrain _ _ _ _) => .next s
  | none => .next s

/-! ### NEST_ACTION -/

/-- The stream and step number of the head a halt request halts (R152). -/
def haltedStep (n : Nest) (s : State) : Option (StreamId × Word16) :=
  (haltedHead n anyCopy s).map (fun c => (c.stream, (s.entry c.entry).stepNumber))

/-- A good NEST_ACTION is carried out by `act`; another is answered BAD_REQUEST (R152). -/
def nestAction (a : NestAction) (act : Req → Nest → State → State) (s : State) :
    Host.Outcome State Fault Refusal :=
  runRequest (isNestAction a)
    (fun r args t =>
      match nestActionArgs args with
      | some (n, _) => act r n t
      | none => respond r .badRequest [] t) s

/-- The answer of an action on nest `n`, from the state `s` before it and `t` after it (R152). -/
def answerAction (r : Req) (n : Nest) (a : NestAction) (halted : Option (StreamId × Word16))
    (cycleSent : Bool) (voided : Nat) (t : State) : State :=
  respond r .ok (actionResult t n a halted cycleSent (t.port n).link voided) t

/-- HALT (R153): a halt request that names no stream. -/
def actHalt (r : Req) (n : Nest) (s : State) : State :=
  answerAction r n .halt (haltedStep n s) false 0 (haltHead n anyCopy s)

/-- NEST_ACTION_HALT (R153). -/
def execNestActionHalt (s : State) : Host.Outcome State Fault Refusal := nestAction .halt actHalt s

/-- The CYCLE frame (R77, R154): sent with the link UP; in STALLED the nest then enters IDLE. -/
def sendCycle (n : Nest) (s : State) : State :=
  if (s.port n).link = .up then
    (sendLane n .cycle s).updPort n (fun p =>
      { p with service := if p.service = .stalled then .idle else p.service })
  else s

/-- CYCLE (R154): the cycle event at the Lot Controller; then, as one event at the port, the void, the halt
and the CYCLE frame. A void given earlier and not yet taken is taken before it (log entry 36). -/
def actCycle (r : Req) (n : Nest) (s : State) : State :=
  let s1 := takeWaitingVoids n (loseIfClear n s)
  let s2 := voidQueued n anyCopy s1
  answerAction r n .cycle (haltedStep n s2) ((s.port n).link = .up) (voidCount n anyCopy s1)
    (sendCycle n (haltHead n anyCopy s2))

/-- NEST_ACTION_CYCLE (R154). -/
def execNestActionCycle (s : State) : Host.Outcome State Fault Refusal := nestAction .cycle actCycle s

/-- The excluded flag of nest `n` set or cleared (R155, R156). -/
def setExcluded (n : Nest) (b : Bool) (s : State) : State :=
  s.updPort n (fun p => { p with config := { p.config with excluded := b } })

/-- The exclude event at the Lot Controller (R32): a nest not already EXCLUDED becomes EXCLUDED. -/
def excludeStanding (n : Nest) (s : State) : State :=
  if (s.lotNest n).standing = .excluded then s else changeStanding n .excluded s

/-- EXCLUDE (R155): the flag; in an open lot the exclude event, its void and the halt as one event at the
port, after a void given earlier and not yet taken (R32; log entry 36); in a closed lot the halt request
alone. -/
def actExclude (r : Req) (n : Nest) (s : State) : State :=
  let s1 := setExcluded n true s
  if s1.lot.isOpen then
    let s2 := takeWaitingVoids n (excludeStanding n s1)
    let s3 := voidQueued n anyCopy s2
    answerAction r n .exclude (haltedStep n s3) false (voidCount n anyCopy s2) (haltHead n anyCopy s3)
  else answerAction r n .exclude (haltedStep n s1) false 0 (haltHead n anyCopy s1)

/-- NEST_ACTION_EXCLUDE (R155). -/
def execNestActionExclude (s : State) : Host.Outcome State Fault Refusal :=
  nestAction .exclude actExclude s

/-- INCLUDE (R156): the flag is cleared, and nothing more. -/
def actInclude (r : Req) (n : Nest) (s : State) : State :=
  answerAction r n .include_ none false 0 (setExcluded n false s)

/-- NEST_ACTION_INCLUDE (R156). -/
def execNestActionInclude (s : State) : Host.Outcome State Fault Refusal :=
  nestAction .include_ actInclude s

/-- RETRAIN (R157): through DOWN with every effect of R62, then TRAINING if signal is present and the nest
enabled. From UP or TRAINING an absence is delivered, and the response is built when the Lot Controller has
taken it (R152; log entry 7). -/
def actRetrain (r : Req) (n : Nest) (s : State) : State :=
  let t := trainIfReady n (linkDown n s)
  if (s.port n).link = .down then answerAction r n .retrain none false 0 t
  else
    { t with dispatcher := { t.dispatcher with
        task := some (.retrain r n ((t.lotNest n).events.count .absence) (t.port n).link) } }

/-- NEST_ACTION_RETRAIN (R157). -/
def execNestActionRetrain (s : State) : Host.Outcome State Fault Refusal :=
  nestAction .retrain actRetrain s

end Sys2Proof.Machine
end

