-- ==== Sys2Proof/Machine/Notices.lean ====
section
/-! DEFINITION. The Notice Unit (chapter 9): building a notice and the throttle. -/

namespace Sys2Proof.Machine

/-- A notice can be built (R164): the throttle timer is not running, an unmasked cause is set, and the
NOTICE queue holds fewer than 2 frames. -/
def noticeReady (s : State) : Bool :=
  s.running && !s.notice.throttle.isRunning && eligibleCauses s ≠ 0#7 &&
    s.uplink.notice.length < Config.noticeCapacity

/-- The attention records of a build: every PENDING slot, in ascending nest order (R165 item 4). -/
def attentionRecords (slots : Vector Slot 32) : List AttentionRecord :=
  (allNests.filter (fun n => slots[n.val].state = .pending)).map (fun n =>
    { nest := n, code := slots[n.val].code, superseded := slots[n.val].superseded })

/-- A PENDING slot that a notice takes is HELD (R170). -/
def Slot.deliver (x : Slot) : Slot := if x.state = .pending then { x with state := .held } else x

/-- The notice that a build makes (R165, R166). -/
def builtNotice (s : State) : NoticeMsg :=
  let taken := eligibleCauses s
  { serial := s.notice.serial + 1, causes := taken,
    links := if CauseSet.has taken .link then s.notice.links else 0,
    standings := if CauseSet.has taken .standing then s.notice.standings else 0,
    attention := if CauseSet.has taken .attention then attentionRecords s.notice.slots else [] }

/-- Building a notice (R165): what it takes is cleared, it joins the NOTICE queue, NOTICES rises, and the
throttle is loaded unless its interval is 0 (R167). -/
def buildNotice (s : State) : State :=
  let taken := eligibleCauses s
  let s1 := s.updNotice (fun u =>
    { causes := u.causes &&& ~~~taken,
      links := if CauseSet.has taken .link then 0 else u.links,
      standings := if CauseSet.has taken .standing then 0 else u.standings,
      slots := if CauseSet.has taken .attention then mapTable Slot.deliver u.slots else u.slots,
      throttle := if s.mgmt.settings.throttle = 0 then u.throttle else .running s.mgmt.settings.throttle,
      serial := u.serial + 1 })
  { s1.updCounters (fun c => { c with notices := satInc c.notices }) with
    uplink := { s.uplink with notice := s.uplink.notice ++ [builtNotice s] } }

/-- NOTICE_BUILD (R165). -/
def execNoticeBuild (s : State) : Host.Outcome State Fault Refusal :=
  takesPlace (noticeReady s) s (buildNotice s)

/-- THROTTLE_EXPIRY (R167): the timer stops; the build it may let go ahead is NOTICE_BUILD. -/
def execThrottleExpiry (s : State) : Host.Outcome State Fault Refusal :=
  takesPlace (s.running && s.notice.throttle.isRunning) s
    (s.updNotice (fun u => { u with throttle := .stopped }))

end Sys2Proof.Machine
end

