-- ==== Sys2Proof/Machine/Resets.lean ====
section
/-! DEFINITION. Power-on, the reset pin, start-up loading, the restart and the time since start (10.7). -/

namespace Sys2Proof.Machine

/-- The part with every piece of state at its power-on value, the strap sampled and the loader started
(R189). The levels at the pins and the queue of commands are not the part's to reset. -/
def powerOnState (strap : BitVec 4) (s : State) : State :=
  { State.reset with
    signal := s.signal, phyUp := s.phyUp,
    mgmt := { State.reset.mgmt with strap := strap },
    pending := s.pending }

/-- POWER_ON (R189). -/
def execPowerOn (strap : BitVec 4) (s : State) : Host.Outcome State Fault Refusal :=
  .next (powerOnState strap s)

/-- RESET_PIN (R189): the release of the reset pin, with the same effect as power-on. -/
def execResetPin (strap : BitVec 4) (s : State) : Host.Outcome State Fault Refusal :=
  .next (powerOnState strap s)

/-- RESET_PIN_ASSERTION (R189): reception and transmission stop, and a request or a restart in progress is
discarded. The other state stands until the release (log entry 8). -/
def execResetPinAssertion (s : State) : Host.Outcome State Fault Refusal :=
  .next { s with
    phase := .held,
    uplink := { s.uplink with tx := none },
    dispatcher := Dispatcher.initial,
    ports := mapTable (fun p => { p with backlog := [] }) s.ports }

/-! ### The Configuration Loader -/

/-- What the loader takes effect with (R188). -/
structure Configuration where
  mac : MacAddr
  allow : Vector AllowEntry 4
  enable : NestSet
  fromFlash : Bool
  deriving DecidableEq, Repr

/-- The little-endian 16-bit words of the image, added modulo 65536 (R188). -/
def wordSum (image : List Byte) : Nat :=
  ((List.range 20).map (fun i => leAt image (2 * i) 2)).sum % 65536

/-- The image is good (R188). -/
def imageGood (image : List Byte) : Bool :=
  image.length = 40 && wordSum image = 0xA5A5 && !isGroupAddress (BitVec.ofNat 48 (beNat (image.take 6)))

/-- Allow list entry `i` of the image; a valid byte other than 1, or a group address, makes it invalid
(R188). The address is read in transmission order (log entry 34). -/
def imageAllow (image : List Byte) (i : Nat) : AllowEntry :=
  let addr : MacAddr := BitVec.ofNat 48 (beNat ((image.drop (6 + 7 * i + 1)).take 6))
  if byteAt image (6 + 7 * i) = 1#8 ∧ ¬isGroupAddress addr then { valid := true, addr := addr }
  else { valid := false, addr := 0 }

/-- The configuration of a flash image, or the defaults with the strap value (R188). The MAC address is read
in transmission order and the nest enable mask little-endian (log entry 34). -/
def configurationOf (strap : BitVec 4) (flash : Option (List Byte)) : Configuration :=
  match flash.filter imageGood with
  | some image =>
    { mac := BitVec.ofNat 48 (beNat (image.take 6)),
      allow := #v[imageAllow image 0, imageAllow image 1, imageAllow image 2, imageAllow image 3],
      enable := BitVec.ofNat 32 (leAt image 34 4), fromFlash := true }
  | none =>
    { mac := 0x025547000000#48 ||| strap.setWidth 48,
      allow := Vector.replicate 4 { valid := false, addr := 0 },
      enable := BitVec.allOnes 32, fromFlash := false }

/-- The enabled flag of every Nest Config row set from the nest enable mask (R64, R188). -/
def applyEnable (mask : NestSet) (s : State) : State :=
  allNests.foldl (fun t n => t.updPort n (fun p =>
    { p with config := { p.config with enabled := NestSet.has mask n } })) s

/-- Each enabled nest with signal present goes to TRAINING (R60). -/
def trainAll (s : State) : State := allNests.foldl (fun t n => trainIfReady n t) s

/-- Loading ends with a configuration (R188, R189). -/
def endLoading (c : Configuration) (s : State) : State :=
  let s1 := applyEnable c.enable s
  trainAll { s1 with
    phase := .running,
    uplink := { s1.uplink with mac := c.mac, allow := c.allow, linkUp := s1.phyUp },
    mgmt := { s1.mgmt with fromFlash := c.fromFlash } }

/-- LOADING_END (R188). -/
def execLoadingEnd (flash : Option (List Byte)) (s : State) : Host.Outcome State Fault Refusal :=
  takesPlace (s.phase = .loading) s (endLoading (configurationOf s.mgmt.strap flash) s)

/-! ### The restart -/

/-- What the restart clears and keeps (R187 and each block's own rule), before the links train. -/
def restartState (s : State) : State :=
  { s with
    uplink := s.uplink.cleared,
    dispatcher := Dispatcher.initial,
    streams := initialStreams,
    table := StepTable.initial,
    payload := PayloadStore.initial,
    ports := mapTable (fun p => NestPort.initial p.config) s.ports,
    judge := { s.judge with
      profiles := mapTable (fun p => { p with pins := 0 }) s.judge.profiles, records := initialRecords },
    coalesce := Coalescing.initial,
    retire := Retire.initial,
    lot := Lot.initial,
    notice := NoticeUnit.initial,
    mgmt := { s.mgmt with counters := Globals.zero, time := 0 } }

/-- RESTART_EVENT (R187): due once the RESTART response has been sent; the links then train (R60). -/
def execRestartEvent (s : State) : Host.Outcome State Fault Refusal :=
  takesPlace (s.running && s.dispatcher.restart = .due) s (trainAll (restartState s))

/-- TIME_SINCE_START_TICK (R181): saturating; no time counts while the reset pin is held. -/
def execTimeSinceStartTick (s : State) : Host.Outcome State Fault Refusal :=
  takesPlace (s.phase ≠ .held) s { s with mgmt := { s.mgmt with time := satInc s.mgmt.time } }

end Sys2Proof.Machine
end

