-- ==== Sys2Proof/Machine/Retirement.lean ====
section
/-! DEFINITION. The Retire Unit (chapter 7): the packing of a report, the start of a retirement, the placing of
its segments and its end. -/

namespace Sys2Proof.Machine

/-! ### Report segments -/

/-- The size of a variant record: 10 bytes, and the payload of a variant with a cell (R141). -/
def variantSize (v : Variant) : Nat := 10 + (if v.cell.isSome then v.length else 0)

/-- Variants packed into segments, in index order (R142): each joins the segment last opened if its body
stays within 1472 bytes, and otherwise opens the next. `cur` is the segment open, newest first, of `size`
bytes. -/
def packVariants : List Variant → List Variant → Nat → List (List Variant)
  | [], [], _ => []
  | [], c :: cs, _ => [(c :: cs).reverse]
  | v :: vs, [], _ => packVariants vs [v] (variantSize v)
  | v :: vs, c :: cs, size =>
    if size + variantSize v ≤ Config.segmentPayload then
      packVariants vs (v :: c :: cs) (size + variantSize v)
    else (c :: cs).reverse :: packVariants vs [v] (variantSize v)

/-- The variant segments of a variant list (R142). -/
def variantSegments (vs : List Variant) : List (List Variant) := packVariants vs [] 0

/-- The segment count of an entry (R132). -/
def segmentCount (e : StepEntry) : Nat := 1 + (variantSegments e.variants).length

/-- The variant record of variant `v` with index `i` (R141). -/
def variantRecord (s : State) (i : Nat) (v : Variant) : VariantRecord :=
  { index := i, truncated := v.truncated, digest := v.digest, length := v.length, nests := v.nests,
    payload := match v.cell with
      | some c => s.coalesce.cells[c.val]
      | none => [] }

/-- One nest record (R140, R107). -/
def nestRecord (s : State) (e : EntryId) (n : Nest) : NestRecord :=
  let r := s.record e n
  { nest := n, outcome := r.outcome, runs := r.runs, variant := r.variant,
    measures := r.slots.toList.map (fun x => { verdict := x.verdict, sat := x.sat, value := x.value }) }

/-- The nest records of an entry, in ascending nest order (R140). -/
def nestRecords (s : State) (e : EntryId) : List NestRecord :=
  (NestSet.toList (s.entry e).target).map (nestRecord s e)

/-- The nine outcome counts (R139). -/
def outcomeCounts (s : State) (e : EntryId) : List Nat :=
  copyOutcomes.map (fun o =>
    (NestSet.toList (s.entry e).target).countP (fun n => (s.record e n).outcome = some o))

/-- The report header of entry `e` (R138), its figures as they stand in `s` (R21, R124, R134). -/
def reportHeader (s : State) (e : EntryId) : ReportHeader :=
  let x := s.entry e
  { stream := x.stream, stepNumber := x.stepNumber, lotId := s.lot.id, clamped := x.clamped,
    aborted := x.aborted, capture := x.capture, targetCount := NestSet.size x.target,
    outcomeCounts := outcomeCounts s e, variantCount := x.variants.length,
    segmentCount := segmentCount x, freeEntries := freeEntries s, freeBlocks := s.payload.free.length,
    freeCells := s.coalesce.free.length, expected := (s.stream x.stream).expected }

/-! ### The start -/

/-- The Lot Controller has taken every outcome delivered for entry `e`, the stop failure that goes with it
included (R46 item 5, R133; log entry 24). -/
def outcomesTaken (s : State) (e : EntryId) : Bool :=
  s.lot.nests.toList.all (fun l =>
    l.outcomes.all (fun o => o.1 ≠ e) && l.events.all (fun x => x ≠ .stopFailure e))

/-- The candidate whose retirement can begin (R133): room for all its segments, and its outcomes taken. It does
not wait for a CLOSING head of the entry, which R129 lets stand (log entry 32). -/
def retirable (s : State) : Option EntryId :=
  match s.retire.candidate with
  | some e =>
    if s.running ∧ s.retire.progress = none ∧ segmentCount (s.entry e) ≤ reportRoom s
        ∧ outcomesTaken s e then some e else none
  | none => none

/-- The retirement of entry `e` begins (R134). -/
def startRetirement (e : EntryId) (s : State) : State :=
  let s1 := s.updEntry e (fun x => { x with state := .reporting })
  (invalidateWays e s1).updRetire (fun r =>
    { r with candidate := none,
             progress := some { entry := e, next := 0, header := reportHeader s1 e,
                                records := nestRecords s1 e } })

/-- RETIREMENT_START (R134). -/
def execRetirementStart (s : State) : Host.Outcome State Fault Refusal :=
  match retirable s with
  | some e => .next (startRetirement e s)
  | none => .next s

/-! ### The segments and the end -/

/-- The index of the first variant of variant segment `k`, counted from 0. -/
def firstIndex (segs : List (List Variant)) (k : Nat) : Nat := ((segs.take k).map List.length).sum

/-- The variants that the next segment of a retirement carries: none in segment 0 (R135, R142). -/
def nextVariants (s : State) (r : Retirement) : List Variant :=
  if r.next = 0 then [] else (variantSegments (s.entry r.entry).variants).getD (r.next - 1) []

/-- The body of the next segment of a retirement (R142). -/
def nextBody (s : State) (r : Retirement) : SegmentBody :=
  if r.next = 0 then .head r.header r.records
  else
    .variants ((nextVariants s r).mapIdx (fun i v =>
      variantRecord s (firstIndex (variantSegments (s.entry r.entry).variants) (r.next - 1) + i) v))

/-- The next segment is the last of its report (R143). -/
def isLastSegment (r : Retirement) : Bool := r.header.segmentCount ≤ r.next + 1

/-- The next segment of a retirement (R143). -/
def nextSegment (s : State) (r : Retirement) : SegmentMsg :=
  { stream := r.header.stream, stepNumber := r.header.stepNumber, index := r.next, last := isLastSegment r,
    body := nextBody s r }

/-- A DRAINING stream whose retire list is empty returns to OPEN, its expected number unchanged (R3). -/
def reopenIfEmpty (st : StreamId) (s : State) : State :=
  if s.retireList st = [] then s.updStream st (fun x => { x with draining := false }) else s

/-- Entry `e` has no copies left in any queue (R43): a copy still CLOSING is one of no entry from then on (log
entry 32). -/
def releaseCopies (e : EntryId) (s : State) : State :=
  { s with ports := mapTable (fun p => { p with queue := p.queue.map (Copy.release e) }) s.ports }

/-- The end of the retirement of entry `e` (R136). -/
def endRetirement (e : EntryId) (s : State) : State :=
  let x := s.entry e
  let st := x.stream
  let s1 := if x.profile = 0 then s else s.updProfile x.profile (fun p => { p with pins := p.pins - 1 })
  let s2 := s1.updRetire (fun r => { r with lists := upd r.lists st List.tail })
  let s3 := releaseCopies e (s2.updEntry e (fun y =>
    { y with state := .free, variants := [], clamped := false, aborted := false }))
  let s4 := s3.updCounters (fun c => { c with reports := satInc c.reports })
  let s5 := s4.updRetire (fun r => { r with rotation := st + 1, progress := none })
  chooseCandidate (reopenIfEmpty st s5)

/-- The next segment is placed at the tail of the REPORT queue and the cells of its variants are returned
(R135); after the last, the retirement ends (R136). -/
def placeSegment (r : Retirement) (s : State) : State :=
  let s1 := { s with uplink := { s.uplink with report := s.uplink.report ++ [nextSegment s r] } }
  let s2 := freeCells (nextVariants s r) s1
  if isLastSegment r then endRetirement r.entry s2
  else s2.updRetire (fun x => { x with progress := some { r with next := r.next + 1 } })

/-- SEGMENT_PLACED (R135). -/
def execSegmentPlaced (s : State) : Host.Outcome State Fault Refusal :=
  match s.retire.progress with
  | some r => takesPlace s.running s (placeSegment r s)
  | none => .next s

end Sys2Proof.Machine
end

