-- ==== Sys2Proof/Machine/UplinkPort.lean ====
section
/-! DEFINITION. The Uplink Port (10.1, 10.3): taking frames in, and the transmitter. -/

namespace Sys2Proof.Machine

/-- What the checks of R173 make of a frame: dropped as malformed or filtered, or passed with its source and
message. -/
inductive RxCheck where
  | malformed
  | filtered
  | passed (f : RxFrame)
  deriving DecidableEq, Repr

/-- Check 5 of R173 over a frame's payload: the bytes after the message length are ignored. -/
def checkHeader (src : MacAddr) (payload : List Byte) : RxCheck :=
  let len := leAt payload 2 2
  if payload.length < 6 ∨ byteAt payload 0 ≠ 1#8
      ∨ (classOf payload ≠ classStep ∧ classOf payload ≠ classRequest)
      ∨ len < 6 ∨ payload.length < len then .malformed
  else .passed { src := src, msg := payload.take len }

/-- The source passes the allow list (R173 check 4, R174). -/
def allowed (u : Uplink) (src : MacAddr) : Bool :=
  let valid := u.allow.toList.filter (fun a => a.valid)
  valid.isEmpty || valid.any (fun a => a.addr = src)

/-- The checks of R173, in order. -/
def checkFrame (u : Uplink) (frame : List Byte) : RxCheck :=
  let covered := frame.take (frame.length - 4)
  let dest : MacAddr := BitVec.ofNat 48 (beNat (frame.take 6))
  let src : MacAddr := BitVec.ofNat 48 (beNat ((frame.drop 6).take 6))
  if frame.length < 64 ∨ 1518 < frame.length ∨ frame.drop (frame.length - 4) ≠ fcsBytes covered then
    .malformed
  else if dest ≠ u.mac ∧ dest ≠ Config.broadcast then .filtered
  else if (frame.drop 12).take 2 ≠ beBytes 2 Config.etherType.toNat then .filtered
  else if ¬allowed u src then .filtered
  else checkHeader src (covered.drop 14)

/-- A frame from the PHY taken by the port (R173, R175). -/
def takeFrame (frame : List Byte) (s : State) : State :=
  match checkFrame s.uplink frame with
  | .malformed => s.updCounters (fun c => { c with rxMalformed := satInc c.rxMalformed })
  | .filtered => s.updCounters (fun c => { c with rxFilter := satInc c.rxFilter })
  | .passed f =>
    if s.uplink.rx.length < Config.rxCapacity then
      { s.updCounters (fun c => { c with rxAccepted := satInc c.rxAccepted }) with
        uplink := { s.uplink with rx := s.uplink.rx ++ [f] } }
    else s.updCounters (fun c => { c with rxOverflow := satInc c.rxOverflow })

/-- FRAME_RECEIVED (R173). No frame is received while the uplink is DOWN (R180), and one that comes while
the loader runs is dropped uncounted (R175). -/
def execFrameReceived (frame : List Byte) (s : State) : Host.Outcome State Fault Refusal :=
  takesPlace (s.running && s.uplink.linkUp) s (takeFrame frame s)

/-- The frame the idle transmitter takes (R180): the head of the first non-empty class in the order
RESPONSE, NOTICE, REPORT, CHATTER, addressed by R176. -/
def nextFrame (u : Uplink) : Option Sending :=
  match u.response, u.notice, u.report, u.chatter with
  | f :: _, _, _, _ => some { cls := .response, frame := ethernetFrame f.dest u.mac f.bytes }
  | [], m :: _, _, _ => some { cls := .notice, frame := ethernetFrame u.reportAddr u.mac m.bytes }
  | [], [], g :: _, _ => some { cls := .report, frame := ethernetFrame u.reportAddr u.mac g.bytes }
  | [], [], [], m :: _ => some { cls := .chatter, frame := ethernetFrame u.reportAddr u.mac m.bytes }
  | [], [], [], [] => none

/-- UPLINK_TRANSMIT_START (R180). -/
def execUplinkTransmitStart (s : State) : Host.Outcome State Fault Refusal :=
  takesPlace (s.running && s.uplink.linkUp && s.uplink.tx.isNone) s
    { s with uplink := { s.uplink with tx := nextFrame s.uplink } }

/-- The head frame of the RESPONSE queue is the RESTART response (R187). -/
def sendsRestart (u : Uplink) : Bool :=
  match u.response with
  | .response m :: _ => m.status = .ok && requestCodeOf m.req.code.toNat = some .restart
  | .refusal _ _ :: _ => false
  | [] => false

/-- The frame of class `c` being sent leaves its queue (R180). -/
def dropSent (c : TxClass) (u : Uplink) : Uplink :=
  match c with
  | .response => { u with response := u.response.tail, tx := none }
  | .notice => { u with notice := u.notice.tail, tx := none }
  | .report => { u with report := u.report.tail, tx := none }
  | .chatter => { u with chatter := u.chatter.tail, tx := none }

/-- A frame being sent leaves its queue, sent or lost (R180); with the RESTART response the restart is due
(R187). -/
def endSending (x : Sending) (s : State) : State :=
  { s with
    uplink := dropSent x.cls s.uplink,
    dispatcher := { s.dispatcher with
      restart := if x.cls = .response ∧ sendsRestart s.uplink ∧ s.dispatcher.restart = .waiting then .due
        else s.dispatcher.restart } }

/-- UPLINK_FRAME_SENT (R180). -/
def execUplinkFrameSent (s : State) : Host.Outcome State Fault Refusal :=
  match s.uplink.tx with
  | some x => takesPlace s.running s (endSending x s)
  | none => .next s

/-- The uplink status becomes DOWN: a frame being sent is lost and leaves its queue as if sent (R180). -/
def uplinkDown (s : State) : State :=
  let s1 := match s.uplink.tx with
    | some x => endSending x s
    | none => s
  { s1 with uplink := { s1.uplink with linkUp := false } }

/-- UPLINK_LINK_CHANGE (R180): the PHY's level is seen at once, and while the part runs it is the uplink link
status; after a reset the status is read when loading has ended. -/
def execUplinkLinkChange (up : Bool) (s : State) : Host.Outcome State Fault Refusal :=
  let s1 := { s with phyUp := up }
  .next (if s.running then
      (if up then { s1 with uplink := { s1.uplink with linkUp := true } } else uplinkDown s1)
    else s1)

end Sys2Proof.Machine
end

