-- ==== Sys2Proof/Machine/Dispatch.lean ====
section
/-! DEFINITION. One arm for each command: the meaning of each row of the table. -/

namespace Sys2Proof.Machine

/-- The effect of a command on everything but the queue of commands. -/
def exec (i : Instr) (s : State) : Host.Outcome State Fault Refusal :=
  match i with
  | .powerOn strap => Sys2Proof.Machine.execPowerOn strap s
  | .resetPin strap => Sys2Proof.Machine.execResetPin strap s
  | .loadingEnd flash => Sys2Proof.Machine.execLoadingEnd flash s
  | .frameReceived frame => Sys2Proof.Machine.execFrameReceived frame s
  | .requestWaiting => Sys2Proof.Machine.execRequestWaiting s
  | .step => Sys2Proof.Machine.execStep s
  | .requestUnknownCode => Sys2Proof.Machine.execRequestUnknownCode s
  | .describe => Sys2Proof.Machine.execDescribe s
  | .putRowsGroup => Sys2Proof.Machine.execPutRowsGroup s
  | .putRowsProfile => Sys2Proof.Machine.execPutRowsProfile s
  | .putRowsCodeSet => Sys2Proof.Machine.execPutRowsCodeSet s
  | .putRowsNestConfig => Sys2Proof.Machine.execPutRowsNestConfig s
  | .putRowsAllowList => Sys2Proof.Machine.execPutRowsAllowList s
  | .putRowsSettings => Sys2Proof.Machine.execPutRowsSettings s
  | .getRows => Sys2Proof.Machine.execGetRows s
  | .getCounters => Sys2Proof.Machine.execGetCounters s
  | .getCountersClear => Sys2Proof.Machine.execGetCountersClear s
  | .getState => Sys2Proof.Machine.execGetState s
  | .openLot => Sys2Proof.Machine.execOpenLot s
  | .closeLot => Sys2Proof.Machine.execCloseLot s
  | .abortStream => Sys2Proof.Machine.execAbortStream s
  | .streamHaltAndVoid n => Sys2Proof.Machine.execStreamHaltAndVoid n s
  | .nestActionHalt => Sys2Proof.Machine.execNestActionHalt s
  | .nestActionCycle => Sys2Proof.Machine.execNestActionCycle s
  | .nestActionExclude => Sys2Proof.Machine.execNestActionExclude s
  | .nestActionInclude => Sys2Proof.Machine.execNestActionInclude s
  | .nestActionRetrain => Sys2Proof.Machine.execNestActionRetrain s
  | .releaseAttention => Sys2Proof.Machine.execReleaseAttention s
  | .restart => Sys2Proof.Machine.execRestart s
  | .restartEvent => Sys2Proof.Machine.execRestartEvent s
  | .uplinkTransmitStart => Sys2Proof.Machine.execUplinkTransmitStart s
  | .uplinkFrameSent => Sys2Proof.Machine.execUplinkFrameSent s
  | .uplinkLinkChange up => Sys2Proof.Machine.execUplinkLinkChange up s
  | .laneSignalPresent n => Sys2Proof.Machine.execLaneSignalPresent n s
  | .laneSignalLost n => Sys2Proof.Machine.execLaneSignalLost n s
  | .greetRepeat n => Sys2Proof.Machine.execGreetRepeat n s
  | .frameLeavesLane n => Sys2Proof.Machine.execFrameLeavesLane n s
  | .badFrame n bytes => Sys2Proof.Machine.execBadFrame n bytes s
  | .welcome n adapterId presence => Sys2Proof.Machine.execWelcome n adapterId presence s
  | .presence n presence => Sys2Proof.Machine.execPresence n presence s
  | .answer n tag status payload => Sys2Proof.Machine.execAnswer n tag status payload s
  | .stopped n tag => Sys2Proof.Machine.execStopped n tag s
  | .note n code => Sys2Proof.Machine.execNote n code s
  | .chat n payload => Sys2Proof.Machine.execChat n payload s
  | .startHead n => Sys2Proof.Machine.execStartHead n s
  | .deadlineExpiry n => Sys2Proof.Machine.execDeadlineExpiry n s
  | .gapExpiry n => Sys2Proof.Machine.execGapExpiry n s
  | .graceExpiry n => Sys2Proof.Machine.execGraceExpiry n s
  | .stopFailure n => Sys2Proof.Machine.execStopFailure n s
  | .absence n => Sys2Proof.Machine.execAbsence n s
  | .stall n => Sys2Proof.Machine.execStall n s
  | .voidInstruction n => Sys2Proof.Machine.execVoidInstruction n s
  | .outcomeDelivered n => Sys2Proof.Machine.execOutcomeDelivered n s
  | .retirementStart => Sys2Proof.Machine.execRetirementStart s
  | .segmentPlaced => Sys2Proof.Machine.execSegmentPlaced s
  | .noticeBuild => Sys2Proof.Machine.execNoticeBuild s
  | .throttleExpiry => Sys2Proof.Machine.execThrottleExpiry s
  | .timeSinceStartTick => Sys2Proof.Machine.execTimeSinceStartTick s
  | .resetPinAssertion => Sys2Proof.Machine.execResetPinAssertion s

end Sys2Proof.Machine
end

