-- ==== Sys2Proof/Safety.lean ====
section
/-! DEFINITION. What a sound state of the part is: eight invariants, each a rule of the manual that every
command keeps, and the words that statements about commands are made of. -/

namespace Sys2Proof.Machine

/-! ### The nest ports (R40, R43, R63, R64, R68, R69) -/

/-- The copies of a queue are all QUEUED, and no run of them has been sent (R40). -/
def allQueued (q : List Copy) : Bool := q.all (fun c => c.state = .queued && c.runs = 0)

/-- The head of the queue is in copy state `x` and every copy behind it is QUEUED (R40). -/
def headIs (x : CopyState) (q : List Copy) : Bool :=
  match q with
  | c :: rest => c.state = x && allQueued rest
  | [] => false

/-- The queue fits the service state (R69), and the current tag is that of the last RUN (R66). -/
def serviceFits (p : NestPort) : Bool :=
  match p.service with
  | .idle => allQueued p.queue
  | .waiting tag => tag = p.runTag && headIs .inService p.queue
  | .gap => headIs .inService p.queue
  | .halting _ => headIs .closing p.queue
  | .stalled => allQueued p.queue

/-- A timer that is not stopped belongs to the service state of its own (R68). -/
def timersFit (p : NestPort) : Bool :=
  match p.service with
  | .waiting _ => p.gap = .stopped && p.grace = .stopped
  | .gap => p.deadline = .stopped && p.grace = .stopped
  | .halting _ => p.deadline = .stopped && p.gap = .stopped
  | .idle | .stalled => p.deadline = .stopped && p.gap = .stopped && p.grace = .stopped

/-- A nest that does not serve holds no copy and is IDLE (R70, R79); a phone is present on an UP link
alone (R63); a DOWN link has nothing to send (R55), and GREETs are timed in TRAINING alone (R61). -/
def linkFits (p : NestPort) : Bool :=
  (p.link = .up && p.presence = .present || p.queue = [] && p.service = .idle) &&
  (p.presence = .empty || p.link = .up) &&
  (p.link ≠ .down || p.backlog = []) &&
  (p.link = .training || p.greet = .stopped)

/-- A nest port as the rules keep it: at most 8 copies (R43) and a halt grace of 1..1000 ms (R64) besides. -/
def portOk (p : NestPort) : Bool :=
  p.queue.length ≤ Config.queueCapacity && serviceFits p && timersFit p && linkFits p &&
  (0 < p.config.haltGrace && p.config.haltGrace ≤ Config.maxGrace)

/-- Every nest port is as the rules keep it. -/
def PortsOk (s : State) : Prop := ∀ n : Nest, portOk (s.port n) = true

/-! ### The uplink's queues (R175, R177, R179) -/

/-- The responses owed to requests passed and not yet answered. -/
def owedResponses (s : State) : Nat := if s.dispatcher.task.isSome then 1 else 0

/-- The segments still to be placed of the retirement in progress. -/
def owedSegments (s : State) : Nat :=
  match s.retire.progress with
  | some r => r.header.segmentCount - r.next
  | none => 0

/-- No queue of the uplink holds more than its capacity, the responses and segments already owed counted
in (R131, R175, R177, R179). -/
def QueuesOk (s : State) : Prop :=
  s.uplink.rx.length ≤ Config.rxCapacity ∧
  s.uplink.response.length + owedResponses s ≤ Config.responseCapacity ∧
  s.uplink.notice.length ≤ Config.noticeCapacity ∧
  s.uplink.report.length + owedSegments s ≤ Config.reportCapacity ∧
  s.uplink.chatter.length ≤ Config.chatterCapacity ∧
  (∀ r, s.retire.progress = some r → r.next < r.header.segmentCount)

/-! ### The Notice Unit (R161, R162, R166, R168) -/

/-- An attention slot as R168 and R169 keep it: an EMPTY slot has code 0 and clear flags, a PENDING one
has missed no NOTE. -/
def slotOk (x : Slot) : Bool :=
  match x.state with
  | .empty => x.code = 0#16 && !x.superseded && !x.missed
  | .pending => !x.missed
  | .held => true

/-- LINK and STANDING are set exactly while their nest sets hold a nest (R162, R166), ATTENTION exactly
while a slot is PENDING (R161), and every slot is as R168 keeps it. -/
def NoticeOk (s : State) : Prop :=
  (CauseSet.has s.notice.causes .link = true ↔ s.notice.links ≠ 0#32) ∧
  (CauseSet.has s.notice.causes .standing = true ↔ s.notice.standings ≠ 0#32) ∧
  (CauseSet.has s.notice.causes .attention = true ↔ ∃ n : Nest, s.notice.slots[n.val].state = .pending) ∧
  ∀ n : Nest, slotOk s.notice.slots[n.val] = true

/-! ### The tables written by PUT_ROWS (R84, R86, R174, R185) -/

/-- A Profile row as R84 and R86 keep it: every slot of a defined row passes the slot checks, and an
undefined row holds slots with mode OFF and every other field 0. -/
def profileOk (p : ProfileRow) : Bool :=
  if p.defined then p.slots.toList.all MeasureSlot.valid else p.slots = ProfileRow.empty.slots

/-- An allow list entry as R174 keeps it. -/
def allowOk (a : AllowEntry) : Bool := if a.valid then !isGroupAddress a.addr else a.addr = 0#48

/-- The Settings row as R185 keeps it. -/
def settingsOk (c : Settings) : Bool :=
  c.throttle < 65536 && c.payloadLow ≤ Config.maxThreshold && c.replyLow ≤ Config.maxThreshold

/-- Every row of the Profile, Allow List and Settings tables passes the checks of its table; row 0 of the
Profile Table, which is no row of it, is undefined (R84). -/
def TablesOk (s : State) : Prop :=
  (∀ r : Fin 64, profileOk (s.profile r) = true) ∧ (s.profile 0).defined = false ∧
  (∀ i : Fin 4, allowOk s.uplink.allow[i.val] = true) ∧ settingsOk s.mgmt.settings = true

/-! ### Entries, blocks and retire lists (R15, R19, R129, R130, R133) -/

/-- An entry holds blocks only while LIVE, and is LIVE exactly while copies of it are not final (R15,
R19). -/
def entryOk (e : StepEntry) : Bool :=
  (e.state = .live && 0 < e.pending) || (e.state ≠ .live && e.pending = 0 && e.blocks = [])

/-- The blocks held by step entries, entry by entry. -/
def heldBlocks (s : State) : List BlockId := s.table.entries.toList.flatMap (fun e => e.blocks)

/-- The Step Table, the Payload Store and the Retire Unit agree: free and held blocks are all 512, each
once (R18, R19); reference and pending counts are equal (R19); each retire list holds the entries of its
stream that are not FREE, each once (R130); a candidate is COMPLETE and heads its list, a retiring entry is
REPORTING and heads its list, and the two do not stand together (R133, R134); and with neither, no list has
a COMPLETE head (R133). -/
def StoresOk (s : State) : Prop :=
  (s.payload.free ++ heldBlocks s).Perm (List.finRange 512) ∧
  (∀ e : EntryId, entryOk (s.entry e) = true ∧ s.payload.refs[e.val] = (s.entry e).pending) ∧
  (∀ (st : StreamId) (e : EntryId),
    e ∈ s.retireList st ↔ (s.entry e).state ≠ .free ∧ (s.entry e).stream = st) ∧
  (∀ st : StreamId, (s.retireList st).Nodup) ∧
  (∀ e, s.retire.candidate = some e →
    (s.entry e).state = .complete ∧ (s.retireList (s.entry e).stream).head? = some e ∧
    s.retire.progress = none) ∧
  (∀ r, s.retire.progress = some r →
    (s.entry r.entry).state = .reporting ∧
    (s.retireList (s.entry r.entry).stream).head? = some r.entry) ∧
  (s.retire.candidate = none → s.retire.progress = none →
    ∀ st : StreamId, completeHead s st = none)

/-! ### Copies, pins and variants (R40, R43, R46, R87, R116, R123, R124) -/

/-- How many copies of `cs` are of entry `e`. -/
def copiesOf (cs : List Copy) (e : EntryId) : Nat := cs.countP (fun c => c.entry = e)

/-- The copies whose outcome is not set: every one that is not CLOSING (R40). -/
def unended (q : List Copy) : List Copy := q.filter (fun c => c.state ≠ .closing)

/-- The copies and the Step Table agree: a queue holds at most one copy of any entry, and none of a FREE one, a
CLOSING copy that has outlived its entry being a copy of none (R43; log entry 32); a copy has the stream and the
step number of its entry (R40); and the pending count of an entry is the number of its copies, over all queues,
whose outcome is not set (R12, R46). -/
def CopiesOk (s : State) : Prop :=
  (∀ n : Nest, (((s.port n).queue.filter (fun c => !c.freed)).map (fun c => c.entry)).Nodup) ∧
  (∀ n : Nest, ∀ c ∈ (s.port n).queue,
    if c.freed then c.state = .closing
    else (s.entry c.entry).state ≠ .free ∧ c.stream = (s.entry c.entry).stream ∧
      c.stepNumber = (s.entry c.entry).stepNumber) ∧
  ∀ e : EntryId,
    (s.entry e).pending = (allNests.map (fun n => copiesOf (unended (s.port n).queue) e)).sum

/-- The pin count of a Profile row is the number of step entries that name it and are not FREE (R87). -/
def PinsOk (s : State) : Prop :=
  ∀ r : Fin 64, r ≠ 0 →
    (s.profile r).pins = (List.finRange 64).countP (fun e => (s.entry e).state ≠ .free && (s.entry e).profile = r)

/-- The variants of entry `e` that still hold their cells: all of them, but for those that the retirement in
progress has placed in a segment (R124, R135). -/
def holdingVariants (s : State) (e : EntryId) : List Variant :=
  match s.retire.progress with
  | some r =>
    if r.entry = e then ((variantSegments (s.entry e).variants).drop (r.next - 1)).flatten
    else (s.entry e).variants
  | none => (s.entry e).variants

/-- The cells held by variants, entry by entry. -/
def heldCells (s : State) : List CellId :=
  (List.finRange 64).flatMap (fun e => (holdingVariants s e).filterMap (fun v => v.cell))

/-- The Coalescing Unit and the Step Table agree: free and held cells are all 512, each once (R123, R124); a FREE
entry has no variants (R127, R136); a retiring entry's report has the segments its header says (R132); and way `w`
of set `i` holds exactly the variant, of an entry that is LIVE or COMPLETE, that is RESIDENT there, with its
digest and length, in the set that R117 gives (R112, R116, R127). -/
def VariantsOk (s : State) : Prop :=
  (s.coalesce.free ++ heldCells s).Perm (List.finRange 512) ∧
  (∀ e : EntryId, (s.entry e).state = .free → (s.entry e).variants = []) ∧
  (∀ r, s.retire.progress = some r → r.header.segmentCount = segmentCount (s.entry r.entry)) ∧
  (∀ (i : Fin 256) (w : Fin 2) (x : Way), (s.variantSet i).ways[w.val] = some x →
    ((s.entry x.entry).state = .live ∨ (s.entry x.entry).state = .complete) ∧ i = setIndex x.entry x.digest ∧
    ∃ v, (s.entry x.entry).variants[x.index]? = some v ∧ v.residence = .resident i w ∧ v.digest = x.digest ∧
      v.length = x.length) ∧
  ∀ (e : EntryId) (k : Nat) (v : Variant) (i : Fin 256) (w : Fin 2),
    (s.entry e).state = .live ∨ (s.entry e).state = .complete → (s.entry e).variants[k]? = some v →
    v.residence = .resident i w →
    (s.variantSet i).ways[w.val] = some { entry := e, digest := v.digest, length := v.length, index := k }

/-! ### Words for statements about commands -/

/-- The Dispatcher can take the message of `f` (R177, R187). -/
def AtDispatcher (s : State) (f : RxFrame) : Prop :=
  s.phase = .running ∧ s.dispatcher.task = none ∧ s.dispatcher.restart = .none ∧
  s.uplink.rx.head? = some f

/-- The rows that take the message at the head of the receive buffer (R177): STEP, REQUEST_WAITING and those of the
requests. -/
def messageRows : List Instr :=
  [.step, .requestWaiting, .requestUnknownCode, .describe, .putRowsGroup, .putRowsProfile, .putRowsCodeSet,
   .putRowsNestConfig, .putRowsAllowList, .putRowsSettings, .getRows, .getCounters, .getCountersClear, .getState,
   .openLot, .closeLot, .abortStream, .nestActionHalt, .nestActionCycle, .nestActionExclude, .nestActionInclude,
   .nestActionRetrain, .releaseAttention, .restart]

/-- The message of `f` is a REQUEST of code `c` with arguments `args`, and the RESPONSE queue has room for
its answer (R177, 11.3). -/
def Asked (s : State) (f : RxFrame) (c : RequestCode) (args : List Byte) : Prop :=
  AtDispatcher s f ∧ s.uplink.response.length < 8 ∧ isRequestOf c f.msg = true ∧ argsOf f.msg = args

/-- What every message passed leaves besides its own effect (R176, R177): the report address is its
source, the Dispatcher holds nothing waiting, and its frame has left the receive buffer. -/
def dispatched (f : RxFrame) (s : State) : State :=
  { s with
    uplink := { s.uplink with reportAddr := f.src, rx := s.uplink.rx.tail },
    dispatcher := { s.dispatcher with waiting := false } }

/-- What every request answered leaves besides its own effect: `dispatched`, and one response to its
source at the tail of the RESPONSE queue, with the tag, id and code as read (R176, R181, R195). -/
def answered (f : RxFrame) (status : Status) (result : List Byte) (s : State) : State :=
  { dispatched f s with
    uplink := { (dispatched f s).uplink with
      response := s.uplink.response ++
        [.response { req := { dest := f.src, tag := BitVec.ofNat 16 (leAt f.msg 4 2),
                              id := BitVec.ofNat 32 (leAt f.msg 6 4), code := byteAt f.msg 10 },
                     status := status, result := result }] } }

/-- Only the port of nest `n` differs between `s` and `t`. -/
def OnlyPort (n : Nest) (s t : State) : Prop :=
  t = { s with ports := t.ports } ∧ ∀ m : Nest, m ≠ n → t.port m = s.port m

/-- Only the port of nest `n`, the Lot Controller's record of nest `n`, the Notice Unit's causes and nest
sets, and what the ending of copies reaches (R46) differ between `s` and `t`: the Judgement Store, the
Payload Store, the Step Table's entries and the Retire Unit's candidate. -/
def OnlyNest (n : Nest) (s t : State) : Prop :=
  t = { s with
        ports := t.ports, lot := { s.lot with nests := t.lot.nests },
        judge := { s.judge with records := t.judge.records },
        payload := { s.payload with free := t.payload.free, refs := t.payload.refs },
        table := { s.table with entries := t.table.entries },
        retire := { s.retire with candidate := t.retire.candidate },
        notice := { s.notice with causes := t.notice.causes, links := t.notice.links,
                                  standings := t.notice.standings } } ∧
  (∀ m : Nest, m ≠ n → t.port m = s.port m ∧ t.lotNest m = s.lotNest m) ∧
  ∀ (e : EntryId) (m : Nest), m ≠ n → t.record e m = s.record e m

/-- The links of the nests that are `ready` train (R60, R61, R62): each sends a GREET, and LINK is raised
for it; nothing else changes. -/
def Trained (ready : Nest → Bool) (s t : State) : Prop :=
  t = { s with
        ports := t.ports,
        notice := { s.notice with
          links := t.notice.links,
          causes := if allNests.any ready then s.notice.causes ||| 2#7 else s.notice.causes } } ∧
  (∀ n : Nest, t.port n =
    if ready n then
      { s.port n with link := .training, backlog := (s.port n).backlog ++ [.greet n], greet := .armed }
    else s.port n) ∧
  ∀ n : Nest, NestSet.has t.notice.links n = (NestSet.has s.notice.links n || ready n)

/-- A 40-byte flash image is good (R188). -/
def GoodImage (image : List Byte) : Prop :=
  image.length = 40 ∧
  ((List.range 20).map (fun i =>
    (byteAt image (2 * i)).toNat + 256 * (byteAt image (2 * i + 1)).toNat)).sum % 65536 = 0xA5A5 ∧
  (byteAt image 0).getLsbD 0 = false

/-- The values that power-on, the reset pin and RESTART all leave, before any link trains (R1, R17, R18, R19,
R23, R43, R55, R60, R61, R63, R66, R69, R74, R82, R84, R90, R116, R123, R130, R133, R145, R160, R168, R175,
R176, R178, R179, R181, R186), with nothing under way between the nest ports and the Lot Controller (R54). -/
def ClearedByReset (t : State) : Prop :=
  (∀ st : StreamId, t.stream st = { expected := 0, draining := false }) ∧
  (∀ e : EntryId, (t.entry e).state = .free ∧ (t.entry e).pending = 0 ∧ (t.entry e).variants = [] ∧
    (t.entry e).clamped = false ∧ (t.entry e).aborted = false ∧ t.payload.refs[e.val] = 0) ∧
  t.table.alloc = 0 ∧ t.payload.free = List.finRange 512 ∧
  (t.lot.isOpen = false ∧ t.lot.id = 0 ∧ ∀ n : Nest, (t.lotNest n).standing = .none ∧
    (t.lotNest n).passes = 0 ∧ (t.lotNest n).marginals = 0 ∧ (t.lotNest n).failures = 0 ∧
    (t.lotNest n).outcomes = [] ∧ (t.lotNest n).events = [] ∧ (t.lotNest n).voids = []) ∧
  (∀ n : Nest, (t.port n).link = .down ∧ (t.port n).greet = .stopped ∧ (t.port n).backlog = [] ∧
    (t.port n).presence = .empty ∧ (t.port n).adapterId = 0 ∧ (t.port n).runTag = 0 ∧
    (t.port n).service = .idle ∧ (t.port n).stopHold = false ∧ (t.port n).deadline = .stopped ∧
    (t.port n).gap = .stopped ∧ (t.port n).grace = .stopped ∧ (t.port n).queue = [] ∧
    (t.port n).counters = NestCounters.zero) ∧
  (∀ r : Fin 64, (t.profile r).pins = 0) ∧
  (∀ (e : EntryId) (n : Nest), t.record e n = Record.cleared) ∧
  (∀ i : Fin 256, t.variantSet i = { ways := #v[none, none], lru := 0 }) ∧
  t.coalesce.free = List.finRange 512 ∧
  ((∀ st : StreamId, t.retireList st = []) ∧ t.retire.candidate = none ∧ t.retire.rotation = 0 ∧
    t.retire.progress = none) ∧
  (∀ n : Nest, t.notice.slots[n.val] = { state := .empty, code := 0, superseded := false, missed := false }) ∧
  t.notice.causes = 0#7 ∧ t.notice.links = 0#32 ∧ t.notice.standings = 0#32 ∧
  t.notice.throttle = .stopped ∧ t.notice.serial = 0 ∧
  (t.uplink.reportAddr = 0xFFFFFFFFFFFF#48 ∧ t.uplink.rx = [] ∧ t.uplink.response = [] ∧
    t.uplink.notice = [] ∧ t.uplink.report = [] ∧ t.uplink.chatter = [] ∧ t.uplink.tx = none) ∧
  t.dispatcher = { waiting := false, task := none, restart := .none } ∧
  (∀ c ∈ allCounters t, c = 0#32) ∧ t.mgmt.time = 0

/-- What power-on and the reset pin leave besides: the values that RESTART would keep (R37, R64, R84, R88,
R185), and the Configuration Loader running (R189). -/
def PowerOnValues (t : State) : Prop :=
  ClearedByReset t ∧
  (∀ n : Nest, (t.port n).config.excluded = false ∧ (t.port n).config.chatter = false ∧
    (t.port n).config.haltGrace = 100) ∧
  (∀ g : Fin 64, t.groups[g.val] = 0#32) ∧
  (∀ r : Fin 64, (t.profile r).defined = false ∧ ∀ i : Fin 4, (t.profile r).slots[i.val] = MeasureSlot.zero) ∧
  (∀ r : Fin 64, t.judge.codeSets[r.val] = 0#512) ∧
  t.mgmt.settings = { throttle := 0, payloadLow := 0, replyLow := 0, mask := 127#7 } ∧ t.phase = .loading

/-! ### Profile images and answers -/

/-- Slot `i` of a Profile image reads as `m` (11.1, 11.4, R85). -/
def SlotImage (img : List Byte) (i : Fin 4) (m : MeasureSlot) : Prop :=
  let k := 4 + 26 * i.val
  [Mode.off, .each, .last, .avg, .min, .max, .span, .code][(byteAt img k).toNat]? = some m.mode ∧
  m.position = byteAt img (k + 1) ∧ m.width = byteAt img (k + 2) ∧ m.signed = (byteAt img (k + 3)).getLsbD 0 ∧
  m.gain.toNat = leAt img (k + 4) 2 ∧ m.shift = byteAt img (k + 6) ∧ m.codeSet = byteAt img (k + 7) ∧
  m.window = byteAt img (k + 8) ∧ m.bias.toNat = leAt img (k + 10) 4 ∧ m.low.toNat = leAt img (k + 14) 4 ∧
  m.high.toNat = leAt img (k + 18) 4 ∧ m.guard.toNat = leAt img (k + 22) 4

/-- `b` is row `r` of table `t`, as GET_ROWS returns it (R184, 11.4): its reserved bytes and undefined flag bits 0
(those of a measure slot by log entry 17), and the bytes of a host address in transmission order. -/
def RowImageIs (s : State) (t : Table) (r : Nat) (b : List Byte) : Prop :=
  b.length = t.imageSize ∧ (byteAt b 0).toNat = r ∧
  match t with
  | .group => byteAt b 1 = 0#8 ∧ ∀ g : Fin 64, g.val = r → leAt b 2 4 = s.groups[g.val].toNat
  | .profile => byteAt b 3 = 0#8 ∧ ∀ p : Fin 64, p.val = r →
      byteAt b 1 = (if (s.profile p).defined then 1#8 else 0#8) ∧
      byteAt b 2 = BitVec.ofNat 8 (s.profile p).pins ∧
      ∀ i : Fin 4, SlotImage b i (s.profile p).slots[i.val] ∧ (byteAt b (7 + 26 * i.val)).toNat ≤ 1 ∧
        byteAt b (13 + 26 * i.val) = 0#8
  | .codeSet => byteAt b 1 = 0#8 ∧ ∀ c : Fin 64, c.val = r → ∀ j k : Nat, j < 64 → k < 8 →
      (byteAt b (2 + j)).getLsbD k = s.judge.codeSets[c.val].getLsbD (8 * j + k)
  | .nestConfig => ∀ n : Nest, n.val = r →
      byteAt b 1 = (if (s.port n).config.enabled then 1#8 else 0#8) +
        (if (s.port n).config.excluded then 2#8 else 0#8) + (if (s.port n).config.chatter then 4#8 else 0#8) ∧
      leAt b 2 2 = (s.port n).config.haltGrace % 65536
  | .allowList => ∀ i : Fin 4, i.val = r →
      byteAt b 1 = (if s.uplink.allow[i.val].valid then 1#8 else 0#8) ∧
      b.drop 2 = [40, 32, 24, 16, 8, 0].map (fun k => s.uplink.allow[i.val].addr.extractLsb' k 8)
  | .settings => byteAt b 1 = 0#8 ∧ leAt b 2 2 = s.mgmt.settings.throttle % 65536 ∧
      leAt b 4 2 = s.mgmt.settings.payloadLow % 65536 ∧ leAt b 6 2 = s.mgmt.settings.replyLow % 65536 ∧
      byteAt b 8 = s.mgmt.settings.mask.setWidth 8 ∧ byteAt b 9 = 0#8

/-- The slot checks of R86. -/
def SlotPasses (m : MeasureSlot) : Prop :=
  m.mode ≠ .off →
    (m.width = 1#8 ∨ m.width = 2#8 ∨ m.width = 4#8) ∧ m.position.toNat + m.width.toNat ≤ 256 ∧
    m.shift.toNat ≤ 24 ∧ m.guard.toNat ≤ 2147483647 ∧ m.low.toInt ≤ m.high.toInt ∧
    (m.mode = .code → m.width = 2#8 ∧ m.gain.toInt = 1 ∧ m.shift = 0#8 ∧ m.bias.toInt = 0 ∧
      m.codeSet.toNat ≤ 7 ∧ m.window.toNat ≤ 3)

/-- `x` is the raw value that slot `m` takes from an answer payload (R93). -/
def RawValue (m : MeasureSlot) (payload : List Byte) (x : Int) : Prop :=
  x % 2 ^ (8 * m.width.toNat) = leAt payload m.position.toNat m.width.toNat ∧
  if m.signed then -2 ^ (8 * m.width.toNat - 1) ≤ x ∧ x < 2 ^ (8 * m.width.toNat - 1)
  else 0 ≤ x ∧ x < 2 ^ (8 * m.width.toNat)

/-- Slot records of a copy that ends without being judged (R105, R106): a used slot of the step's Profile row is
NOT_JUDGED, and nothing else stands in any. -/
def SlotsNotJudged (s : State) (e : EntryId) (v : Vector SlotRecord 4) : Prop :=
  ∀ i : Fin 4, v[i.val] =
    if (s.entry e).profile ≠ 0 ∧ (s.profile (s.entry e).profile).slots[i.val].mode ≠ .off
    then { SlotRecord.cleared with verdict := .notJudged } else SlotRecord.cleared

/-! ### What ends copies, as relations between the states before and after -/

/-- The outcomes delivered when the copies of `cs` end with outcome `o`, in order (R46 item 5). -/
def deliveredBy (o : CopyOutcome) (cs : List Copy) : List (EntryId × CopyOutcome) :=
  cs.map (fun c => (c.entry, o))

/-- The copy is the last unfinished one of its LIVE entry, and the entry heads a retire list: its end makes the
entry COMPLETE and, where there is none, the candidate (R129, R133). -/
def endsHead (s : State) (c : Copy) : Bool :=
  decide ((s.entry c.entry).state = .live) && decide ((s.entry c.entry).pending ≤ 1) &&
    (List.finRange 4).any (fun st => (s.retireList st).head? = some c.entry)

/-- What the ending of the copies `cs` of nest `n` with outcome `o`, in order, leaves in the Step Table, the
Payload Store, the Retire Unit and the Judgement Store (R46 items 1, 3 and 4). Each copy lowers its entry's
pending count and reference count by one; at pending 0 a LIVE entry is COMPLETE (R129), and at reference 0 its
blocks go to the tail of the free list, copy by copy (R19, R53). A candidate stays; with none, and no list headed
by a COMPLETE entry before, the first copy that makes a head COMPLETE gives it (R133). Each record holds the
outcome and the runs completed, and one not judged no measure (R105, R106). -/
def CopiesEnded (n : Nest) (o : CopyOutcome) (cs : List Copy) (s t : State) : Prop :=
  (∀ e : EntryId,
    t.entry e = { s.entry e with
      pending := (s.entry e).pending - copiesOf cs e,
      state := if 0 < copiesOf cs e ∧ (s.entry e).pending ≤ copiesOf cs e ∧ (s.entry e).state = .live
        then .complete else (s.entry e).state,
      blocks := if 0 < copiesOf cs e ∧ s.payload.refs[e.val] ≤ copiesOf cs e then [] else (s.entry e).blocks } ∧
    t.payload.refs[e.val] = s.payload.refs[e.val] - copiesOf cs e) ∧
  ((cs.map (fun c => c.entry)).Nodup → t.payload.free = s.payload.free ++
    cs.flatMap (fun c => if s.payload.refs[c.entry.val] ≤ 1 then (s.entry c.entry).blocks else [])) ∧
  (s.retire.candidate ≠ none ∨ s.retire.progress ≠ none → t.retire.candidate = s.retire.candidate) ∧
  (s.retire.candidate = none → s.retire.progress = none → (∀ st : StreamId, completeHead s st = none) →
    (cs.map (fun c => c.entry)).Nodup →
    t.retire.candidate = (cs.find? (endsHead s)).map (fun c => c.entry)) ∧
  (∀ e : EntryId, copiesOf cs e = 0 → t.record e n = s.record e n) ∧
  ∀ c ∈ cs, (t.record c.entry n).outcome = some o ∧
    (t.record c.entry n).variant = (s.record c.entry n).variant ∧
    ((cs.map (fun c => c.entry)).Nodup → (t.record c.entry n).runs = c.runs) ∧
    (o.judged = false → SlotsNotJudged s c.entry (t.record c.entry n).slots)

/-- A halt request at nest `n` on a head that satisfies `p` (R78): in WAITING the head is CLOSING, a HALT
with the current tag is sent and the grace waits for it to leave; in GAP the head leaves and no frame is
sent; either way its outcome is HALTED. In any other state nothing changes. -/
def HaltTaken (n : Nest) (p : Copy → Bool) (s t : State) : Prop :=
  match (s.port n).service, (s.port n).queue with
  | .waiting tag, c :: rest =>
    if p c then
      OnlyNest n s t ∧ t.notice = s.notice ∧
      t.port n = { s.port n with
        queue := { c with state := .closing } :: rest, deadline := .stopped,
        backlog := (s.port n).backlog ++ [.halt tag], service := .halting tag, grace := .armed } ∧
      t.lotNest n = { s.lotNest n with outcomes := (s.lotNest n).outcomes ++ [(c.entry, .halted)] } ∧
      CopiesEnded n .halted [c] s t
    else t = s
  | .gap, c :: rest =>
    if p c then
      OnlyNest n s t ∧ t.notice = s.notice ∧
      t.port n = { s.port n with queue := rest, gap := .stopped, service := .idle } ∧
      t.lotNest n = { s.lotNest n with outcomes := (s.lotNest n).outcomes ++ [(c.entry, .halted)] } ∧
      CopiesEnded n .halted [c] s t
    else t = s
  | _, _ => t = s

/-- A void at nest `n` of the QUEUED copies that satisfy `p` (R47, R48): they leave, head to tail, each with
outcome VOIDED; the other copies stay in order and nothing else of the port changes. -/
def VoidTaken (n : Nest) (p : Copy → Bool) (s t : State) : Prop :=
  OnlyNest n s t ∧ t.notice = s.notice ∧
  t.port n = { s.port n with
    queue := (s.port n).queue.filter (fun c => !(c.state = .queued && p c)) } ∧
  t.lotNest n = { s.lotNest n with
    outcomes := (s.lotNest n).outcomes ++
      deliveredBy .voided ((s.port n).queue.filter (fun c => c.state = .queued && p c)) } ∧
  CopiesEnded n .voided ((s.port n).queue.filter (fun c => c.state = .queued && p c)) s t

/-- Nest `n` takes every void instruction that it has not taken, oldest first (R32, R34; log entry 36): the first
ends every QUEUED copy VOIDED, and those behind it find none; one that answers a stop failure clears the stop hold
(R74; log entry 6). -/
def WaitingVoidsTaken (n : Nest) (s t : State) : Prop :=
  if (s.lotNest n).voids = [] then t = s
  else ∃ v, VoidTaken n (fun _ => true) (s.updLotNest n (fun l => { l with voids := [] })) v ∧
    t = v.updPort n (fun p => { p with
      stopHold := if VoidCause.stopFailure ∈ (s.lotNest n).voids then false else p.stopHold })

/-- The absence rule at nest `n` (R79): every copy that is not CLOSING ends ABSENT, the queue is empty, the
timers are stopped and the nest is IDLE; nothing else of the port changes, the stop hold included. -/
def AbsenceTaken (n : Nest) (s t : State) : Prop :=
  OnlyNest n s t ∧ t.notice = s.notice ∧
  t.port n = { s.port n with
    queue := [], deadline := .stopped, gap := .stopped, grace := .stopped, service := .idle } ∧
  t.lotNest n = { s.lotNest n with
    outcomes := (s.lotNest n).outcomes ++ deliveredBy .absent (unended (s.port n).queue) } ∧
  CopiesEnded n .absent (unended (s.port n).queue) s t

/-- A change of the link of nest `n` to DOWN (R55, R61, R62): presence EMPTY, raising PRESENCE if it was
PRESENT, the absence rule, one absence delivered, LINK raised for the nest, no GREET repetition and nothing
left to send. -/
def LinkDropped (n : Nest) (s t : State) : Prop :=
  OnlyNest n s t ∧
  t.port n = { s.port n with
    link := .down, presence := .empty, greet := .stopped, backlog := [],
    queue := [], deadline := .stopped, gap := .stopped, grace := .stopped, service := .idle } ∧
  t.lotNest n = { s.lotNest n with
    events := (s.lotNest n).events ++ [.absence],
    outcomes := (s.lotNest n).outcomes ++ deliveredBy .absent (unended (s.port n).queue) } ∧
  CopiesEnded n .absent (unended (s.port n).queue) s t ∧
  t.notice.causes = s.notice.causes ||| 2#7 ||| (if (s.port n).presence = .present then 4#7 else 0#7) ∧
  t.notice.standings = s.notice.standings ∧
  ∀ m : Nest, NestSet.has t.notice.links m = (NestSet.has s.notice.links m || decide (m = n))

/-- A standing change of nest `n` to `x` (R35): STANDING is raised for the nest; nothing else changes. -/
def StandingChanged (n : Nest) (x : Standing) (s t : State) : Prop :=
  t = { s with
        lot := { s.lot with nests := t.lot.nests },
        notice := { s.notice with causes := s.notice.causes ||| 8#7, standings := t.notice.standings } } ∧
  t.lotNest n = { s.lotNest n with standing := x } ∧
  (∀ m : Nest, m ≠ n → t.lotNest m = s.lotNest m) ∧
  ∀ m : Nest, NestSet.has t.notice.standings m = (NestSet.has s.notice.standings m || decide (m = n))

/-- A CLEAR nest becomes LOST; any other standing stays, and nothing is raised (R29, R30, R31). -/
def LostIfClear (n : Nest) (s t : State) : Prop :=
  if (s.lotNest n).standing = .clear then StandingChanged n .lost s t else t = s

/-- A RUN for copy `c` at the head of nest `n` (R66, R70, R72): the tag is one more than the last, the step's
payload goes with it, and the deadline waits for it to leave the lane. -/
def runSent (c : Copy) (s : State) (p : NestPort) : NestPort :=
  { p with
    runTag := p.runTag + 1, backlog := p.backlog ++ [.run (p.runTag + 1) (stepPayload s c.entry)],
    counters := { p.counters with runsSent := satInc p.counters.runsSent },
    deadline := .armed, service := .waiting (p.runTag + 1) }

/-! ### Coalescing, as relations -/

/-- Way `w` of the set of an offered payload matches it (R118): entry, digest and length agree, and a payload
held in a cell agrees byte for byte. -/
def WayMatches (s : State) (e : EntryId) (payload : List Byte) (w : Fin 2) : Prop :=
  ∃ x v, (s.variantSet (setIndex e (digest payload))).ways[w.val] = some x ∧ x.entry = e ∧
    x.digest = digest payload ∧ x.length = payload.length ∧ (s.entry e).variants[x.index]? = some v ∧
    ∀ c, v.cell = some c → s.coalesce.cells[c.val] = payload

/-- Way `w` of set `i` holds a variant that has a cell. -/
def WayStores (s : State) (i : Fin 256) (w : Fin 2) : Prop :=
  ∃ x v c, (s.variantSet i).ways[w.val] = some x ∧ (s.entry x.entry).variants[x.index]? = some v ∧ v.cell = some c

/-- Only the Step Table's entries, the Judgement Store, the Coalescing Unit, the counters and the Notice Unit's
causes differ between `s` and `t`. -/
def OnlyVariants (s t : State) : Prop :=
  t = { s with
        table := { s.table with entries := t.table.entries },
        judge := { s.judge with records := t.judge.records },
        coalesce := t.coalesce,
        mgmt := { s.mgmt with counters := t.mgmt.counters },
        notice := { s.notice with causes := t.notice.causes } }

/-- The record of entry `e` and nest `n` takes variant index `i`; no other record changes (R112). -/
def RecordsIndex (e : EntryId) (n : Nest) (i : Nat) (s t : State) : Prop :=
  ∀ (d : EntryId) (m : Nest), t.record d m =
    if d = e ∧ m = n then { s.record e n with variant := some i } else s.record d m

/-- A variant of entry `e` is created at the tail of its list for the payload that nest `n` offers (R114,
R120). A payload takes the head cell of the free list (R123), raising REPLY_LOW as the count falls from the
threshold (R126); with no free cell the variant is TRUNCATED and counted (R125); an empty payload takes none. -/
def VariantCreated (e : EntryId) (n : Nest) (payload : List Byte) (place : Residence) (s t : State) : Prop :=
  OnlyVariants s t ∧ RecordsIndex e n (s.entry e).variants.length s t ∧ ∃ v : Variant,
    v.digest = digest payload ∧ v.length = payload.length ∧ v.nests = NestSet.single n ∧ v.residence = place ∧
    (∀ d : EntryId, t.entry d = if d = e
      then { s.entry e with variants := (s.entry e).variants ++ [v] } else s.entry d) ∧
    (payload = [] → v.cell = none ∧ v.truncated = false ∧
      t.coalesce = s.coalesce ∧ t.mgmt = s.mgmt ∧ t.notice = s.notice) ∧
    (payload ≠ [] → s.coalesce.free = [] → v.cell = none ∧ v.truncated = true ∧
      t.coalesce = s.coalesce ∧ t.notice = s.notice ∧
      t.mgmt.counters = { s.mgmt.counters with truncations := satInc s.mgmt.counters.truncations }) ∧
    ∀ c rest, payload ≠ [] → s.coalesce.free = c :: rest → v.cell = some c ∧ v.truncated = false ∧
      t.coalesce = { s.coalesce with free := rest, cells := upd s.coalesce.cells c (fun _ => payload) } ∧
      t.mgmt = s.mgmt ∧
      t.notice.causes = if rest.length + 1 = s.mgmt.settings.replyLow
        then s.notice.causes ||| 32#7 else s.notice.causes

/-- The variant that way `w` of set `i` holds, if the way is valid, is SETTLED and counted in EVICTIONS; it
keeps all else (R121). -/
def Evicted (i : Fin 256) (w : Fin 2) (s t : State) : Prop :=
  match (s.variantSet i).ways[w.val] with
  | none => t = s
  | some x =>
    t = { s with
          table := { s.table with entries := t.table.entries },
          mgmt := { s.mgmt with counters := { s.mgmt.counters with
            evictions := satInc s.mgmt.counters.evictions } } } ∧
    ∀ d : EntryId, t.entry d = if d = x.entry
      then { s.entry d with variants :=
        (s.entry d).variants.modify x.index (fun v => { v with residence := .settled }) }
      else s.entry d

/-- No nest is in two of the variants (R112). -/
def DisjointNests (vs : List Variant) : Prop :=
  vs.Pairwise (fun a b => ∀ n : Nest, ¬(NestSet.has a.nests n = true ∧ NestSet.has b.nests n = true))

/-! ### The messages and frames of the bridge, byte by byte (11.1, 11.2, 11.5, 11.8) -/

/-- `b` begins with the common header (11.2, R195): format version 1, the class, the true length, the tag. -/
def HeaderIs (cls : Byte) (tag : Word16) (b : List Byte) : Prop :=
  byteAt b 0 = 1#8 ∧ byteAt b 1 = cls ∧ leAt b 2 2 = b.length % 65536 ∧ leAt b 4 2 = tag.toNat

/-- `frame` is the message `msg` in an Ethernet frame (11.2, R173, R176): destination, source, EtherType 0x88B5, the
message, zero bytes up to a payload of 46, and the check sequence over all of them, least significant byte first. -/
def FrameIs (dest src : MacAddr) (msg frame : List Byte) : Prop :=
  ∃ body : List Byte,
    body = [40, 32, 24, 16, 8, 0].map (fun k => dest.extractLsb' k 8) ++
      [40, 32, 24, 16, 8, 0].map (fun k => src.extractLsb' k 8) ++ [0x88#8, 0xB5#8] ++ msg ++
      List.replicate (46 - msg.length) 0#8 ∧
    frame = body ++ [0, 8, 16, 24].map (fun k => (crc32 body).extractLsb' k 8)

/-- `b` is the REFUSAL `m` (11.5), class 3, 16 bytes. -/
def RefusalIs (m : RefusalMsg) (b : List Byte) : Prop :=
  HeaderIs 3#8 m.tag b ∧ b.length = 16 ∧ byteAt b 6 = m.stream ∧
  [none, some .badForm, some .lotClosed, some .draining, some .sequence, some .badTarget, some .badProfile,
    some .tooLong, some .noEntry, some .noSpace, some RefusalReason.nestBusy][(byteAt b 7).toNat]? =
      some (some m.reason) ∧
  leAt b 8 2 = m.stepNumber.toNat ∧ byteAt b 10 = BitVec.ofNat 8 m.detail ∧
  byteAt b 11 = BitVec.ofNat 8 m.freeEntries ∧ leAt b 12 2 = m.expected.toNat ∧
  leAt b 14 2 = m.freeBlocks % 65536

/-- `b` is the RESPONSE `m` (11.5), class 4, 14 bytes and the result data. -/
def ResponseIs (m : ResponseMsg) (b : List Byte) : Prop :=
  HeaderIs 4#8 m.req.tag b ∧ b.length = 14 + m.result.length ∧ leAt b 6 4 = m.req.id.toNat ∧
  byteAt b 10 = m.req.code ∧
  [.ok, .badRequest, .unknownTable, .badRow, .inUse, .busy, .wrongLotState,
    Status.notHeld][(byteAt b 11).toNat]? = some m.status ∧
  leAt b 12 2 = m.result.length % 65536 ∧ b.drop 14 = m.result

/-- `b` is the report header `h` (11.5), 28 bytes. -/
def ReportHeaderIs (h : ReportHeader) (b : List Byte) : Prop :=
  b.length = 28 ∧ (byteAt b 0).toNat = h.stream.val ∧
  byteAt b 1 = (if h.clamped then 1#8 else 0#8) + (if h.aborted then 2#8 else 0#8) ∧
  leAt b 2 2 = h.stepNumber.toNat ∧ leAt b 4 4 = h.lotId.toNat ∧
  [.none, .each, Capture.coalesce][(byteAt b 8).toNat]? = some h.capture ∧
  byteAt b 9 = BitVec.ofNat 8 h.targetCount ∧ byteAt b 10 = BitVec.ofNat 8 h.variantCount ∧
  byteAt b 11 = BitVec.ofNat 8 h.segmentCount ∧
  (b.drop 12).take 9 = h.outcomeCounts.map (fun k => BitVec.ofNat 8 k) ∧
  byteAt b 21 = BitVec.ofNat 8 h.freeEntries ∧ leAt b 22 2 = h.freeBlocks % 65536 ∧
  leAt b 24 2 = h.freeCells % 65536 ∧ leAt b 26 2 = h.expected.toNat

/-- `b` is the measure result `m` (11.5), 8 bytes, its value in two's complement. -/
def MeasureIs (m : MeasureResult) (b : List Byte) : Prop :=
  b.length = 8 ∧
  [.off, .notJudged, .pass, .marginal, .low, .high, .missing, Verdict.codeBad][(byteAt b 0).toNat]? =
    some m.verdict ∧
  byteAt b 1 = (if m.sat then 1#8 else 0#8) ∧ leAt b 2 2 = 0 ∧ (leAt b 4 4 : Int) = m.value % 4294967296

/-- `b` is the nest record `r` (11.5, R190), 36 bytes; no variant index is 0xFF. -/
def NestRecordIs (r : NestRecord) (b : List Byte) : Prop :=
  b.length = 36 ∧ (byteAt b 0).toNat = r.nest.val ∧
  (∀ o, r.outcome = some o →
    [.pass, .marginal, .fail, .errored, .timeout, .absent, .halted, .voided,
      CopyOutcome.skipped][(byteAt b 1).toNat]? = some o) ∧
  byteAt b 2 = BitVec.ofNat 8 r.runs ∧ (r.variant = none → byteAt b 3 = 0xFF#8) ∧
  (∀ i, r.variant = some i → byteAt b 3 = BitVec.ofNat 8 i) ∧
  ∀ (k : Nat) (m : MeasureResult), r.measures[k]? = some m → MeasureIs m ((b.drop (4 + 8 * k)).take 8)

/-- `b` is the variant record `v` (11.5), 10 bytes and the payload it carries. -/
def VariantRecordIs (v : VariantRecord) (b : List Byte) : Prop :=
  b.length = 10 + v.payload.length ∧ byteAt b 0 = BitVec.ofNat 8 v.index ∧
  byteAt b 1 = (if v.truncated then 1#8 else 0#8) ∧ leAt b 2 2 = v.digest.toNat ∧
  leAt b 4 2 = v.length % 65536 ∧ leAt b 6 4 = v.nests.toNat ∧ b.drop 10 = v.payload

/-- `b` is the REPORT segment `g` (11.5), class 5 and tag 0: the segment header, and from offset 12 the report header
and the nest records, or the variant records, back to back. -/
def SegmentIs (g : SegmentMsg) (b : List Byte) : Prop :=
  HeaderIs 5#8 0#16 b ∧ (byteAt b 6).toNat = g.stream.val ∧ byteAt b 7 = (if g.last then 1#8 else 0#8) ∧
  leAt b 8 2 = g.stepNumber.toNat ∧ byteAt b 10 = BitVec.ofNat 8 g.index ∧ byteAt b 11 = 0#8 ∧
  (∀ h rs, g.body = .head h rs → h.outcomeCounts.length = 9 → (∀ r ∈ rs, r.measures.length = 4) →
    ∃ hb rbs, b.drop 12 = hb ++ rbs.flatten ∧ ReportHeaderIs h hb ∧ List.Forall₂ NestRecordIs rs rbs) ∧
  ∀ vs, g.body = .variants vs →
    ∃ vbs, b.drop 12 = vbs.flatten ∧ List.Forall₂ VariantRecordIs vs vbs

/-- `b` is the NOTICE `m` (11.5), class 6 and tag 0, 18 bytes and 4 for each attention record. -/
def NoticeIs (m : NoticeMsg) (b : List Byte) : Prop :=
  HeaderIs 6#8 0#16 b ∧ b.length = 18 + 4 * m.attention.length ∧ leAt b 6 2 = m.serial.toNat ∧
  (byteAt b 8).toNat = m.causes.toNat ∧ byteAt b 9 = BitVec.ofNat 8 m.attention.length ∧
  leAt b 10 4 = m.links.toNat ∧ leAt b 14 4 = m.standings.toNat ∧
  ∀ (k : Nat) (a : AttentionRecord), m.attention[k]? = some a →
    (byteAt b (18 + 4 * k)).toNat = a.nest.val ∧
    byteAt b (19 + 4 * k) = (if a.superseded then 1#8 else 0#8) ∧ leAt b (20 + 4 * k) 2 = a.code.toNat

/-- `b` is the CHATTER message `m` (11.5), class 7 and tag 0. -/
def ChatterIs (m : ChatterMsg) (b : List Byte) : Prop :=
  HeaderIs 7#8 0#16 b ∧ b.length = 10 + m.payload.length ∧ (byteAt b 6).toNat = m.nest.val ∧ byteAt b 7 = 0#8 ∧
  leAt b 8 2 = m.payload.length % 65536 ∧ b.drop 10 = m.payload

/-- The bytes of a nest-link frame from its kind to its last payload byte (R55, 11.8): kind, tag and payload length,
most significant byte first, the status byte of an ANSWER, payload. -/
def laneCovered (kind t1 t0 : Byte) (status payload : List Byte) : List Byte :=
  [kind, t1, t0, BitVec.ofNat 8 (payload.length / 256), BitVec.ofNat 8 payload.length] ++ status ++ payload

/-- A nest-link frame (R55, 11.8): the start delimiter 0xC3, the bytes the CRC covers, and a CRC field, most
significant byte first. -/
def laneBytes (covered : List Byte) (crc : Word16) : List Byte :=
  0xC3#8 :: (covered ++ [crc.extractLsb' 8 8, crc.extractLsb' 0 8])

/-- What a NEST_ACTION's result data says of its halt request, given to nest `n` in state `b` and leaving `c` (R152,
11.5, R195): the halted flag, and the stream and step number of the copy halted, 0 where none was. -/
def HaltedFields (n : Nest) (b c : State) (r : List Byte) : Prop :=
  (c = b → (byteAt r 2).getLsbD 0 = false ∧ byteAt r 5 = 0#8 ∧ leAt r 6 2 = 0) ∧
  (c ≠ b → (byteAt r 2).getLsbD 0 = true ∧ ∃ x rest, (b.port n).queue = x :: rest ∧
    (byteAt r 5).toNat = x.stream.val ∧ leAt r 6 2 = (b.entry x.entry).stepNumber.toNat)

/-! ### The ten reasons of R6, each on its own -/

/-- Nest `n` is in the target set of a STEP of good form (R39). -/
def inTarget (s : State) (msg : List Byte) (n : Nest) : Prop :=
  ((byteAt msg 7).toNat = 0 ∧ (byteAt msg 8).toNat = n.val) ∨
  ((byteAt msg 7).toNat = 1 ∧ ∃ g : Fin 64, (byteAt msg 8).toNat = g.val ∧ s.groups[g.val].getLsbD n.val = true) ∨
  (byteAt msg 7).toNat = 2

/-- A target nest of standing CLEAR with 8 copies in its queue (R8). -/
def isFull (s : State) (msg : List Byte) (n : Nest) : Prop :=
  inTarget s msg n ∧ (s.lotNest n).standing = .clear ∧ 8 ≤ (s.port n).queue.length

/-- Reason `r` of R6 holds for the STEP `msg`, by its own line of the table. -/
def reasonHolds (s : State) (msg : List Byte) (r : RefusalReason) : Prop :=
  match r with
  | .badForm =>
    3 < (byteAt msg 6).toNat ∨ 2 < (byteAt msg 7).toNat ∨ 2 < (byteAt msg 10).toNat ∨
    1 < (byteAt msg 11).toNat ∨ msg.length ≠ 22 + leAt msg 20 2
  | .lotClosed => s.lot.isOpen = false
  | .draining => ∃ st : StreamId, (byteAt msg 6).toNat = st.val ∧ (s.stream st).draining = true
  | .sequence =>
    ∃ st : StreamId, (byteAt msg 6).toNat = st.val ∧ leAt msg 14 2 ≠ (s.stream st).expected.toNat
  | .badTarget => ¬ ∃ n : Nest, inTarget s msg n
  | .badProfile =>
    byteAt msg 9 ≠ 0#8 ∧ ¬ ∃ r : Fin 64, (byteAt msg 9).toNat = r.val ∧ (s.profile r).defined = true
  | .tooLong => 1024 < leAt msg 20 2
  | .noEntry => ∀ e : EntryId, (s.entry e).state ≠ .free
  | .noSpace => s.payload.free.length < (leAt msg 20 2 + 255) / 256
  | .nestBusy => ∃ n : Nest, isFull s msg n

end Sys2Proof.Machine
end

