-- ==== Sys2Proof/Certificates/Slice0/Obligations.lean ====
section
/-! DEFINITION. The statements for the provers, each from a numbered rule of spec/ or saying in its docstring
whose choice it is. -/

section
open Sys2Proof Sys2Proof.Machine

/-! ### The step -/

/-- A step takes the command at the front of the queue and is that command's effect with the queue's rest. -/
def Obligations.StepTakesFrontCommand : Prop :=
  ∀ (c : Instr) (s : State), step { s with pending := c :: s.pending } = exec c s

/-- Every command answers a next state, and leaves the queue of commands as it is. A command whose event cannot take
place changes nothing: while the part does not run, each but the resets, LOADING_END, the tick and the levels at the
pins (R189); LOADING_END but while the loader runs; a row that takes a message with none at the Dispatcher, a request
or a restart under way included (R177, R178, R187); the expiry of a timer that does not run, or outside its state
(R68); and one that finds nothing to take, send or place. That such a command answers at all is the model's choice
(log entry 1). -/
def Obligations.EveryCommandKeepsQueue : Prop :=
  (∀ (c : Instr) (s : State), ∃ t, exec c s = .next t ∧ t.pending = s.pending) ∧
  (∀ (c : Instr) (s : State), s.phase ≠ .running → (∀ strap, c ≠ .powerOn strap ∧ c ≠ .resetPin strap) →
    (∀ flash, c ≠ .loadingEnd flash) → c ≠ .resetPinAssertion → c ≠ .timeSinceStartTick →
    (∀ n, c ≠ .laneSignalPresent n ∧ c ≠ .laneSignalLost n) → (∀ up, c ≠ .uplinkLinkChange up) →
    exec c s = .next s) ∧
  (∀ (flash : Option (List Byte)) (s : State), s.phase ≠ .loading → exec (.loadingEnd flash) s = .next s) ∧
  (∀ s : State, (∀ f, ¬AtDispatcher s f) → ∀ c ∈ messageRows, exec c s = .next s) ∧
  (∀ (s : State) (n : Nest),
    ((s.port n).link ≠ .training ∨ (∀ d, (s.port n).greet ≠ .running d) → exec (.greetRepeat n) s = .next s) ∧
    ((∀ tag, (s.port n).service ≠ .waiting tag) ∨ (∀ d, (s.port n).deadline ≠ .running d) →
      exec (.deadlineExpiry n) s = .next s) ∧
    ((s.port n).service ≠ .gap ∨ (∀ d, (s.port n).gap ≠ .running d) → exec (.gapExpiry n) s = .next s) ∧
    ((∀ tag, (s.port n).service ≠ .halting tag) ∨ (∀ d, (s.port n).grace ≠ .running d) →
      exec (.graceExpiry n) s = .next s) ∧
    ((s.port n).backlog = [] → exec (.frameLeavesLane n) s = .next s) ∧
    (∀ bytes, isBadFrame bytes = false → exec (.badFrame n bytes) s = .next s) ∧
    ((∀ e, (s.lotNest n).events.head? ≠ some (.stopFailure e)) → exec (.stopFailure n) s = .next s) ∧
    ((s.lotNest n).events.head? ≠ some .absence → exec (.absence n) s = .next s) ∧
    ((s.lotNest n).events.head? ≠ some .stall → exec (.stall n) s = .next s) ∧
    ((s.lotNest n).voids = [] → exec (.voidInstruction n) s = .next s) ∧
    ((s.lotNest n).outcomes = [] → exec (.outcomeDelivered n) s = .next s) ∧
    ((∀ r st marked halted voided left, s.dispatcher.task = some (.abort r st marked halted voided left) →
      NestSet.has left n = false) → exec (.streamHaltAndVoid n) s = .next s)) ∧
  ∀ s : State,
    (s.dispatcher.restart ≠ .due → exec .restartEvent s = .next s) ∧
    (s.uplink.tx = none → exec .uplinkFrameSent s = .next s) ∧
    (s.retire.candidate = none ∨ s.retire.progress ≠ none → exec .retirementStart s = .next s) ∧
    (s.retire.progress = none → exec .segmentPlaced s = .next s) ∧
    ((∀ d, s.notice.throttle ≠ .running d) → exec .throttleExpiry s = .next s)

/-! ### Resets and start-up -/

/-- POWER_ON and RESET_PIN: every piece of state at the value its rule gives, nothing under way between the blocks,
the strap sampled and the loader running; the levels at the pins and the queue of commands stay. The state right
after reset has these values too. What no rule gives (the configuration before LOADING_END, contents without a
meaning) stands as in the state right after reset, the model's choice (log entries 9 and 10). -/
def Obligations.PowerOnAndResetPinValues : Prop :=
  PowerOnValues State.reset ∧
  ∀ (strap : BitVec 4) (s : State), ∃ t,
    exec (.powerOn strap) s = .next t ∧ exec (.resetPin strap) s = .next t ∧ PowerOnValues t ∧
    t = { State.reset with
          signal := s.signal, phyUp := s.phyUp, mgmt := { State.reset.mgmt with strap := strap },
          pending := s.pending }

/-- LOADING_END: a good image gives the MAC address, the allow list and the nest enable mask, and anything else
the defaults; the uplink status is read, and each enabled nest with signal trains. The byte orders in the image,
addresses in transmission order and the mask little-endian, are the model's (log entry 34). -/
def Obligations.LoadingEndTakesConfiguration : Prop :=
  ∀ (flash : Option (List Byte)) (s : State), s.phase = .loading → ∃ u t,
    exec (.loadingEnd flash) s = .next t ∧
    u = { s with
          phase := .running, ports := u.ports,
          uplink := { s.uplink with mac := u.uplink.mac, allow := u.uplink.allow, linkUp := s.phyUp },
          mgmt := { s.mgmt with fromFlash := u.mgmt.fromFlash } } ∧
    (∀ n : Nest, u.port n = { s.port n with
      config := { (s.port n).config with enabled := (u.port n).config.enabled } }) ∧
    (∀ image, flash = some image → GoodImage image →
      u.mgmt.fromFlash = true ∧ u.uplink.mac = BitVec.ofNat 48 (beNat (image.take 6)) ∧
      (∀ n : Nest, (u.port n).config.enabled = (leAt image 34 4).testBit n.val) ∧
      ∀ i : Fin 4, u.uplink.allow[i.val] =
        if byteAt image (6 + 7 * i.val) = 1#8 ∧ (byteAt image (7 + 7 * i.val)).getLsbD 0 = false then
          { valid := true, addr := BitVec.ofNat 48 (beNat ((image.drop (7 + 7 * i.val)).take 6)) }
        else { valid := false, addr := 0 }) ∧
    ((∀ image, flash = some image → ¬GoodImage image) →
      u.mgmt.fromFlash = false ∧ u.uplink.mac = 0x025547000000#48 + s.mgmt.strap.setWidth 48 ∧
      (∀ n : Nest, (u.port n).config.enabled = true) ∧
      ∀ i : Fin 4, u.uplink.allow[i.val] = { valid := false, addr := 0 }) ∧
    Trained (fun n => decide ((s.port n).link = .down) && (u.port n).config.enabled && s.signal[n.val]) u t

/-- RESTART_EVENT: what every reset clears is cleared, the six tables, the MAC address, the uplink status, the
configuration source and the strap value are kept, and each enabled nest with signal trains. -/
def Obligations.RestartClearsAndKeeps : Prop :=
  ∀ s : State, s.phase = .running → s.dispatcher.restart = .due → ∃ u t,
    exec .restartEvent s = .next t ∧ ClearedByReset u ∧
    (∀ n : Nest, (u.port n).link = .down ∧ (u.port n).config = (s.port n).config ∧
      (u.port n).greet = .stopped ∧ (u.port n).backlog = []) ∧
    u.notice.causes = 0#7 ∧ u.notice.links = 0#32 ∧ u.notice.standings = 0#32 ∧
    u.groups = s.groups ∧ u.judge.codeSets = s.judge.codeSets ∧
    (∀ r : Fin 64, u.profile r = { s.profile r with pins := 0 }) ∧
    u.uplink.allow = s.uplink.allow ∧ u.mgmt.settings = s.mgmt.settings ∧
    u.uplink.mac = s.uplink.mac ∧ u.uplink.linkUp = s.uplink.linkUp ∧
    u.mgmt.fromFlash = s.mgmt.fromFlash ∧ u.mgmt.strap = s.mgmt.strap ∧
    u.phase = .running ∧ u.signal = s.signal ∧ u.phyUp = s.phyUp ∧ u.pending = s.pending ∧
    Trained (fun n => (s.port n).config.enabled && s.signal[n.val]) u t

/-- RESET_PIN_ASSERTION stops the uplink and the lanes and discards a request or a restart in progress, the
other state standing until the release: the model's choice of what the assertion alone changes (log entry
8). TIME_SINCE_START_TICK counts, saturating, while the loader runs as while the part runs, and changes nothing while
the reset pin is held (log entry 16). -/
def Obligations.ResetAssertionAndTick : Prop :=
  (∀ s : State, ∃ t, exec .resetPinAssertion s = .next t ∧
    t = { s with
          phase := .held, uplink := { s.uplink with tx := none },
          dispatcher := { waiting := false, task := none, restart := .none }, ports := t.ports } ∧
    ∀ n : Nest, t.port n = { s.port n with backlog := [] }) ∧
  (∀ s : State, s.phase ≠ .held →
    exec .timeSinceStartTick s = .next { s with mgmt := { s.mgmt with
      time := if s.mgmt.time = 4294967295#32 then s.mgmt.time else s.mgmt.time + 1#32 } }) ∧
  ∀ s : State, s.phase = .held → exec .timeSinceStartTick s = .next s

/-! ### Frames in and out of the uplink -/

/-- FRAME_RECEIVED: the checks of R173 in order, the first that fails counting the frame once and dropping it;
a frame that passes joins the receive buffer, or is counted as overflow when it is full (R175). A frame that comes
while the part does not run or the uplink is DOWN is dropped uncounted (R175, R180, R189). -/
def Obligations.FrameReceivedIsChecked : Prop :=
  (∀ (frame : List Byte) (s : State), s.phase ≠ .running ∨ s.uplink.linkUp = false →
    exec (.frameReceived frame) s = .next s) ∧
  ∀ (frame : List Byte) (s : State), s.phase = .running → s.uplink.linkUp = true →
    exec (.frameReceived frame) s = .next (
      let malformed : State := { s with mgmt := { s.mgmt with counters := { s.mgmt.counters with
        rxMalformed := satInc s.mgmt.counters.rxMalformed } } }
      let filtered : State := { s with mgmt := { s.mgmt with counters := { s.mgmt.counters with
        rxFilter := satInc s.mgmt.counters.rxFilter } } }
      let payload := (frame.drop 14).take (frame.length - 18)
      let src : MacAddr := BitVec.ofNat 48 (beNat ((frame.drop 6).take 6))
      if frame.length < 64 ∨ 1518 < frame.length ∨
          frame.drop (frame.length - 4) ≠ leBytes 4 (crc32 (frame.take (frame.length - 4))).toNat then malformed
      else if frame.take 6 ≠ beBytes 6 s.uplink.mac.toNat ∧ frame.take 6 ≠ List.replicate 6 255#8 then filtered
      else if (frame.drop 12).take 2 ≠ [0x88#8, 0xB5#8] then filtered
      else if (∃ i : Fin 4, s.uplink.allow[i.val].valid = true) ∧
          (∀ i : Fin 4, s.uplink.allow[i.val].valid = true → s.uplink.allow[i.val].addr ≠ src) then filtered
      else if byteAt payload 0 ≠ 1#8 ∨ (byteAt payload 1 ≠ 1#8 ∧ byteAt payload 1 ≠ 2#8) ∨
          leAt payload 2 2 < 6 ∨ payload.length < leAt payload 2 2 then malformed
      else if s.uplink.rx.length < 16 then
        { s with
          uplink := { s.uplink with
            rx := s.uplink.rx ++ [{ src := src, msg := payload.take (leAt payload 2 2) }] },
          mgmt := { s.mgmt with counters := { s.mgmt.counters with
            rxAccepted := satInc s.mgmt.counters.rxAccepted } } }
      else { s with mgmt := { s.mgmt with counters := { s.mgmt.counters with
        rxOverflow := satInc s.mgmt.counters.rxOverflow } } })

/-- UPLINK_TRANSMIT_START: the idle transmitter takes the head frame of the first class that holds one, in the
order RESPONSE, NOTICE, REPORT, CHATTER, addressed by R176; the queue keeps it until it is sent. With the uplink DOWN,
or with a frame being sent, it starts none, and nothing changes (R180). Its bytes are the
addresses, the EtherType, the message, zero bytes up to the minimum and the check sequence (11.2, R176), with the check
value of R173; and every message of the bridge has version 1, its class, its true length, its tag, 0 in REPORT, NOTICE
and CHATTER (R195), and its fields at the offsets of 11.5. -/
def Obligations.TransmitterTakesHighestClass : Prop :=
  (∀ (dest src : MacAddr) (msg : List Byte), FrameIs dest src msg (ethernetFrame dest src msg)) ∧
  crc32 [0x31#8, 0x32#8, 0x33#8, 0x34#8, 0x35#8, 0x36#8, 0x37#8, 0x38#8, 0x39#8] = 0xCBF43926#32 ∧
  (∀ (d : MacAddr) (m : RefusalMsg),
    (ResponseFrame.refusal d m).dest = d ∧ RefusalIs m (ResponseFrame.refusal d m).bytes) ∧
  (∀ m : ResponseMsg,
    (ResponseFrame.response m).dest = m.req.dest ∧ ResponseIs m (ResponseFrame.response m).bytes) ∧
  (∀ g : SegmentMsg, SegmentIs g g.bytes) ∧ (∀ m : NoticeMsg, NoticeIs m m.bytes) ∧
  (∀ m : ChatterMsg, ChatterIs m m.bytes) ∧
  (∀ s : State, s.uplink.linkUp = false ∨ s.uplink.tx ≠ none → exec .uplinkTransmitStart s = .next s) ∧
  ∀ s : State, s.phase = .running → s.uplink.linkUp = true → s.uplink.tx = none → ∃ x,
    exec .uplinkTransmitStart s = .next { s with uplink := { s.uplink with tx := x } } ∧
    (∀ f rest, s.uplink.response = f :: rest →
      x = some { cls := .response, frame := ethernetFrame f.dest s.uplink.mac f.bytes }) ∧
    (∀ m rest, s.uplink.response = [] → s.uplink.notice = m :: rest →
      x = some { cls := .notice, frame := ethernetFrame s.uplink.reportAddr s.uplink.mac m.bytes }) ∧
    (∀ m rest, s.uplink.response = [] → s.uplink.notice = [] → s.uplink.report = m :: rest →
      x = some { cls := .report, frame := ethernetFrame s.uplink.reportAddr s.uplink.mac m.bytes }) ∧
    (∀ m rest, s.uplink.response = [] → s.uplink.notice = [] → s.uplink.report = [] →
      s.uplink.chatter = m :: rest →
      x = some { cls := .chatter, frame := ethernetFrame s.uplink.reportAddr s.uplink.mac m.bytes }) ∧
    (s.uplink.response = [] → s.uplink.notice = [] → s.uplink.report = [] → s.uplink.chatter = [] →
      x = none)

/-- UPLINK_FRAME_SENT: the frame sent leaves the head of its queue (R180); with a RESTART response the restart that
waits for it is due (R187). UPLINK_LINK_CHANGE: the status follows the PHY; on DOWN a frame being sent is lost and
leaves its queue as if sent, and the frames queued behind it stay (R180). While the part does not run the PHY's
level alone changes (log entry 25). -/
def Obligations.SentOrLostFrameLeavesItsQueue : Prop :=
  (∀ (s : State) (x : Sending), s.phase = .running → s.uplink.tx = some x → ∃ t,
    exec .uplinkFrameSent s = .next t ∧
    t = { s with
          uplink := { s.uplink with
            tx := none,
            response := if x.cls = .response then s.uplink.response.tail else s.uplink.response,
            notice := if x.cls = .notice then s.uplink.notice.tail else s.uplink.notice,
            report := if x.cls = .report then s.uplink.report.tail else s.uplink.report,
            chatter := if x.cls = .chatter then s.uplink.chatter.tail else s.uplink.chatter },
          dispatcher := { s.dispatcher with restart := t.dispatcher.restart } } ∧
    ((x.cls = .response ∧ s.dispatcher.restart = .waiting ∧ ∃ m rest,
        s.uplink.response = .response m :: rest ∧ m.status = .ok ∧ m.req.code = 11#8) →
      t.dispatcher.restart = .due) ∧
    (¬(x.cls = .response ∧ s.dispatcher.restart = .waiting ∧ ∃ m rest,
        s.uplink.response = .response m :: rest ∧ m.status = .ok ∧ m.req.code = 11#8) →
      t.dispatcher.restart = s.dispatcher.restart)) ∧
  (∀ s : State, s.phase = .running →
    exec (.uplinkLinkChange true) s = .next { s with
      phyUp := true, uplink := { s.uplink with linkUp := true } }) ∧
  (∀ s : State, s.phase = .running → s.uplink.tx = none →
    exec (.uplinkLinkChange false) s = .next { s with
      phyUp := false, uplink := { s.uplink with linkUp := false } }) ∧
  (∀ (s t : State), s.phase = .running → s.uplink.tx ≠ none → exec .uplinkFrameSent s = .next t →
    exec (.uplinkLinkChange false) s = .next { t with
      phyUp := false, uplink := { t.uplink with linkUp := false } }) ∧
  ∀ (s : State) (up : Bool), s.phase ≠ .running →
    exec (.uplinkLinkChange up) s = .next { s with phyUp := up }

/-- A request that finds the RESPONSE queue full is held at the head of the receive buffer, and no row takes it or a
message behind it (R177); with room none is held. With room, one whose code is none of the eleven, or that is too
short to carry one, is answered BAD_REQUEST with no result data, and nothing changes besides the answer (R181, R192).
A request is of a code when its class is REQUEST, it is long enough to carry one and byte 10 is that code of 11.1. A
row takes no message but its own: one of another class or code, of another known table, nest action or clear option,
it leaves as it stands (log entries 1, 4). -/
def Obligations.RequestWaitsAndUnknownIsBad : Prop :=
  [RequestCode.describe, .putRows, .getRows, .getCounters, .getState, .openLot, .closeLot, .abortStream, .nestAction,
    .releaseAttention, .restart].map RequestCode.code = [1, 2, 3, 4, 5, 6, 7, 8, 9, 10, 11] ∧
  (∀ (c : RequestCode) (msg : List Byte), isRequestOf c msg = true ↔
    byteAt msg 1 = 2#8 ∧ 12 ≤ msg.length ∧ (byteAt msg 10).toNat = c.code) ∧
  (∀ (s : State) (f : RxFrame), AtDispatcher s f → byteAt f.msg 1 = 2#8 →
    (8 ≤ s.uplink.response.length →
      exec .requestWaiting s = .next { s with dispatcher := { s.dispatcher with waiting := true } } ∧
      ∀ c ∈ messageRows, c ≠ .requestWaiting → exec c s = .next s) ∧
    (s.uplink.response.length < 8 →
      exec .requestWaiting s = .next s ∧
      ((f.msg.length < 12 ∨ byteAt f.msg 10 = 0#8 ∨ 11 < (byteAt f.msg 10).toNat) →
        exec .requestUnknownCode s = .next (answered f .badRequest [] s)))) ∧
  (∀ (s : State) (f : RxFrame), AtDispatcher s f →
    (byteAt f.msg 1 ≠ 1#8 → exec .step s = .next s) ∧
    (byteAt f.msg 1 ≠ 2#8 → ∀ c ∈ messageRows, c ≠ .step → exec c s = .next s) ∧
    ((∃ c, isRequestOf c f.msg = true) → exec .requestUnknownCode s = .next s) ∧
    ∀ x ∈ [(RequestCode.describe, Instr.describe), (.putRows, .putRowsGroup), (.putRows, .putRowsProfile),
      (.putRows, .putRowsCodeSet), (.putRows, .putRowsNestConfig), (.putRows, .putRowsAllowList),
      (.putRows, .putRowsSettings), (.getRows, .getRows), (.getCounters, .getCounters),
      (.getCounters, .getCountersClear), (.getState, .getState), (.openLot, .openLot), (.closeLot, .closeLot),
      (.abortStream, .abortStream), (.nestAction, .nestActionHalt), (.nestAction, .nestActionCycle),
      (.nestAction, .nestActionExclude), (.nestAction, .nestActionInclude), (.nestAction, .nestActionRetrain),
      (.releaseAttention, .releaseAttention), (.restart, .restart)],
      isRequestOf x.1 f.msg = false → exec x.2 s = .next s) ∧
  (∀ (s : State) (f : RxFrame) (table : Byte) (rest : List Byte), Asked s f .putRows (table :: rest) →
    ∀ x ∈ [(1, Instr.putRowsGroup), (2, .putRowsProfile), (3, .putRowsCodeSet), (4, .putRowsNestConfig),
      (5, .putRowsAllowList), (6, .putRowsSettings)],
    table ≠ 0#8 → table.toNat ≤ 6 → table.toNat ≠ x.1 → exec x.2 s = .next s) ∧
  (∀ (s : State) (f : RxFrame) (nest action : Byte), Asked s f .nestAction [nest, action] →
    ∀ x ∈ [(0, Instr.nestActionHalt), (1, .nestActionCycle), (2, .nestActionExclude), (3, .nestActionInclude),
      (4, .nestActionRetrain)],
    nest.toNat ≤ 31 → action.toNat ≤ 4 → action.toNat ≠ x.1 → exec x.2 s = .next s) ∧
  ∀ (s : State) (f : RxFrame),
    (Asked s f .getCounters [1#8] → exec .getCounters s = .next s) ∧
    (Asked s f .getCounters [0#8] → exec .getCountersClear s = .next s)

/-- A request of a known code whose argument length is not the one the code requires, or whose stream, nest,
action or clear option is out of range, is answered BAD_REQUEST with no result data, and nothing changes besides
the answer (R146, R152, R181, R186, R193). Which rows take a malformed NEST_ACTION or GET_COUNTERS is the
model's choice (log entry 4). -/
def Obligations.MalformedRequestIsBad : Prop :=
  (∀ (s : State) (f : RxFrame) (args : List Byte),
    ∀ x ∈ [(RequestCode.describe, Instr.describe, 0), (.closeLot, .closeLot, 0), (.getState, .getState, 0),
      (.restart, .restart, 0), (.getCounters, .getCounters, 1), (.getCounters, .getCountersClear, 1),
      (.abortStream, .abortStream, 1),
      (.nestAction, .nestActionHalt, 2), (.nestAction, .nestActionCycle, 2),
      (.nestAction, .nestActionExclude, 2), (.nestAction, .nestActionInclude, 2),
      (.nestAction, .nestActionRetrain, 2), (.openLot, .openLot, 4)],
    Asked s f x.1 args → args.length ≠ x.2.2 → exec x.2.1 s = .next (answered f .badRequest [] s)) ∧
  (∀ (s : State) (f : RxFrame) (b : Byte),
    (Asked s f .abortStream [b] → 3 < b.toNat → exec .abortStream s = .next (answered f .badRequest [] s)) ∧
    (Asked s f .getCounters [b] → 1 < b.toNat →
      exec .getCounters s = .next (answered f .badRequest [] s) ∧
      exec .getCountersClear s = .next (answered f .badRequest [] s))) ∧
  ∀ (s : State) (f : RxFrame) (nest action : Byte), Asked s f .nestAction [nest, action] →
    31 < nest.toNat ∨ 4 < action.toNat →
    ∀ c ∈ [Instr.nestActionHalt, .nestActionCycle, .nestActionExclude, .nestActionInclude,
      .nestActionRetrain], exec c s = .next (answered f .badRequest [] s)

/-! ### The Step Intake -/

/-- A STEP for which a reason of R6 holds is refused with the first that does (R6), changing its counter and
placing the REFUSAL alone (R9, R10); with no room the REFUSAL is dropped, counted, and STEP_REFUSAL_LOST is
raised. -/
def Obligations.FirstReasonRefusesStep : Prop :=
  ∀ (s : State) (f : RxFrame) (r : RefusalReason), AtDispatcher s f → byteAt f.msg 1 = 1#8 →
    reasonHolds s f.msg r → (∀ q : RefusalReason, q.index < r.index → ¬reasonHolds s f.msg q) →
    ∃ (detail : Nat) (expected : Word16),
      (r ≠ .nestBusy → detail = 0) ∧
      (r = .nestBusy → ∃ n : Nest, detail = n.val ∧ isFull s f.msg n ∧ ∀ m : Nest, m < n → ¬isFull s f.msg m) ∧
      (∀ st : StreamId, (byteAt f.msg 6).toNat = st.val → expected = (s.stream st).expected) ∧
      (3 < (byteAt f.msg 6).toNat → expected = 0) ∧
      exec .step s = .next { dispatched f s with
        uplink := { (dispatched f s).uplink with
          response :=
            if s.uplink.response.length < 8 then
              s.uplink.response ++ [.refusal f.src
                { tag := BitVec.ofNat 16 (leAt f.msg 4 2), stream := byteAt f.msg 6,
                  stepNumber := BitVec.ofNat 16 (leAt f.msg 14 2), reason := r, detail := detail,
                  expected := expected, freeEntries := freeEntries s,
                  freeBlocks := s.payload.free.length }]
            else s.uplink.response },
        mgmt := { s.mgmt with counters := { s.mgmt.counters with
          refused := upd s.mgmt.counters.refused r.index satInc,
          refusalsLost := if s.uplink.response.length < 8 then s.mgmt.counters.refusalsLost
            else satInc s.mgmt.counters.refusalsLost } },
        notice := { s.notice with
          causes := if s.uplink.response.length < 8 then s.notice.causes else s.notice.causes ||| 64#7 } }

/-- A STEP for which no reason holds is accepted (R6, R12): the first FREE entry from the allocation pointer takes
it (R16), clamped (R11), with its blocks from the head of the free list (R18) and its counts at the number of CLEAR
target nests (R12, R19), less those whose link is not UP or presence EMPTY, whose copies end ABSENT at once (R45).
With none left it is COMPLETE, its blocks are back, and at the head of its list it is the candidate where there is
none (R12, R19, R129, R133). The other entries and every block not taken keep their contents, and the stream's
number advances (R2). -/
def Obligations.AcceptedStepFillsEntry : Prop :=
  ∀ (s : State) (f : RxFrame), AtDispatcher s f → byteAt f.msg 1 = 1#8 →
    (∀ r : RefusalReason, ¬reasonHolds s f.msg r) → PortsOk s →
    ∃ (t : State) (e : EntryId) (st : StreamId) (row : Fin 64) (target : NestSet) (capture : Capture)
      (policy : Policy) (count served reps deadline : Nat) (taken rest : List BlockId),
      exec .step s = .next t ∧
      (byteAt f.msg 6).toNat = st.val ∧ (byteAt f.msg 9).toNat = row.val ∧
      [.none, .each, Capture.coalesce][(byteAt f.msg 10).toNat]? = some capture ∧
      [.continue_, Policy.stop][(byteAt f.msg 11).toNat]? = some policy ∧
      (∀ n : Nest, NestSet.has target n = true ↔ inTarget s f.msg n) ∧
      count = allNests.countP (fun n => NestSet.has target n && (s.lotNest n).standing = .clear) ∧
      served = allNests.countP (fun n => NestSet.has target n && (s.lotNest n).standing = .clear &&
        (s.port n).link = .up && (s.port n).presence = .present) ∧
      reps = (if (byteAt f.msg 12).toNat = 0 then 1
        else if 64 < (byteAt f.msg 12).toNat then 64 else (byteAt f.msg 12).toNat) ∧
      deadline = (if leAt f.msg 16 2 = 0 then 1 else leAt f.msg 16 2) ∧
      s.payload.free = taken ++ rest ∧ taken.length = (leAt f.msg 20 2 + 255) / 256 ∧
      (s.entry e).state = .free ∧
      (∀ d : EntryId, (s.entry d).state = .free → (e - s.table.alloc).val ≤ (d - s.table.alloc).val) ∧
      t.table.alloc = e + 1 ∧
      t.entry e =
        { state := if served = 0 then .complete else .live, stream := st,
          stepNumber := BitVec.ofNat 16 (leAt f.msg 14 2), target := target, profile := row,
          capture := capture, policy := policy, reps := reps, deadline := deadline,
          gap := leAt f.msg 18 2, payloadLength := leAt f.msg 20 2,
          blocks := if served = 0 then [] else taken, pending := served,
          clamped := decide (reps ≠ (byteAt f.msg 12).toNat ∨ deadline ≠ leAt f.msg 16 2),
          aborted := false, variants := [] } ∧
      (∀ d : EntryId, d ≠ e → t.entry d = s.entry d ∧ t.payload.refs[d.val] = s.payload.refs[d.val]) ∧
      t.payload.refs[e.val] = served ∧
      t.payload.free = (if served = 0 then rest ++ taken else rest) ∧
      (taken.Nodup → served ≠ 0 → stepPayload t e = f.msg.drop 22) ∧
      (∀ b : BlockId, b ∉ taken → t.payload.blocks[b.val] = s.payload.blocks[b.val]) ∧
      (∀ x : StreamId, t.stream x =
        if x = st then { s.stream st with expected := (s.stream st).expected + 1 } else s.stream x) ∧
      (∀ x : StreamId, t.retireList x = if x = st then s.retireList st ++ [e] else s.retireList x) ∧
      t.retire.rotation = s.retire.rotation ∧ t.retire.progress = s.retire.progress ∧
      (s.retire.candidate ≠ none ∨ s.retire.progress ≠ none → t.retire.candidate = s.retire.candidate) ∧
      (s.retire.candidate = none → s.retire.progress = none → (∀ x : StreamId, completeHead s x = none) →
        (∀ x : StreamId, (s.retireList x).head? ≠ some e) →
        t.retire.candidate = if served = 0 ∧ s.retireList st = [] then some e else none) ∧
      (∀ r : Fin 64, t.profile r = if r = row ∧ row ≠ 0
        then { s.profile r with pins := (s.profile r).pins + 1 } else s.profile r) ∧
      t.mgmt = { s.mgmt with counters := { s.mgmt.counters with
        stepsAccepted := satInc s.mgmt.counters.stepsAccepted } } ∧
      t.notice = { s.notice with
        causes := if count ≠ 0 ∧ s.mgmt.settings.payloadLow ≤ s.payload.free.length ∧
            rest.length < s.mgmt.settings.payloadLow
          then s.notice.causes ||| 16#7 else s.notice.causes } ∧
      t.uplink = (dispatched f s).uplink ∧ t.dispatcher = (dispatched f s).dispatcher ∧
      t.groups = s.groups ∧ t.lot.isOpen = s.lot.isOpen ∧ t.lot.id = s.lot.id ∧ t.coalesce = s.coalesce ∧
      t.judge.codeSets = s.judge.codeSets ∧ t.phase = s.phase ∧ t.signal = s.signal ∧ t.phyUp = s.phyUp

/-- The fan-out of an accepted step (R41, R42): each CLEAR target nest that is UP and PRESENT has one QUEUED copy at
the tail of its queue and a cleared record; one that is not has its copy ended ABSENT at once, delivered to the
Lot Controller, its port as it was (R45); every other target nest keeps its port and its record holds SKIPPED,
which is not delivered; neither is judged (R106). No other nest and no other entry's record changes. -/
def Obligations.AcceptedStepFansOut : Prop :=
  ∀ (s : State) (f : RxFrame), AtDispatcher s f → byteAt f.msg 1 = 1#8 →
    (∀ r : RefusalReason, ¬reasonHolds s f.msg r) → PortsOk s →
    ∃ (t : State) (e : EntryId) (st : StreamId) (row : Fin 64),
      exec .step s = .next t ∧ t.table.alloc = e + 1 ∧ (s.entry e).state = .free ∧
      (byteAt f.msg 6).toNat = st.val ∧ (byteAt f.msg 9).toNat = row.val ∧ (t.entry e).profile = row ∧
      (∀ n : Nest, inTarget s f.msg n → (s.lotNest n).standing = .clear →
        (s.port n).link = .up → (s.port n).presence = .present →
        t.port n = { s.port n with queue := (s.port n).queue ++
          [{ entry := e, stream := st, stepNumber := BitVec.ofNat 16 (leAt f.msg 14 2), state := .queued,
             runs := 0, freed := false }] } ∧
        t.lotNest n = s.lotNest n ∧ t.record e n = Record.cleared) ∧
      (∀ n : Nest, inTarget s f.msg n → (s.lotNest n).standing = .clear →
        ¬((s.port n).link = .up ∧ (s.port n).presence = .present) →
        t.port n = s.port n ∧
        t.lotNest n = { s.lotNest n with outcomes := (s.lotNest n).outcomes ++ [(e, .absent)] } ∧
        (t.record e n).outcome = some .absent ∧ (t.record e n).runs = 0 ∧ (t.record e n).variant = none ∧
        SlotsNotJudged t e (t.record e n).slots) ∧
      (∀ n : Nest, inTarget s f.msg n → (s.lotNest n).standing ≠ .clear →
        t.port n = s.port n ∧ t.lotNest n = s.lotNest n ∧
        (t.record e n).outcome = some .skipped ∧ (t.record e n).runs = 0 ∧ (t.record e n).variant = none ∧
        SlotsNotJudged t e (t.record e n).slots) ∧
      (∀ n : Nest, ¬inTarget s f.msg n →
        t.port n = s.port n ∧ t.lotNest n = s.lotNest n ∧ t.record e n = s.record e n) ∧
      (∀ i : Fin 4, (t.profile row).slots[i.val].mode = (s.profile row).slots[i.val].mode) ∧
      ∀ d : EntryId, d ≠ e → ∀ n : Nest, t.record d n = s.record d n

/-! ### Requests that read -/

/-- DESCRIBE without arguments is answered OK with the 74 bytes of R181 (11.5), and changes nothing besides the
answer. Every field is little-endian (R190); that the last transmitted byte of an address is its least significant is
the model's reading (log entry 35). -/
def Obligations.DescribeAnswers : Prop :=
  ∀ (s : State) (f : RxFrame), Asked s f .describe [] → ∃ r,
    exec .describe s = .next (answered f .ok r s) ∧ r.length = 74 ∧
    leAt r 0 2 = 0x0A71 ∧ leAt r 2 2 = 0x2032 ∧ byteAt r 4 = 1#8 ∧ byteAt r 5 = 32#8 ∧ byteAt r 6 = 4#8 ∧
    (byteAt r 7).toNat = s.mgmt.strap.toNat ∧ leAt r 8 6 = s.uplink.mac.toNat ∧
    byteAt r 14 = (if s.mgmt.fromFlash then 1#8 else 0#8) ∧ leAt r 16 4 = s.mgmt.time.toNat ∧
    byteAt r 20 = 26#8 ∧
    (List.range 26).map (fun i => leAt r (22 + 2 * i) 2) =
      [64, 512, 256, 1024, 8, 64, 64, 63, 4, 8, 4096, 256, 2, 512, 256, 32, 256, 1024, 4, 16, 8, 2, 32,
       16, 1472, 8]

/-- GET_STATE without arguments is answered OK with the 884 bytes of 11.6, every field from where R182 says, and
reading changes nothing besides the answer. The parts are those of one state, the step being whole (log entry
20); a head that is none has 0xFF in each of its fields but the head copy state (R190), in the two bytes of a step
number the value 0x00FF (log entry 12). The codes are those of 11.1. Every field is little-endian (R190); that the
last transmitted byte of an address is its least significant is the model's reading (log entry 35), and that `throttle
running` is sent as 1 or 0 is the model's choice (log entry 38). -/
def Obligations.GetStateAnswers : Prop :=
  [Standing.none, .clear, .failed, .lost, .vacant, .excluded].map Standing.code = [0, 1, 2, 3, 4, 5] ∧
  [LinkState.down, .training, .up].map LinkState.code = [0, 1, 2] ∧
  [Presence.empty, .present].map Presence.code = [0, 1] ∧
  (∀ tag : Word16, [Service.idle, .waiting tag, .gap, .halting tag, .stalled].map Service.code = [0, 1, 2, 3, 4]) ∧
  [CopyState.queued, .inService, .closing].map CopyState.code = [1, 2, 3] ∧
  [EntryState.free, .live, .complete, .reporting].map EntryState.code = [0, 1, 2, 3] ∧
  [SlotState.empty, .pending, .held].map SlotState.code = [0, 1, 2] ∧
  ∀ (s : State) (f : RxFrame), Asked s f .getState [] → ∃ r,
    exec .getState s = .next (answered f .ok r s) ∧ r.length = 884 ∧
    byteAt r 0 = (if s.lot.isOpen then 1#8 else 0#8) ∧ leAt r 1 3 = 0 ∧ leAt r 4 4 = s.lot.id.toNat ∧
    (∀ n : Nest, (byteAt r (8 + n.val)).toNat = (s.lotNest n).standing.code) ∧
    (∀ st : StreamId, byteAt r (40 + 8 * st.val) = (if (s.stream st).draining then 1#8 else 0#8) ∧
      leAt r (42 + 8 * st.val) 2 = (s.stream st).expected.toNat ∧
      byteAt r (44 + 8 * st.val) = BitVec.ofNat 8 (s.retireList st).length ∧ byteAt r (45 + 8 * st.val) = 0#8 ∧
      (s.retireList st = [] → byteAt r (41 + 8 * st.val) = 0xFF#8 ∧ leAt r (46 + 8 * st.val) 2 = 0xFF) ∧
      ∀ e rest, s.retireList st = e :: rest →
        (byteAt r (41 + 8 * st.val)).toNat = (s.entry e).state.code ∧
        leAt r (46 + 8 * st.val) 2 = (s.entry e).stepNumber.toNat) ∧
    (s.retire.candidate = none → byteAt r 72 = 0xFF#8 ∧ leAt r 76 2 = 0) ∧
    (∀ e, s.retire.candidate = some e →
      (byteAt r 72).toNat = (s.entry e).stream.val ∧ leAt r 76 2 = (s.entry e).stepNumber.toNat) ∧
    byteAt r 73 = BitVec.ofNat 8 s.retire.rotation.val ∧
    byteAt r 74 = BitVec.ofNat 8 (32 - s.uplink.report.length) ∧ byteAt r 75 = 0#8 ∧ leAt r 78 2 = 0 ∧
    byteAt r 80 = BitVec.ofNat 8 (freeEntries s) ∧ byteAt r 81 = 0#8 ∧
    leAt r 82 2 = s.payload.free.length % 65536 ∧ leAt r 84 2 = s.coalesce.free.length % 65536 ∧
    leAt r 86 2 = 0 ∧
    (byteAt r 88).toNat = s.notice.causes.toNat ∧ (byteAt r 89).toNat = s.mgmt.settings.mask.toNat ∧
    (byteAt r 90 = 1#8 ↔ ∃ d, s.notice.throttle = .running d) ∧
    (byteAt r 90 = 0#8 ↔ ∀ d, s.notice.throttle ≠ .running d) ∧ byteAt r 91 = 0#8 ∧
    leAt r 92 2 = s.notice.serial.toNat ∧ leAt r 94 2 = 0 ∧ leAt r 96 4 = s.notice.links.toNat ∧
    leAt r 100 4 = s.notice.standings.toNat ∧
    byteAt r 104 = (if s.uplink.linkUp then 2#8 else 0#8) ∧
    byteAt r 105 = BitVec.ofNat 8 s.uplink.rx.length ∧
    byteAt r 106 = BitVec.ofNat 8 s.uplink.response.length ∧
    byteAt r 107 = BitVec.ofNat 8 s.uplink.notice.length ∧
    byteAt r 108 = BitVec.ofNat 8 s.uplink.report.length ∧
    byteAt r 109 = BitVec.ofNat 8 s.uplink.chatter.length ∧ leAt r 110 6 = f.src.toNat ∧
    ∀ n : Nest,
      (byteAt r (116 + 24 * n.val)).toNat = (s.port n).link.code ∧
      (byteAt r (117 + 24 * n.val)).toNat = (s.port n).presence.code ∧
      (byteAt r (118 + 24 * n.val)).toNat = (s.port n).service.code ∧
      byteAt r (119 + 24 * n.val) = (if (s.port n).stopHold then 1#8 else 0#8) ∧
      leAt r (120 + 24 * n.val) 4 = (s.port n).adapterId.toNat ∧
      leAt r (124 + 24 * n.val) 2 = (s.port n).runTag.toNat ∧
      (∀ tag, (s.port n).service = .waiting tag ∨ (s.port n).service = .halting tag →
        leAt r (126 + 24 * n.val) 2 = tag.toNat) ∧
      ((s.port n).service = .idle ∨ (s.port n).service = .gap ∨ (s.port n).service = .stalled →
        leAt r (126 + 24 * n.val) 2 = 0) ∧
      byteAt r (128 + 24 * n.val) = BitVec.ofNat 8 (s.port n).queue.length ∧
      ((s.port n).queue = [] → byteAt r (129 + 24 * n.val) = 0#8 ∧ byteAt r (130 + 24 * n.val) = 0xFF#8 ∧
        leAt r (132 + 24 * n.val) 2 = 0xFF) ∧
      (∀ c rest, (s.port n).queue = c :: rest →
        (byteAt r (129 + 24 * n.val)).toNat = c.state.code ∧
        (byteAt r (130 + 24 * n.val)).toNat = c.stream.val ∧
        leAt r (132 + 24 * n.val) 2 = c.stepNumber.toNat) ∧
      (byteAt r (131 + 24 * n.val)).toNat = s.notice.slots[n.val].state.code ∧
      leAt r (134 + 24 * n.val) 2 = s.notice.slots[n.val].code.toNat ∧
      byteAt r (136 + 24 * n.val) = (if s.notice.slots[n.val].superseded then 1#8 else 0#8) +
        (if s.notice.slots[n.val].missed then 2#8 else 0#8) ∧
      leAt r (137 + 24 * n.val) 3 = 0

/-- GET_COUNTERS with clear option NO or YES is answered OK with the 212 counters in index order (11.7); NO
leaves them as they are, YES sets every one to 0 and nothing else (R186). That all are read from one state, where
R186 lets events stand between two readings, is the model's (log entry 20). -/
def Obligations.CountersReadAndCleared : Prop :=
  ∀ (s : State) (f : RxFrame), ∃ (r : List Byte) (u : State),
    (Asked s f .getCounters [0#8] → exec .getCounters s = .next (answered f .ok r s)) ∧
    (Asked s f .getCounters [1#8] → exec .getCountersClear s = .next (answered f .ok r u)) ∧
    r.length = 852 ∧ leAt r 0 2 = 212 ∧
    (List.range 20).map (fun i => BitVec.ofNat 32 (leAt r (4 + 4 * i) 4)) =
      [s.mgmt.counters.rxAccepted, s.mgmt.counters.rxFilter, s.mgmt.counters.rxMalformed,
       s.mgmt.counters.rxOverflow, s.mgmt.counters.stepsAccepted] ++ s.mgmt.counters.refused.toList ++
      [s.mgmt.counters.refusalsLost, s.mgmt.counters.reports, s.mgmt.counters.notices,
       s.mgmt.counters.evictions, s.mgmt.counters.truncations] ∧
    (∀ n : Nest, (List.range 6).map (fun k => BitVec.ofNat 32 (leAt r (84 + 24 * n.val + 4 * k) 4)) =
      [(s.port n).counters.runsSent, (s.port n).counters.answers, (s.port n).counters.late,
       (s.port n).counters.badFrames, (s.port n).counters.timeouts, (s.port n).counters.chatterDropped]) ∧
    u = { s with ports := u.ports, mgmt := { s.mgmt with counters := Globals.zero } } ∧
    (∀ n : Nest, u.port n = { s.port n with counters := NestCounters.zero }) ∧
    ∀ c ∈ allCounters u, c = 0#32

/-- GET_ROWS of a known table with rows inside it is answered OK with their images in order; with a row outside
it, BAD_ROW with the lowest such row; with a count of 0 or above the table's, or another argument length,
BAD_REQUEST; an unknown table is UNKNOWN_TABLE whatever the length (R184, R193). Each changes nothing besides the
answer. The codes, rows and image sizes of the tables are those of 11.1, R183 and 11.4, and an image holds its row
field by field. That the rows are read from one state (log entry 20), and that the undefined bits of a measure slot's
flags byte and its reserved byte read back as 0 (log entry 17), is the model's. -/
def Obligations.GetRowsAnswers : Prop :=
  [Table.group, .profile, .codeSet, .nestConfig, .allowList, .settings].map
    (fun t => (t.code, t.firstRow, t.lastRow, t.maxRows, t.imageSize)) =
      [(1, 0, 63, 64, 6), (2, 1, 63, 12, 108), (3, 0, 63, 16, 66), (4, 0, 31, 32, 4), (5, 0, 3, 4, 8),
       (6, 0, 0, 1, 10)] ∧
  (∀ (s : State) (t : Table) (row : Nat), t.firstRow ≤ row → row ≤ t.lastRow →
    RowImageIs s t row (rowImage s t row)) ∧
  (∀ (s : State) (f : RxFrame) (t : Table) (first count : Nat), first < 256 → count < 256 →
    Asked s f .getRows [BitVec.ofNat 8 t.code, BitVec.ofNat 8 first, BitVec.ofNat 8 count] →
    (0 < count → count ≤ t.maxRows → t.firstRow ≤ first → first + count ≤ t.lastRow + 1 →
      exec .getRows s = .next (answered f .ok
        (BitVec.ofNat 8 t.code :: BitVec.ofNat 8 count ::
          (List.range count).flatMap (fun i => rowImage s t (first + i))) s)) ∧
    (0 < count → count ≤ t.maxRows → ∀ bad, first ≤ bad → bad < first + count →
      (bad < t.firstRow ∨ t.lastRow < bad) →
      (∀ r, first ≤ r → r < bad → t.firstRow ≤ r ∧ r ≤ t.lastRow) →
      exec .getRows s = .next (answered f .badRow [BitVec.ofNat 8 bad] s)) ∧
    ((count = 0 ∨ t.maxRows < count) → exec .getRows s = .next (answered f .badRequest [] s))) ∧
  ∀ (s : State) (f : RxFrame) (args : List Byte), Asked s f .getRows args →
    (args = [] → exec .getRows s = .next (answered f .badRequest [] s)) ∧
    ∀ table rest, args = table :: rest →
      ((table = 0#8 ∨ 6 < table.toNat) → exec .getRows s = .next (answered f .unknownTable [] s)) ∧
      (1 ≤ table.toNat → table.toNat ≤ 6 → rest.length ≠ 2 →
        exec .getRows s = .next (answered f .badRequest [] s))

/-! ### Table writes -/

/-- PUT_ROWS takes its images in order, each written before the next is taken, and answers OK with their number;
the first that fails stops it, answered with its status, the number written and its row number, the rows before
it standing (R183). Which images fail, by the checks of each table (R38, R64, R86, R89, R174, R185, R194). An
unknown table is UNKNOWN_TABLE whatever the length, and no table byte at all BAD_REQUEST (R183, R193), by any of
the six rows (the model's choice, log entry 4). -/
def Obligations.PutRowsWritesInOrder : Prop :=
  (∀ (s : State) (f : RxFrame) (imgs : List (List Byte)) (u : Nat → State) (k : Nat),
    ∀ x ∈ [(Table.group, Instr.putRowsGroup), (.profile, .putRowsProfile), (.codeSet, .putRowsCodeSet),
      (.nestConfig, .putRowsNestConfig), (.allowList, .putRowsAllowList), (.settings, .putRowsSettings)],
    Asked s f .putRows (BitVec.ofNat 8 x.1.code :: BitVec.ofNat 8 imgs.length :: imgs.flatten) →
    0 < imgs.length → imgs.length ≤ x.1.maxRows → (∀ img ∈ imgs, img.length = x.1.imageSize) →
    u 0 = s → (∀ i img, i < k → imgs[i]? = some img → writeRow x.1 img (u i) = .written (u (i + 1))) →
    (k = imgs.length →
      exec x.2 s = .next (answered f .ok [BitVec.ofNat 8 imgs.length, 0#8] (u k))) ∧
    (∀ bad status, imgs[k]? = some bad → writeRow x.1 bad (u k) = .refused status →
      exec x.2 s = .next (answered f status [BitVec.ofNat 8 k, byteAt bad 0] (u k)))) ∧
  (∀ (s : State) (f : RxFrame) (args : List Byte),
    ∀ x ∈ [(Table.group, Instr.putRowsGroup), (.profile, .putRowsProfile), (.codeSet, .putRowsCodeSet),
      (.nestConfig, .putRowsNestConfig), (.allowList, .putRowsAllowList), (.settings, .putRowsSettings)],
    Asked s f .putRows args → byteAt args 0 = BitVec.ofNat 8 x.1.code →
    (args.length < 2 ∨ byteAt args 1 = 0#8 ∨ x.1.maxRows < (byteAt args 1).toNat ∨
      args.length ≠ 2 + (byteAt args 1).toNat * x.1.imageSize) →
    exec x.2 s = .next (answered f .badRequest [] s)) ∧
  (∀ (s : State) (f : RxFrame) (args : List Byte),
    ∀ c ∈ [Instr.putRowsGroup, .putRowsProfile, .putRowsCodeSet, .putRowsNestConfig, .putRowsAllowList,
      .putRowsSettings],
    Asked s f .putRows args →
    (args = [] → exec c s = .next (answered f .badRequest [] s)) ∧
    ∀ table rest, args = table :: rest → (table = 0#8 ∨ 6 < table.toNat) →
      exec c s = .next (answered f .unknownTable [] s)) ∧
  ∀ (s : State) (img : List Byte),
    (∀ t : Table, ((byteAt img 0).toNat < t.firstRow ∨ t.lastRow < (byteAt img 0).toNat) →
      writeRow t img s = .refused .badRow) ∧
    ((leAt img 2 2 = 0 ∨ 1000 < leAt img 2 2) → writeRow .nestConfig img s = .refused .badRow) ∧
    (1 < (byteAt img 1).toNat →
      writeRow .allowList img s = .refused .badRow ∧ writeRow .profile img s = .refused .badRow) ∧
    (byteAt img 1 = 1#8 → (byteAt img 2).getLsbD 0 = true → 8 ≤ img.length →
      writeRow .allowList img s = .refused .badRow) ∧
    ((512 < leAt img 4 2 ∨ 512 < leAt img 6 2 ∨ (byteAt img 8).getLsbD 7 = true) →
      writeRow .settings img s = .refused .badRow) ∧
    (∀ r : Fin 64, (byteAt img 0).toNat = r.val → r ≠ 0 → byteAt img 1 = 1#8 → (s.profile r).pins = 0 →
      (decodeSlots img = none ∨ ∃ slots, decodeSlots img = some slots ∧ ∃ i : Fin 4, slots[i.val].valid = false) →
      writeRow .profile img s = .refused .badRow) ∧
    ∀ p : Fin 64, (s.profile p).pins ≠ 0 → ∀ i : Fin 4, (s.profile p).slots[i.val].mode = .code →
      (s.profile p).slots[i.val].codeSet.toNat = (byteAt img 0).toNat / 8 → (byteAt img 0).toNat < 64 →
      writeRow .codeSet img s = .refused .inUse

/-- PUT_ROWS of one good image to the Group, Code Set, Allow List or Settings table replaces that row and nothing
else, and is answered OK with one row written (R38, R88, R174, R183, R185). -/
def Obligations.PutRowsReplacesOneRow : Prop :=
  ∀ (s : State) (f : RxFrame) (img : List Byte),
    (∀ r : Fin 64, Asked s f .putRows (1#8 :: 1#8 :: img) → img.length = 6 → (byteAt img 0).toNat = r.val →
      exec .putRowsGroup s = .next (answered f .ok [1#8, 0#8]
        { s with groups := upd s.groups r (fun _ => BitVec.ofNat 32 (leAt img 2 4)) })) ∧
    (∀ r : Fin 64, Asked s f .putRows (3#8 :: 1#8 :: img) → img.length = 66 → (byteAt img 0).toNat = r.val →
      (∀ p : Fin 64, (s.profile p).pins ≠ 0 → ∀ i : Fin 4, (s.profile p).slots[i.val].mode = .code →
        (s.profile p).slots[i.val].codeSet.toNat ≠ r.val / 8) →
      ∃ v : BitVec 512,
        (∀ j b : Nat, j < 64 → b < 8 → v.getLsbD (8 * j + b) = (byteAt img (2 + j)).getLsbD b) ∧
        exec .putRowsCodeSet s = .next (answered f .ok [1#8, 0#8]
          { s with judge := { s.judge with codeSets := upd s.judge.codeSets r (fun _ => v) } })) ∧
    (∀ (i : Fin 4) (addr : MacAddr), Asked s f .putRows (5#8 :: 1#8 :: img) → img.length = 8 →
      (byteAt img 0).toNat = i.val → addr = BitVec.ofNat 48 (beNat (img.drop 2)) →
      (byteAt img 1 = 1#8 → (byteAt img 2).getLsbD 0 = false →
        exec .putRowsAllowList s = .next (answered f .ok [1#8, 0#8]
          { s with uplink := { s.uplink with
              allow := upd s.uplink.allow i (fun _ => { valid := true, addr := addr }) } })) ∧
      (byteAt img 1 = 0#8 →
        exec .putRowsAllowList s = .next (answered f .ok [1#8, 0#8]
          { s with uplink := { s.uplink with
              allow := upd s.uplink.allow i (fun _ => { valid := false, addr := 0 }) } }))) ∧
    (Asked s f .putRows (6#8 :: 1#8 :: img) → img.length = 10 → byteAt img 0 = 0#8 →
      leAt img 4 2 ≤ 512 → leAt img 6 2 ≤ 512 → (byteAt img 8).getLsbD 7 = false →
      exec .putRowsSettings s = .next (answered f .ok [1#8, 0#8]
        { s with mgmt := { s.mgmt with settings :=
          { throttle := leAt img 2 2, payloadLow := leAt img 4 2, replyLow := leAt img 6 2,
            mask := (byteAt img 8).setWidth 7 } } }))

/-- PUT_ROWS of one Profile image to a row with pin count 0: with the defined byte 1 and four slots, as the layout
of 11.4 has them, that pass the slot checks of R86, the row holds them; with a slot of an unknown mode or failing a
check it is refused BAD_ROW; with the defined byte 0 the row is undefined with every slot field 0 (R84, R86). A
pinned row is refused IN_USE and stays (R86, R87). -/
def Obligations.PutRowsProfileReplacesUnpinnedRow : Prop :=
  ∀ (s : State) (f : RxFrame) (img : List Byte) (r : Fin 64), r ≠ 0 →
    Asked s f .putRows (2#8 :: 1#8 :: img) → img.length = 108 → (byteAt img 0).toNat = r.val →
    (∀ slots : Vector MeasureSlot 4, (s.profile r).pins = 0 → byteAt img 1 = 1#8 →
      (∀ i : Fin 4, SlotImage img i slots[i.val] ∧ SlotPasses slots[i.val]) →
      exec .putRowsProfile s = .next (answered f .ok [1#8, 0#8]
        (s.updProfile r (fun _ => { defined := true, slots := slots, pins := 0 })))) ∧
    ((s.profile r).pins = 0 → byteAt img 1 = 1#8 →
      (∃ i : Fin 4, ∀ m : MeasureSlot, SlotImage img i m → ¬SlotPasses m) →
      exec .putRowsProfile s = .next (answered f .badRow [0#8, byteAt img 0] s)) ∧
    ((s.profile r).pins = 0 → byteAt img 1 = 0#8 → ∃ row : ProfileRow,
      row.defined = false ∧ row.pins = 0 ∧ (∀ i : Fin 4, row.slots[i.val] = MeasureSlot.zero) ∧
      exec .putRowsProfile s = .next (answered f .ok [1#8, 0#8] (s.updProfile r (fun _ => row)))) ∧
    ((s.profile r).pins ≠ 0 → (byteAt img 1).toNat ≤ 1 →
      exec .putRowsProfile s = .next (answered f .inUse [0#8, byteAt img 0] s))

/-- PUT_ROWS of one good Nest Config image stores the row; a change of enabled moves the link at once: clear to
set trains a DOWN link with signal, set to clear drops a link that is not DOWN (R60, R64, R65). That the answer is
placed within the write, the absence of a disabled nest still to be taken, is the model's (log entry 28). -/
def Obligations.PutRowsNestConfigMovesLink : Prop :=
  ∀ (s : State) (f : RxFrame) (img : List Byte) (n : Nest) (c : NestConfig),
    Asked s f .putRows (4#8 :: 1#8 :: img) → img.length = 4 → (byteAt img 0).toNat = n.val →
    c = { enabled := (byteAt img 1).getLsbD 0, excluded := (byteAt img 1).getLsbD 1,
          chatter := (byteAt img 1).getLsbD 2, haltGrace := leAt img 2 2 } →
    1 ≤ c.haltGrace → c.haltGrace ≤ 1000 →
    ∃ u, exec .putRowsNestConfig s = .next (answered f .ok [1#8, 0#8] u) ∧
      (c.enabled = (s.port n).config.enabled → u = s.updPort n (fun p => { p with config := c })) ∧
      ((s.port n).config.enabled = false → c.enabled = true →
        Trained (fun m => decide (m = n) && decide ((s.port n).link = .down) && s.signal[n.val])
          (s.updPort n (fun p => { p with config := c })) u) ∧
      ((s.port n).config.enabled = true → c.enabled = false → (s.port n).link ≠ .down →
        LinkDropped n (s.updPort n (fun p => { p with config := c })) u) ∧
      ((s.port n).config.enabled = true → c.enabled = false → (s.port n).link = .down →
        u = s.updPort n (fun p => { p with config := c }))

/-! ### Lots -/

/-- OPEN_LOT with the lot CLOSED and every entry FREE opens it: the id is recorded, every tally is 0 and each
standing is by the first line of R25 that applies; STANDING is not raised. With the lot OPEN it is answered
WRONG_LOT_STATE, and with an entry in use BUSY, and nothing changes besides the answer (R24). That the events
under way (log entry 21) and the voids not yet taken (log entry 31) stay is the model's. -/
def Obligations.OpenLotGivesStandings : Prop :=
  ∀ (s : State) (f : RxFrame) (args : List Byte), Asked s f .openLot args → args.length = 4 →
    (s.lot.isOpen = false → (∀ e : EntryId, (s.entry e).state = .free) → ∃ u r,
      exec .openLot s = .next (answered f .ok r u) ∧
      u = { s with lot := { isOpen := true, id := BitVec.ofNat 32 (leNat args), nests := u.lot.nests } } ∧
      (∀ n : Nest, u.lotNest n = { s.lotNest n with
        passes := 0, marginals := 0, failures := 0,
        standing :=
          if (s.port n).config.excluded = true then .excluded
          else if (s.port n).config.enabled = true ∧ (s.port n).link = .up ∧
              (s.port n).presence = .present ∧ (s.port n).service ≠ .stalled then .clear
          else .vacant }) ∧
      r.length = 20 ∧ leAt r 0 4 = leNat args ∧
      ∀ n : Nest,
        ((leAt r 4 4).testBit n.val = true ↔ (u.lotNest n).standing = .clear) ∧
        ((leAt r 8 4).testBit n.val = true ↔ (u.lotNest n).standing = .vacant) ∧
        ((leAt r 12 4).testBit n.val = true ↔ (u.lotNest n).standing = .excluded) ∧
        ((leAt r 16 4).testBit n.val = true ↔ (s.port n).link = .up)) ∧
    (s.lot.isOpen = true → exec .openLot s = .next (answered f .wrongLotState [] s)) ∧
    (s.lot.isOpen = false → (∃ e : EntryId, (s.entry e).state ≠ .free) →
      exec .openLot s = .next (answered f .busy [] s))

/-- CLOSE_LOT with the lot OPEN and every entry FREE closes it: every standing is NONE, the id and the tallies
stay, and the summary carries the standing at the close and the tallies of each nest; otherwise WRONG_LOT_STATE
or BUSY, and nothing changes besides the answer (R26). That the events under way (log entry 21) and the voids not
yet taken (log entry 31) stay is the model's. -/
def Obligations.CloseLotSummarises : Prop :=
  ∀ (s : State) (f : RxFrame), Asked s f .closeLot [] →
    (s.lot.isOpen = true → (∀ e : EntryId, (s.entry e).state = .free) → ∃ u r,
      exec .closeLot s = .next (answered f .ok r u) ∧
      u = { s with lot := { s.lot with isOpen := false, nests := u.lot.nests } } ∧
      (∀ n : Nest, u.lotNest n = { s.lotNest n with standing := .none }) ∧
      r.length = 260 ∧ leAt r 0 4 = s.lot.id.toNat ∧
      ∀ n : Nest, (byteAt r (4 + 8 * n.val)).toNat = n.val ∧
        (byteAt r (5 + 8 * n.val)).toNat = (s.lotNest n).standing.code ∧
        leAt r (6 + 8 * n.val) 2 = (s.lotNest n).passes.toNat ∧
        leAt r (8 + 8 * n.val) 2 = (s.lotNest n).marginals.toNat ∧
        leAt r (10 + 8 * n.val) 2 = (s.lotNest n).failures.toNat) ∧
    (s.lot.isOpen = false → exec .closeLot s = .next (answered f .wrongLotState [] s)) ∧
    (s.lot.isOpen = true → (∃ e : EntryId, (s.entry e).state ≠ .free) →
      exec .closeLot s = .next (answered f .busy [] s))

/-- The Lot Controller takes the events of a nest oldest first, so that a stall behind a stop failure waits for it
(R30; log entry 5). STOP_FAILURE: a CLEAR nest becomes FAILED and is given a void, and any other standing stays,
gives no void and clears the stop hold (R28, R74). STALL: a CLEAR nest becomes LOST, raising STANDING, and whatever
the standing a void is given (R30). OUTCOME_DELIVERED: the oldest outcome is taken; PASS raises passes, MARGINAL
marginals, and FAIL, ERRORED or TIMEOUT failures, by one and saturating at 65535; the other outcomes tally nothing,
and the standing and every other nest stay (R36). -/
def Obligations.StopFailureStallAndOutcomeTaken : Prop :=
  (∀ (s : State) (n : Nest) (e : EntryId) (rest : List StandingEvent), s.phase = .running →
    (s.lotNest n).events = .stopFailure e :: rest →
    exec (.stall n) s = .next s ∧ exec (.absence n) s = .next s ∧
    ((s.lotNest n).standing = .clear → ∃ v,
      StandingChanged n .failed (s.updLotNest n (fun l => { l with events := rest })) v ∧
      exec (.stopFailure n) s =
        .next (v.updLotNest n (fun l => { l with voids := l.voids ++ [.stopFailure] }))) ∧
    ((s.lotNest n).standing ≠ .clear →
      exec (.stopFailure n) s = .next ((s.updLotNest n (fun l => { l with events := rest })).updPort n
        (fun p => { p with stopHold := false })))) ∧
  (∀ (s : State) (n : Nest) (rest : List StandingEvent), s.phase = .running →
    (s.lotNest n).events = .stall :: rest → ∃ v,
    LostIfClear n (s.updLotNest n (fun l => { l with events := rest })) v ∧
    exec (.stall n) s = .next (v.updLotNest n (fun l => { l with voids := l.voids ++ [.stall] }))) ∧
  ∀ (s : State) (n : Nest) (e : EntryId) (o : CopyOutcome) (rest : List (EntryId × CopyOutcome)),
    s.phase = .running → (s.lotNest n).outcomes = (e, o) :: rest →
    exec (.outcomeDelivered n) s = .next (s.updLotNest n (fun l => { l with
      outcomes := rest,
      passes := if o = .pass ∧ l.passes ≠ 65535#16 then l.passes + 1#16 else l.passes,
      marginals := if o = .marginal ∧ l.marginals ≠ 65535#16 then l.marginals + 1#16 else l.marginals,
      failures := if (o = .fail ∨ o = .errored ∨ o = .timeout) ∧ l.failures ≠ 65535#16
        then l.failures + 1#16 else l.failures }))

/-- ABSENCE: a CLEAR nest becomes LOST, raising STANDING; any other standing stays; no void is given (R29). A
RETRAIN of the nest that waits for this absence alone is then answered, and one that waits for more waits for one
fewer, its request unanswered and at the head (R152; log entry 7). -/
def Obligations.AbsenceLosesClearNest : Prop :=
  (∀ (s : State) (n : Nest) (rest : List StandingEvent), s.phase = .running →
    (s.lotNest n).events = .absence :: rest →
    (∀ r m k link, s.dispatcher.task = some (.retrain r m k link) → m ≠ n) → ∃ v,
    LostIfClear n (s.updLotNest n (fun l => { l with events := rest })) v ∧
    exec (.absence n) s = .next v) ∧
  (∀ (s : State) (n : Nest) (rest : List StandingEvent) (r : Req) (k : Nat) (link : LinkState), s.phase = .running →
    (s.lotNest n).events = .absence :: rest →
    s.dispatcher.task = some (.retrain r n k link) → 2 ≤ k → ∃ v,
    LostIfClear n (s.updLotNest n (fun l => { l with events := rest })) v ∧
    exec (.absence n) s = .next { v with
      dispatcher := { s.dispatcher with task := some (.retrain r n (k - 1) link) } }) ∧
  ∀ (s : State) (n : Nest) (rest : List StandingEvent) (r : Req) (link : LinkState), s.phase = .running →
    (s.lotNest n).events = .absence :: rest →
    s.dispatcher.task = some (.retrain r n 1 link) → ∃ v,
    LostIfClear n (s.updLotNest n (fun l => { l with events := rest })) v ∧
    exec (.absence n) s = .next { v with
      dispatcher := { s.dispatcher with task := none },
      uplink := { s.uplink with
        rx := s.uplink.rx.tail,
        response := s.uplink.response ++ [.response { req := r, status := .ok, result :=
          [BitVec.ofNat 8 n.val, 4#8, if (s.port n).config.excluded then 4#8 else 0#8,
           BitVec.ofNat 8 (v.lotNest n).standing.code, BitVec.ofNat 8 link.code,
           0#8, 0#8, 0#8, 0#8, 0#8] }] } }

/-! ### Aborts and nest actions -/

/-- ABORT_STREAM: a stream with a non-empty retire list becomes or stays DRAINING and another stays as it was, its
expected number unchanged; every LIVE entry of the stream is marked ABORTED; and all 32 nest ports then have
their part to take, the request unanswered and at the head (R3, R146, R147). -/
def Obligations.AbortDrainsAndMarks : Prop :=
  ∀ (s : State) (f : RxFrame) (st : StreamId), Asked s f .abortStream [BitVec.ofNat 8 st.val] → ∃ t,
    exec .abortStream s = .next t ∧
    t = { s with
          streams := t.streams, table := { s.table with entries := t.table.entries },
          uplink := { s.uplink with reportAddr := f.src },
          dispatcher := { s.dispatcher with waiting := false, task := t.dispatcher.task } } ∧
    (∀ x : StreamId, t.stream x = { s.stream x with
      draining := (s.stream x).draining || (decide (x = st) && decide (s.retireList st ≠ [])) }) ∧
    (∀ e : EntryId, t.entry e = { s.entry e with
      aborted := (s.entry e).aborted || (decide ((s.entry e).state = .live) && decide ((s.entry e).stream = st)) }) ∧
    t.dispatcher.task = some (.abort
      { dest := f.src, tag := BitVec.ofNat 16 (leAt f.msg 4 2), id := BitVec.ofNat 32 (leAt f.msg 6 4),
        code := byteAt f.msg 10 } st
      ((List.finRange 64).countP (fun e => (s.entry e).state = .live && (s.entry e).stream = st))
      0 0 (BitVec.allOnes 32))

/-- STREAM_HALT_AND_VOID: the nest takes the halt request on a head of the stream and then the stream void, as one
event, and no standing changes; its counts are added, and the last of the 32 nests has the response built
(R148, R149, R150). -/
def Obligations.NestTakesItsPartOfAbort : Prop :=
  ∀ (s : State) (n : Nest) (r : Req) (st : StreamId) (marked halted voided : Nat) (left : NestSet),
    s.phase = .running → s.dispatcher.task = some (.abort r st marked halted voided left) →
    NestSet.has left n = true → ∃ v u h,
      HaltTaken n (fun c => c.stream = st) s v ∧ VoidTaken n (fun c => c.stream = st) v u ∧
      (h = 1 ∧ v ≠ s ∨ h = 0 ∧ v = s) ∧
      (NestSet.erase left n ≠ 0#32 → exec (.streamHaltAndVoid n) s = .next { u with
        dispatcher := { s.dispatcher with task := some (.abort r st marked (halted + h)
          (voided + ((v.port n).queue.filter (fun c => c.state = .queued && c.stream = st)).length)
          (NestSet.erase left n)) } }) ∧
      (NestSet.erase left n = 0#32 → ∃ total,
        total = voided + ((v.port n).queue.filter (fun c => c.state = .queued && c.stream = st)).length ∧
        exec (.streamHaltAndVoid n) s = .next { u with
          dispatcher := { s.dispatcher with task := none },
          uplink := { s.uplink with
            rx := s.uplink.rx.tail,
            response := s.uplink.response ++ [.response { req := r, status := .ok, result :=
              [BitVec.ofNat 8 st.val, if (s.stream st).draining then 1#8 else 0#8,
               (s.stream st).expected.setWidth 8, ((s.stream st).expected >>> 8).setWidth 8,
               BitVec.ofNat 8 (s.retireList st).length, BitVec.ofNat 8 marked, BitVec.ofNat 8 (halted + h),
               0#8, BitVec.ofNat 8 total, BitVec.ofNat 8 (total / 256)] }] } })

/-- NEST_ACTION HALT: a halt request that names no stream, answered OK with the stream and step number of the copy it
halted, 0 where it halted none (R152, R195); the copies behind the head stay QUEUED and the standing stays (R153).
NEST_ACTION INCLUDE: the excluded flag is cleared and nothing more (R156). -/
def Obligations.HaltAndIncludeActions : Prop :=
  ∀ (s : State) (f : RxFrame) (n : Nest),
    (Asked s f .nestAction [BitVec.ofNat 8 n.val, 0#8] → ∃ u r,
      HaltTaken n (fun _ => true) s u ∧
      exec .nestActionHalt s = .next (answered f .ok r u) ∧
      (u = s → r =
        [BitVec.ofNat 8 n.val, 0#8, if (s.port n).config.excluded then 4#8 else 0#8,
         BitVec.ofNat 8 (s.lotNest n).standing.code, BitVec.ofNat 8 (s.port n).link.code,
         0#8, 0#8, 0#8, 0#8, 0#8]) ∧
      (u ≠ s → ∃ c rest, (s.port n).queue = c :: rest ∧ r =
        [BitVec.ofNat 8 n.val, 0#8, if (s.port n).config.excluded then 5#8 else 1#8,
         BitVec.ofNat 8 (s.lotNest n).standing.code, BitVec.ofNat 8 (s.port n).link.code,
         BitVec.ofNat 8 c.stream.val, (s.entry c.entry).stepNumber.setWidth 8,
         ((s.entry c.entry).stepNumber >>> 8).setWidth 8, 0#8, 0#8])) ∧
    (Asked s f .nestAction [BitVec.ofNat 8 n.val, 3#8] → ∃ u,
      u = s.updPort n (fun p => { p with config := { p.config with excluded := false } }) ∧
      exec .nestActionInclude s = .next (answered f .ok
        [BitVec.ofNat 8 n.val, 3#8, 0#8, BitVec.ofNat 8 (s.lotNest n).standing.code,
         BitVec.ofNat 8 (s.port n).link.code, 0#8, 0#8, 0#8, 0#8, 0#8] u))

/-- NEST_ACTION CYCLE, in the order of R154: a CLEAR nest becomes LOST; every QUEUED copy ends VOIDED; the head in
service is halted; and last, with the link UP, a CYCLE frame is sent, and a STALLED nest enters IDLE (R31,
R77). The result data holds the fields of R152, with the stream and step number of the copy halted, 0 where none was
(R195). A void given earlier and not yet taken is taken before the action's own, which then finds the queue empty (log
entry 36). That all is one step (log entry 29), and that a stop failure under way and the stop hold it set stay (log
entry 30), is the model's. -/
def Obligations.CycleAction : Prop :=
  ∀ (s : State) (f : RxFrame) (n : Nest), Asked s f .nestAction [BitVec.ofNat 8 n.val, 1#8] → ∃ a w b c r,
    LostIfClear n s a ∧ WaitingVoidsTaken n a w ∧ VoidTaken n (fun _ => true) w b ∧
    HaltTaken n (fun _ => true) b c ∧
    ((s.port n).link = .up →
      exec .nestActionCycle s = .next (answered f .ok r (c.updPort n (fun p => { p with
        backlog := p.backlog ++ [.cycle],
        service := if p.service = .stalled then .idle else p.service })))) ∧
    ((s.port n).link ≠ .up → exec .nestActionCycle s = .next (answered f .ok r c)) ∧
    r.length = 10 ∧ (byteAt r 0).toNat = n.val ∧ byteAt r 1 = 1#8 ∧
    ((byteAt r 2).getLsbD 0 = true ↔ c ≠ b) ∧ ((byteAt r 2).getLsbD 1 = true ↔ (s.port n).link = .up) ∧
    ((byteAt r 2).getLsbD 2 = (s.port n).config.excluded) ∧ (byteAt r 2).toNat < 8 ∧ HaltedFields n b c r ∧
    byteAt r 9 = 0#8 ∧
    (byteAt r 3).toNat = (a.lotNest n).standing.code ∧ (byteAt r 4).toNat = (s.port n).link.code ∧
    byteAt r 8 = (if (s.lotNest n).voids = []
      then BitVec.ofNat 8 ((s.port n).queue.filter (fun x => x.state = .queued)).length else 0#8)

/-- NEST_ACTION EXCLUDE sets the excluded flag. In an open lot a nest not yet EXCLUDED becomes EXCLUDED, raising
STANDING, and whatever the standing its QUEUED copies end VOIDED and its head in service is halted; in a closed
lot the halt request is given alone (R32, R155). The result data holds the fields of R152, with the stream and step
number of the copy halted, 0 where none was (R195). A void given earlier and not yet taken is taken before the action's
own, which then finds the queue empty (R32; log entry 36). That all is one step (log entry 29), and that a stop
failure under way and the stop hold it set stay (log entry 30), is the model's. -/
def Obligations.ExcludeAction : Prop :=
  ∀ (s : State) (f : RxFrame) (n : Nest), Asked s f .nestAction [BitVec.ofNat 8 n.val, 2#8] → ∃ a b w c d r,
    a = s.updPort n (fun p => { p with config := { p.config with excluded := true } }) ∧
    (s.lot.isOpen = true → (s.lotNest n).standing ≠ .excluded → StandingChanged n .excluded a b) ∧
    (s.lot.isOpen = true → (s.lotNest n).standing = .excluded → b = a) ∧
    (s.lot.isOpen = true → WaitingVoidsTaken n b w ∧ VoidTaken n (fun _ => true) w c) ∧
    (s.lot.isOpen = false → c = a) ∧
    HaltTaken n (fun _ => true) c d ∧
    exec .nestActionExclude s = .next (answered f .ok r d) ∧
    r.length = 10 ∧ (byteAt r 0).toNat = n.val ∧ byteAt r 1 = 2#8 ∧
    ((byteAt r 2).getLsbD 0 = true ↔ d ≠ c) ∧ (byteAt r 2).getLsbD 1 = false ∧ (byteAt r 2).getLsbD 2 = true ∧
    (byteAt r 2).toNat < 8 ∧ (byteAt r 3).toNat = (d.lotNest n).standing.code ∧
    (byteAt r 4).toNat = (s.port n).link.code ∧ HaltedFields n c d r ∧ byteAt r 9 = 0#8 ∧
    byteAt r 8 = (if s.lot.isOpen ∧ (s.lotNest n).voids = []
      then BitVec.ofNat 8 ((s.port n).queue.filter (fun x => x.state = .queued)).length else 0#8)

/-- NEST_ACTION RETRAIN: a link in TRAINING or UP drops, with every effect of R62, and then trains if it has
signal and is enabled; its response waits for the Lot Controller to take the absence (R152, R157; log entry
7). A DOWN link trains under the same conditions and is answered at once, no copy or standing touched. -/
def Obligations.RetrainAction : Prop :=
  ∀ (s : State) (f : RxFrame) (n : Nest), Asked s f .nestAction [BitVec.ofNat 8 n.val, 4#8] →
    ((s.port n).link ≠ .down → ∃ v u,
      LinkDropped n s v ∧
      Trained (fun m => decide (m = n) && (s.port n).config.enabled && s.signal[n.val]) v u ∧
      exec .nestActionRetrain s = .next { u with
        uplink := { s.uplink with reportAddr := f.src },
        dispatcher := { s.dispatcher with
          waiting := false,
          task := some (.retrain
            { dest := f.src, tag := BitVec.ofNat 16 (leAt f.msg 4 2), id := BitVec.ofNat 32 (leAt f.msg 6 4),
              code := byteAt f.msg 10 } n ((s.lotNest n).events.count .absence + 1) (u.port n).link) } }) ∧
    ((s.port n).link = .down → ∃ u,
      Trained (fun m => decide (m = n) && (s.port n).config.enabled && s.signal[n.val]) s u ∧
      exec .nestActionRetrain s = .next (answered f .ok
        [BitVec.ofNat 8 n.val, 4#8, if (s.port n).config.excluded then 4#8 else 0#8,
         BitVec.ofNat 8 (s.lotNest n).standing.code, BitVec.ofNat 8 (u.port n).link.code,
         0#8, 0#8, 0#8, 0#8, 0#8] u))

/-- RELEASE_ATTENTION of a HELD slot empties it and returns the code and flags as they stood; of a PENDING or
EMPTY slot it is answered NOT_HELD, and with a nest above 31 or another argument length BAD_REQUEST, and nothing
changes besides the answer (R171). -/
def Obligations.ReleaseAttentionEmptiesHeldSlot : Prop :=
  (∀ (s : State) (f : RxFrame) (args : List Byte), Asked s f .releaseAttention args →
    (args.length ≠ 1 ∨ 31 < (byteAt args 0).toNat) →
    exec .releaseAttention s = .next (answered f .badRequest [] s)) ∧
  ∀ (s : State) (f : RxFrame) (n : Nest), Asked s f .releaseAttention [BitVec.ofNat 8 n.val] →
    (∀ code superseded missed,
      s.notice.slots[n.val] = { state := .held, code := code, superseded := superseded, missed := missed } →
      exec .releaseAttention s = .next (answered f .ok
        [BitVec.ofNat 8 n.val, (if superseded then 1#8 else 0#8) + (if missed then 2#8 else 0#8),
         code.setWidth 8, (code >>> 8).setWidth 8]
        { s with notice := { s.notice with slots := upd s.notice.slots n (fun _ =>
          { state := .empty, code := 0, superseded := false, missed := false }) } })) ∧
    (s.notice.slots[n.val].state ≠ .held →
      exec .releaseAttention s = .next (answered f .notHeld [BitVec.ofNat 8 n.val] s))

/-- RESTART is answered OK with the number of entries not FREE, and the Dispatcher then takes no message: while a
RESTART has been answered, a STEP and every request change nothing, and that stays so through every command but
POWER_ON, RESET_PIN, RESET_PIN_ASSERTION and the restart itself, which takes place when it is due (R187). -/
def Obligations.RestartStopsDispatch : Prop :=
  (∀ (s : State) (f : RxFrame), Asked s f .restart [] → ∃ t,
    exec .restart s = .next t ∧
    t = { answered f .ok
            [BitVec.ofNat 8 ((List.finRange 64).countP (fun e => (s.entry e).state ≠ .free))] s with
          dispatcher := { s.dispatcher with waiting := false, restart := .waiting } } ∧
    ∀ g, ¬AtDispatcher t g) ∧
  (∀ (s t : State) (c : Instr), s.dispatcher.restart ≠ .none → exec c s = .next t →
    t.dispatcher.restart = .none →
    (∃ strap, c = .powerOn strap ∨ c = .resetPin strap) ∨ c = .resetPinAssertion ∨
      c = .restartEvent ∧ s.phase = .running ∧ s.dispatcher.restart = .due) ∧
  ∀ s : State, s.dispatcher.restart ≠ .none →
    (∀ g, ¬AtDispatcher s g) ∧
    ∀ c ∈ messageRows, exec c s = .next s

/-! ### The lanes -/

/-- LANE_SIGNAL_PRESENT trains a DOWN link of an enabled nest (R60, R61). LANE_SIGNAL_LOST drops a link in
TRAINING or UP with every effect of R62. In any other case only the level seen changes, and so it is while the part
does not run (log entry 25). -/
def Obligations.LaneSignalMovesLink : Prop :=
  (∀ (s : State) (n : Nest), s.phase ≠ .running →
    exec (.laneSignalPresent n) s = .next { s with signal := upd s.signal n (fun _ => true) } ∧
    exec (.laneSignalLost n) s = .next { s with signal := upd s.signal n (fun _ => false) }) ∧
  ∀ (s : State) (n : Nest), s.phase = .running →
    (∃ t, exec (.laneSignalPresent n) s = .next t ∧
      Trained (fun m => decide (m = n) && decide ((s.port n).link = .down) && (s.port n).config.enabled)
        { s with signal := upd s.signal n (fun _ => true) } t) ∧
    ((s.port n).link ≠ .down → ∃ t, exec (.laneSignalLost n) s = .next t ∧
      LinkDropped n { s with signal := upd s.signal n (fun _ => false) } t) ∧
    ((s.port n).link = .down →
      exec (.laneSignalLost n) s = .next { s with signal := upd s.signal n (fun _ => false) })

/-- GREET_REPEAT sends a further GREET in TRAINING, 50 ms after the one before has left (R61). FRAME_LEAVES_LANE
takes the frame being sent off the lane and loads the timer that waits for it: a RUN the deadline of its tag, with
the step's deadline, a HALT the grace of its tag, with the halt grace as it then stands (R65, R68, R73); a CYCLE
loads none. That the duration is the one that stands as the frame leaves, and that a RUN or a HALT of another tag and
a GREET outside TRAINING load none, is the model's reading (log entry 19). -/
def Obligations.LaneFramesStartTimers : Prop :=
  (∀ (s : State) (n : Nest), s.phase = .running → (s.port n).link = .training →
    (s.port n).greet = .running 50 →
    exec (.greetRepeat n) s = .next (s.updPort n (fun p => { p with
      backlog := p.backlog ++ [.greet n], greet := .armed }))) ∧
  (∀ (s : State) (n : Nest) (tag : Word16) (payload : List Byte) (rest : List LaneOut) (c : Copy) (q : List Copy),
    s.phase = .running → (s.port n).backlog = .run tag payload :: rest → (s.port n).queue = c :: q →
    (s.port n).service = .waiting tag → (s.port n).deadline = .armed →
    exec (.frameLeavesLane n) s = .next (s.updPort n (fun p => { p with
      backlog := rest, deadline := .running (s.entry c.entry).deadline }))) ∧
  (∀ (s : State) (n : Nest) (tag : Word16) (rest : List LaneOut),
    s.phase = .running → (s.port n).backlog = .halt tag :: rest →
    (s.port n).service = .halting tag → (s.port n).grace = .armed →
    exec (.frameLeavesLane n) s = .next (s.updPort n (fun p => { p with
      backlog := rest, grace := .running (s.port n).config.haltGrace }))) ∧
  (∀ (s : State) (n : Nest) (tag : Word16) (payload : List Byte) (rest : List LaneOut),
    s.phase = .running → (s.port n).backlog = .run tag payload :: rest →
    (s.port n).service ≠ .waiting tag →
    exec (.frameLeavesLane n) s = .next (s.updPort n (fun p => { p with backlog := rest }))) ∧
  (∀ (s : State) (n m : Nest) (tag : Word16) (rest : List LaneOut), s.phase = .running →
    ((s.port n).backlog = .halt tag :: rest ∧ (s.port n).service ≠ .halting tag) ∨
      ((s.port n).backlog = .greet m :: rest ∧ (s.port n).link ≠ .training) ∨
      (s.port n).backlog = .cycle :: rest →
    exec (.frameLeavesLane n) s = .next (s.updPort n (fun p => { p with backlog := rest }))) ∧
  ∀ (s : State) (n : Nest) (rest : List LaneOut), s.phase = .running →
    (s.port n).backlog = .greet n :: rest → (s.port n).link = .training → (s.port n).greet = .armed →
    exec (.frameLeavesLane n) s =
      .next (s.updPort n (fun p => { p with backlog := rest, greet := .running 50 }))

/-- A BAD_FRAME increases BAD_FRAMES by one, saturating, in TRAINING and UP, and has no other effect (R58). Bytes are
one in every case of R58: a payload length above 1024, where the receiver hunts on from the next byte; a kind that is
none of the six of an adapter; an ANSWER or a CHAT of more than 256 payload bytes; a WELCOME, STOPPED, PRESENCE or NOTE
of another length than its own; a presence byte that is neither 0 nor 1; and a CRC that differs, the status byte of an
ANSWER under it. An ANSWER, CHAT, WELCOME or PRESENCE row whose fields are such counts as one (log entry 15). In DOWN
every frame is discarded uncounted, and in TRAINING every good frame but a WELCOME (R59). -/
def Obligations.BadFrameIsCounted : Prop :=
  (∀ (s : State) (n : Nest) (tag code : Word16) (id : Word32) (status presence : Byte) (payload : List Byte),
    s.phase = .running → payload.length ≤ 256 → presence.toNat ≤ 1 →
    ((s.port n).link ≠ .up →
      ∀ c ∈ [Instr.answer n tag status payload, .stopped n tag, .note n code, .chat n payload,
        .presence n presence], exec c s = .next s) ∧
    ((s.port n).link = .down → exec (.welcome n id presence) s = .next s)) ∧
  (∀ (s : State) (n : Nest) (tag : Word16) (id : Word32) (status presence : Byte) (payload : List Byte),
    s.phase = .running → 256 < payload.length → 1 < presence.toNat →
    ∀ c ∈ [Instr.answer n tag status payload, .chat n payload, .welcome n id presence, .presence n presence],
      ((s.port n).link ≠ .down → exec c s = .next (s.updPort n (fun p => { p with
        counters := { p.counters with badFrames :=
          if p.counters.badFrames = 4294967295#32 then p.counters.badFrames else p.counters.badFrames + 1#32 } }))) ∧
      ((s.port n).link = .down → exec c s = .next s)) ∧
  (∀ (s : State) (n : Nest) (bytes : List Byte), s.phase = .running → isBadFrame bytes = true →
    ((s.port n).link ≠ .down → exec (.badFrame n bytes) s = .next (s.updPort n (fun p => { p with
      counters := { p.counters with badFrames :=
        if p.counters.badFrames = 4294967295#32 then p.counters.badFrames else p.counters.badFrames + 1#32 } }))) ∧
    ((s.port n).link = .down → exec (.badFrame n bytes) s = .next s)) ∧
  (∀ (kind t1 t0 l1 l0 : Byte) (rest : List Byte), 1024 < 256 * l1.toNat + l0.toNat →
    receiveFrame (0xC3#8 :: kind :: t1 :: t0 :: l1 :: l0 :: rest) = some (none, rest) ∧
    isBadFrame [0xC3#8, kind, t1, t0, l1, l0] = true) ∧
  (∀ (kind t1 t0 : Byte) (payload : List Byte) (crc : Word16), kind ≠ 0x82#8 → payload.length ≤ 1024 →
    (kind ∉ [0x81#8, 0x83#8, 0x84#8, 0x85#8, 0x86#8] ∨
      kind = 0x81#8 ∧ (payload.length ≠ 5 ∨ 1 < (byteAt payload 4).toNat) ∨ kind = 0x83#8 ∧ payload.length ≠ 0 ∨
      kind = 0x84#8 ∧ (payload.length ≠ 1 ∨ 1 < (byteAt payload 0).toNat) ∨ kind = 0x85#8 ∧ payload.length ≠ 2 ∨
      kind = 0x86#8 ∧ 256 < payload.length ∨ crc ≠ crc16 (laneCovered kind t1 t0 [] payload)) →
    isBadFrame (laneBytes (laneCovered kind t1 t0 [] payload) crc) = true) ∧
  ∀ (t1 t0 status : Byte) (payload : List Byte) (crc : Word16), payload.length ≤ 1024 →
    (256 < payload.length ∨ crc ≠ crc16 (laneCovered 0x82#8 t1 t0 [status] payload)) →
    isBadFrame (laneBytes (laneCovered 0x82#8 t1 t0 [status] payload) crc) = true

/-- WELCOME in TRAINING records the adapter id and the presence, moves the link to UP and raises LINK, and
PRESENCE with a phone present; it delivers no absence. In UP it records the id and the link stays (R61, R63).
PRESENCE in UP sets the presence: a change raises PRESENCE, and a change to EMPTY applies the absence rule and
delivers one absence (R63). -/
def Obligations.WelcomeAndPresence : Prop :=
  (∀ (s : State) (n : Nest) (id : Word32) (present : Bool), s.phase = .running →
    (s.port n).link = .training → (s.port n).presence = .empty → ∃ t,
    exec (.welcome n id (if present then 1#8 else 0#8)) s = .next t ∧
    OnlyPort n { s with notice := t.notice } t ∧
    t.port n = { s.port n with
      link := .up, adapterId := id, greet := .stopped, presence := if present then .present else .empty } ∧
    t.notice = { s.notice with
      links := t.notice.links,
      causes := s.notice.causes ||| 2#7 ||| (if present then 4#7 else 0#7) } ∧
    ∀ m : Nest, NestSet.has t.notice.links m = (NestSet.has s.notice.links m || decide (m = n))) ∧
  (∀ (s : State) (n : Nest) (id : Word32) (b : Byte), s.phase = .running → (s.port n).link = .up → b.toNat ≤ 1 →
    exec (.welcome n id b) s =
      exec (.presence n b) (s.updPort n (fun p => { p with adapterId := id }))) ∧
  (∀ (s : State) (n : Nest), s.phase = .running → (s.port n).link = .up → (s.port n).presence = .empty →
    exec (.presence n 1#8) s = .next
      { s.updPort n (fun p => { p with presence := .present }) with
        notice := { s.notice with causes := s.notice.causes ||| 4#7 } } ∧
    exec (.presence n 0#8) s = .next s) ∧
  ∀ (s : State) (n : Nest), s.phase = .running → (s.port n).link = .up → (s.port n).presence = .present →
    exec (.presence n 1#8) s = .next s ∧
    ∃ v, AbsenceTaken n { s.updPort n (fun p => { p with presence := .empty }) with
        notice := { s.notice with causes := s.notice.causes ||| 4#7 } } v ∧
      exec (.presence n 0#8) s = .next (v.updLotNest n (fun l => { l with events := l.events ++ [.absence] }))

/-- NOTE in UP: an EMPTY slot takes the code and is PENDING, a PENDING slot takes it with superseded set, both
raising ATTENTION; a HELD slot drops it and sets missed. Nothing else changes, no counter included (R80,
R169). CHAT in UP: with the chatter flag set and fewer than 16 frames in the CHATTER queue it joins the tail,
otherwise it is dropped and CHATTER_DROPPED rises by one, saturating (R81). -/
def Obligations.NoteAndChatReception : Prop :=
  (∀ (s : State) (n : Nest) (code : Word16), s.phase = .running → (s.port n).link = .up →
    (s.notice.slots[n.val].state = .empty → exec (.note n code) s = .next { s with notice := { s.notice with
      causes := s.notice.causes ||| 1#7,
      slots := upd s.notice.slots n (fun _ =>
        { state := .pending, code := code, superseded := false, missed := false }) } }) ∧
    (s.notice.slots[n.val].state = .pending → exec (.note n code) s = .next { s with notice := { s.notice with
      causes := s.notice.causes ||| 1#7,
      slots := upd s.notice.slots n (fun x => { x with code := code, superseded := true }) } }) ∧
    (s.notice.slots[n.val].state = .held → exec (.note n code) s = .next { s with notice := { s.notice with
      slots := upd s.notice.slots n (fun x => { x with missed := true }) } })) ∧
  ∀ (s : State) (n : Nest) (payload : List Byte), s.phase = .running → (s.port n).link = .up →
    payload.length ≤ 256 →
    ((s.port n).config.chatter = true → s.uplink.chatter.length < 16 →
      exec (.chat n payload) s = .next { s with uplink := { s.uplink with
        chatter := s.uplink.chatter ++ [{ nest := n, payload := payload }] } }) ∧
    (((s.port n).config.chatter = false ∨ 16 ≤ s.uplink.chatter.length) →
      exec (.chat n payload) s = .next (s.updPort n (fun p => { p with counters := { p.counters with
        chatterDropped := if p.counters.chatterDropped = 4294967295#32 then p.counters.chatterDropped
          else p.counters.chatterDropped + 1#32 } })))

/-! ### The service machine -/

/-- START_HEAD sends the first RUN of a QUEUED head when the nest is IDLE, UP, PRESENT and without a stop hold,
and the head is IN_SERVICE with runs completed 0 (R70). With any of these not so nothing starts and nothing changes:
in STALLED (R76), WAITING, GAP and HALTING, with the stop hold set (R74), and with no QUEUED head. GAP_EXPIRY sends
the next RUN of the head (R72). Each RUN has a new tag and the step's payload. -/
def Obligations.RunsAreSent : Prop :=
  (∀ (s : State) (n : Nest) (c : Copy) (rest : List Copy), s.phase = .running →
    (s.port n).service = .idle → (s.port n).queue = c :: rest → c.state = .queued →
    (s.port n).link = .up → (s.port n).presence = .present →
    ((s.port n).stopHold = false → exec (.startHead n) s = .next (s.updPort n (fun p =>
      runSent c s { p with queue := { c with state := .inService, runs := 0 } :: rest }))) ∧
    ((s.port n).stopHold = true → exec (.startHead n) s = .next s)) ∧
  (∀ (s : State) (n : Nest), (s.port n).service = .stalled → exec (.startHead n) s = .next s) ∧
  (∀ (s : State) (n : Nest), (s.port n).service ≠ .idle ∨ (s.port n).link ≠ .up ∨ (s.port n).presence ≠ .present ∨
    (s.port n).stopHold = true ∨ (∀ c rest, (s.port n).queue = c :: rest → c.state ≠ .queued) →
    exec (.startHead n) s = .next s) ∧
  ∀ (s : State) (n : Nest) (c : Copy) (rest : List Copy) (d : Nat), s.phase = .running →
    (s.port n).service = .gap → (s.port n).gap = .running d → (s.port n).queue = c :: rest →
    exec (.gapExpiry n) s = .next (s.updPort n (fun p => runSent c s { p with gap := .stopped }))

/-- An ANSWER with the current tag and status 0 that leaves reps remaining is counted and judged, and the copy
goes on: with a gap the nest is in GAP for it, and with gap 0 the next RUN is sent at once (R71, R72). With a
profile row each slot record takes the run (R92); with profile row 0 nothing is judged. Only the port, and the slot
records of the copy's own record, change. -/
def Obligations.AnswerLeavingReps : Prop :=
  ∀ (s : State) (n : Nest) (tag : Word16) (payload : List Byte) (c : Copy) (rest : List Copy),
    s.phase = .running → (s.port n).link = .up → (s.port n).service = .waiting tag →
    (s.port n).queue = c :: rest → payload.length ≤ 256 → c.runs + 1 < (s.entry c.entry).reps → ∃ t,
    exec (.answer n tag 0#8 payload) s = .next t ∧
    OnlyPort n { s with judge := t.judge } t ∧
    t.judge = { s.judge with records := t.judge.records } ∧
    (∀ (e : EntryId) (m : Nest), ¬(e = c.entry ∧ m = n) → t.record e m = s.record e m) ∧
    t.record c.entry n = { s.record c.entry n with slots := (t.record c.entry n).slots } ∧
    ((s.entry c.entry).profile = 0 → t.judge = s.judge) ∧
    ((s.entry c.entry).profile ≠ 0 → ∀ i : Fin 4, (t.record c.entry n).slots[i.val] =
      judgeRun (s.profile (s.entry c.entry).profile).slots[i.val] s.judge.codeSets payload
        (s.record c.entry n).slots[i.val]) ∧
    ((s.entry c.entry).gap ≠ 0 → t.port n = { s.port n with
      queue := { c with runs := c.runs + 1 } :: rest, deadline := .stopped, service := .gap,
      gap := .running (s.entry c.entry).gap,
      counters := { (s.port n).counters with answers := satInc (s.port n).counters.answers } }) ∧
    ((s.entry c.entry).gap = 0 → t.port n = runSent c s { s.port n with
      queue := { c with runs := c.runs + 1 } :: rest,
      counters := { (s.port n).counters with answers := satInc (s.port n).counters.answers } })

/-- The ANSWER that ends the head copy: ERRORED with a non-zero status, not judged (R105), and at the last rep PASS
with profile row 0 or, each slot record having taken the run and its verdict formed (R92), the outcome derived from
the verdicts of the slots whose mode is not OFF (R104): FAIL with any LOW, HIGH, MISSING or CODE_BAD, else MARGINAL
with any MARGINAL, else PASS. The copy leaves, the nest is IDLE, the counts fall and the outcome is
delivered (R46, R71); under policy STOP a FAIL or ERRORED is delivered as a stop failure and sets the stop hold
(R74). Last the payload is offered for coalescing (R110). -/
def Obligations.AnswerEndsCopy : Prop :=
  ∀ (s : State) (n : Nest) (tag : Word16) (status : Byte) (payload : List Byte) (c : Copy) (rest : List Copy),
    s.phase = .running → (s.port n).link = .up → (s.port n).service = .waiting tag →
    (s.port n).queue = c :: rest → payload.length ≤ 256 →
    (status ≠ 0#8 ∨ (s.entry c.entry).reps ≤ c.runs + 1) → ∃ (t v : State) (o : CopyOutcome),
    exec (.answer n tag status payload) s = .next t ∧
    t = offerAnswer c.entry n payload v ∧
    OnlyNest n s v ∧ v.notice = s.notice ∧ CopiesEnded n o [{ c with runs := c.runs + 1 }] s v ∧
    (status ≠ 0#8 → o = .errored) ∧
    (status = 0#8 → (s.entry c.entry).profile = 0 → o = .pass) ∧
    (status = 0#8 → (s.entry c.entry).profile ≠ 0 → ∃ used : List Verdict,
      used = usedVerdicts (s.profile (s.entry c.entry).profile).slots (t.record c.entry n).slots ∧
      (∀ x, x ∈ used ↔ ∃ i : Fin 4, (s.profile (s.entry c.entry).profile).slots[i.val].mode ≠ .off ∧
        (t.record c.entry n).slots[i.val].verdict = x) ∧
      o = outcomeOf used ∧
      ((∃ x ∈ [Verdict.low, .high, .missing, .codeBad], x ∈ used) → o = .fail) ∧
      ((∀ x ∈ [Verdict.low, .high, .missing, .codeBad], x ∉ used) → .marginal ∈ used → o = .marginal) ∧
      ((∀ x ∈ [Verdict.low, .high, .missing, .codeBad, .marginal], x ∉ used) → o = .pass)) ∧
    (status = 0#8 → ∀ i : Fin 4, (t.record c.entry n).slots[i.val] =
      if (s.entry c.entry).profile = 0 then (s.record c.entry n).slots[i.val]
      else judgeFinal (s.profile (s.entry c.entry).profile).slots[i.val]
        (judgeRun (s.profile (s.entry c.entry).profile).slots[i.val] s.judge.codeSets payload
          (s.record c.entry n).slots[i.val])) ∧
    (status ≠ 0#8 → SlotsNotJudged s c.entry (t.record c.entry n).slots) ∧
    (t.record c.entry n).outcome = some o ∧ (t.record c.entry n).runs = c.runs + 1 ∧
    t.port n = { s.port n with
      queue := rest, deadline := .stopped, service := .idle,
      stopHold := (s.port n).stopHold || (o.failure && decide ((s.entry c.entry).policy = .stop)),
      counters := { (s.port n).counters with answers := satInc (s.port n).counters.answers } } ∧
    t.lotNest n = { s.lotNest n with
      outcomes := (s.lotNest n).outcomes ++ [(c.entry, o)],
      events := if o.failure = true ∧ (s.entry c.entry).policy = .stop
        then (s.lotNest n).events ++ [.stopFailure c.entry] else (s.lotNest n).events } ∧
    (t.entry c.entry).pending = (s.entry c.entry).pending - 1 ∧
    t.payload.refs[c.entry.val] = s.payload.refs[c.entry.val] - 1 ∧
    (∀ m : Nest, m ≠ n → t.port m = s.port m ∧ t.lotNest m = s.lotNest m ∧
      ∀ e : EntryId, t.record e m = s.record e m) ∧
    ((s.entry c.entry).capture = .none →
      t.coalesce = s.coalesce ∧ t.mgmt = s.mgmt ∧ t.notice = s.notice) ∧
    t.uplink = s.uplink ∧ t.dispatcher = s.dispatcher ∧ t.streams = s.streams ∧ t.groups = s.groups ∧
    t.judge.profiles = s.judge.profiles ∧ t.judge.codeSets = s.judge.codeSets ∧
    t.phase = s.phase ∧ t.signal = s.signal ∧ t.phyUp = s.phyUp

/-- An ANSWER or STOPPED that does not carry the awaited tag is LATE: counted and discarded (R67). In HALTING the
halted tag ends the halt: the grace stops, the CLOSING copy leaves, lowering nothing, and the nest is IDLE; the
ANSWER is counted LATE and the STOPPED is not (R75). -/
def Obligations.LateFramesAndHaltEnd : Prop :=
  ∀ (s : State) (n : Nest) (tag : Word16) (status : Byte) (payload : List Byte), s.phase = .running →
    (s.port n).link = .up → payload.length ≤ 256 →
    let late (p : NestPort) : NestPort := { p with counters := { p.counters with
      late := if p.counters.late = 4294967295#32 then p.counters.late else p.counters.late + 1#32 } }
    let ended (p : NestPort) : NestPort := { p with
      grace := .stopped, queue := p.queue.tail, service := .idle }
    ((s.port n).service ≠ .waiting tag → (s.port n).service ≠ .halting tag →
      exec (.answer n tag status payload) s = .next (s.updPort n late)) ∧
    ((s.port n).service ≠ .halting tag → exec (.stopped n tag) s = .next (s.updPort n late)) ∧
    ((s.port n).service = .halting tag →
      exec (.answer n tag status payload) s = .next (s.updPort n (fun p => ended (late p))) ∧
      exec (.stopped n tag) s = .next (s.updPort n ended))

/-- DEADLINE_EXPIRY in WAITING: the head is CLOSING with outcome TIMEOUT and the runs answered, no measure judged
(R106), a HALT with the current tag is sent and the grace waits for it, TIMEOUTS rises, the counts fall and the
outcome is delivered; under policy STOP it is a stop failure and sets the stop hold (R46, R73, R74). -/
def Obligations.DeadlineExpiryTimesOut : Prop :=
  ∀ (s : State) (n : Nest) (tag : Word16) (c : Copy) (rest : List Copy) (d : Nat), s.phase = .running →
    (s.port n).service = .waiting tag → (s.port n).queue = c :: rest → (s.port n).deadline = .running d →
    ∃ t, exec (.deadlineExpiry n) s = .next t ∧ OnlyNest n s t ∧ t.notice = s.notice ∧
    t.port n = { s.port n with
      queue := { c with state := .closing } :: rest, deadline := .stopped, service := .halting tag,
      backlog := (s.port n).backlog ++ [.halt tag], grace := .armed,
      counters := { (s.port n).counters with timeouts := satInc (s.port n).counters.timeouts },
      stopHold := (s.port n).stopHold || decide ((s.entry c.entry).policy = .stop) } ∧
    t.lotNest n = { s.lotNest n with
      outcomes := (s.lotNest n).outcomes ++ [(c.entry, .timeout)],
      events := if (s.entry c.entry).policy = .stop
        then (s.lotNest n).events ++ [.stopFailure c.entry] else (s.lotNest n).events } ∧
    CopiesEnded n .timeout [c] s t

/-- GRACE_EXPIRY in HALTING: the CLOSING copy leaves with its outcome, the nest is STALLED and one stall is
delivered (R76). VOID_INSTRUCTION: every QUEUED copy ends VOIDED and the others stay (R47); the void that
answers a stop failure clears the stop hold (R74), and no other does (log entry 6). -/
def Obligations.GraceExpiryAndVoid : Prop :=
  (∀ (s : State) (n : Nest) (tag : Word16) (d : Nat), s.phase = .running →
    (s.port n).service = .halting tag → (s.port n).grace = .running d →
    exec (.graceExpiry n) s = .next ((s.updPort n (fun p => { p with
      grace := .stopped, queue := p.queue.tail, service := .stalled })).updLotNest n
        (fun l => { l with events := l.events ++ [.stall] }))) ∧
  ∀ (s : State) (n : Nest) (cause : VoidCause) (rest : List VoidCause), s.phase = .running →
    (s.lotNest n).voids = cause :: rest → ∃ v,
    VoidTaken n (fun _ => true) (s.updLotNest n (fun l => { l with voids := rest })) v ∧
    exec (.voidInstruction n) s = .next (v.updPort n (fun p => { p with
      stopHold := if cause = .stopFailure then false else p.stopHold }))

/-! ### Retirement -/

/-- RETIREMENT_START: the candidate, with room for all its segments and its outcomes taken, becomes REPORTING and
the candidate is cleared; its ways are invalid, no LRU mark moves, and the whole header (R138, R139) and every nest
record (R107, R140) are fixed from the state as it stands (R127, R133, R134). Without the room nothing happens, and
nothing while the Lot Controller has an outcome of its copies to take (R133), or a stop failure of them (log entry
24); it does not wait for a CLOSING copy (log entry 32), and the variants keep their residence (log entry 33). -/
def Obligations.RetirementStarts : Prop :=
  ∀ (s : State) (e : EntryId), s.phase = .running → s.retire.candidate = some e → s.retire.progress = none →
    (s.entry e).state = .complete →
    (32 < s.uplink.report.length + segmentCount (s.entry e) → exec .retirementStart s = .next s) ∧
    ((∃ n : Nest, (∃ o, (e, o) ∈ (s.lotNest n).outcomes) ∨ .stopFailure e ∈ (s.lotNest n).events) →
      exec .retirementStart s = .next s) ∧
    (s.uplink.report.length + segmentCount (s.entry e) ≤ 32 →
      (∀ n : Nest, (∀ o ∈ (s.lotNest n).outcomes, o.1 ≠ e) ∧ .stopFailure e ∉ (s.lotNest n).events) →
      ∃ (t : State) (r : Retirement), exec .retirementStart s = .next t ∧
      t = { s with
            table := { s.table with entries := t.table.entries },
            coalesce := { s.coalesce with sets := t.coalesce.sets },
            retire := { s.retire with candidate := none, progress := some r } } ∧
      (∀ d : EntryId, t.entry d = if d = e then { s.entry e with state := .reporting } else s.entry d) ∧
      (∀ i : Fin 256, (t.variantSet i).lru = (s.variantSet i).lru ∧
        ∀ w : Fin 2, (t.variantSet i).ways[w.val] =
          (s.variantSet i).ways[w.val].filter (fun x => x.entry ≠ e)) ∧
      r.entry = e ∧ r.next = 0 ∧
      r.records = (allNests.filter (fun n => NestSet.has (s.entry e).target n)).map (fun n =>
        { nest := n, outcome := (s.record e n).outcome, runs := (s.record e n).runs,
          variant := (s.record e n).variant,
          measures := (List.finRange 4).map (fun i =>
            { verdict := (s.record e n).slots[i.val].verdict, sat := (s.record e n).slots[i.val].sat,
              value := (s.record e n).slots[i.val].value }) }) ∧
      r.header =
        { stream := (s.entry e).stream, stepNumber := (s.entry e).stepNumber, lotId := s.lot.id,
          clamped := (s.entry e).clamped, aborted := (s.entry e).aborted, capture := (s.entry e).capture,
          targetCount := allNests.countP (fun n => NestSet.has (s.entry e).target n),
          outcomeCounts := [CopyOutcome.pass, .marginal, .fail, .errored, .timeout, .absent, .halted, .voided,
            .skipped].map (fun o =>
              allNests.countP (fun n => NestSet.has (s.entry e).target n && (s.record e n).outcome = some o)),
          variantCount := (s.entry e).variants.length, segmentCount := segmentCount (s.entry e),
          freeEntries := (List.finRange 64).countP (fun d => (s.entry d).state = .free),
          freeBlocks := s.payload.free.length, freeCells := s.coalesce.free.length,
          expected := (s.stream (s.entry e).stream).expected })

/-- SEGMENT_PLACED: the next segment joins the tail of the REPORT queue, segment 0 with the header and the nest
records, a later one with the variants it carries and their payloads (R141, R143), and the cells of those variants
go to the tail of the Reply Store free list, in index order (R135). With the last segment the entry is FREE with no
variant and clear flags, leaves the head of its list, is unpinned and counted, the rotation moves past its stream, a
stream whose list is empty is OPEN with its number unchanged (R3, R136), and the first stream in rotation order with
a COMPLETE head gives the next candidate (R133). A copy of it that is still CLOSING is then a copy of no entry (R43;
log entry 32). That the variants of a placed segment keep their cell numbers is the model's (log entry 37). -/
def Obligations.SegmentPlacedAndRetirementEnds : Prop :=
  ∀ (s : State) (r : Retirement), s.phase = .running → s.retire.progress = some r → ∃ body : SegmentBody,
    (r.next = 0 → body = .head r.header r.records) ∧
    (r.next ≠ 0 → ∃ vs : List VariantRecord, body = .variants vs ∧ vs.length = (nextVariants s r).length ∧
      ∀ (k : Nat) (x : VariantRecord) (v : Variant), vs[k]? = some x → (nextVariants s r)[k]? = some v →
        (s.entry r.entry).variants[x.index]? = some v ∧ x.truncated = v.truncated ∧ x.digest = v.digest ∧
        x.length = v.length ∧ x.nests = v.nests ∧ (v.cell = none → x.payload = []) ∧
        ∀ c, v.cell = some c → x.payload = s.coalesce.cells[c.val]) ∧
    (r.next + 1 < r.header.segmentCount →
      exec .segmentPlaced s = .next { s with
        uplink := { s.uplink with report := s.uplink.report ++
          [{ stream := r.header.stream, stepNumber := r.header.stepNumber, index := r.next, last := false,
             body := body }] },
        coalesce := { s.coalesce with
          free := s.coalesce.free ++ (nextVariants s r).filterMap (fun v => v.cell) },
        retire := { s.retire with progress := some { r with next := r.next + 1 } } }) ∧
    (r.next + 1 = r.header.segmentCount → ∃ (t : State) (st : StreamId),
      exec .segmentPlaced s = .next t ∧ st = (s.entry r.entry).stream ∧
      t = { s with
            uplink := { s.uplink with report := s.uplink.report ++
              [{ stream := r.header.stream, stepNumber := r.header.stepNumber, index := r.next, last := true,
                 body := body }] },
            coalesce := { s.coalesce with
              free := s.coalesce.free ++ (nextVariants s r).filterMap (fun v => v.cell) },
            table := { s.table with entries := t.table.entries }, ports := t.ports,
            judge := { s.judge with profiles := t.judge.profiles },
            retire := t.retire, streams := t.streams,
            mgmt := { s.mgmt with counters := { s.mgmt.counters with
              reports := satInc s.mgmt.counters.reports } } } ∧
      (∀ d : EntryId, t.entry d = if d = r.entry
        then { s.entry d with state := .free, variants := [], clamped := false, aborted := false }
        else s.entry d) ∧
      (∀ n : Nest, t.port n = { s.port n with queue := (s.port n).queue.map (fun c =>
        if c.entry = r.entry ∧ c.state = .closing then { c with freed := true } else c) }) ∧
      (∀ x : Fin 64, t.profile x = if x = (s.entry r.entry).profile ∧ x ≠ 0
        then { s.profile x with pins := (s.profile x).pins - 1 } else s.profile x) ∧
      (∀ x : StreamId, t.retireList x = if x = st then (s.retireList x).tail else s.retireList x) ∧
      t.retire.rotation = st + 1 ∧ t.retire.progress = none ∧
      (s.retire.candidate ≠ none → t.retire.candidate = s.retire.candidate) ∧
      (s.retire.candidate = none →
        ((∀ x : StreamId, completeHead t x = none) → t.retire.candidate = none) ∧
        ∀ k : Fin 4, completeHead t (st + 1 + k) ≠ none →
          (∀ j : Fin 4, j < k → completeHead t (st + 1 + j) = none) →
          t.retire.candidate = completeHead t (st + 1 + k)) ∧
      (∀ x : StreamId, t.stream x = if x = st ∧ (s.retireList st).tail = []
        then { s.stream x with draining := false } else s.stream x))

/-! ### Notices -/

/-- NOTICE_BUILD takes every cause that is set and not masked, with the nest sets and the PENDING slots of those it
takes, and leaves the masked ones; the serial and NOTICES rise, the throttle is loaded unless its interval is 0,
and a slot delivered is HELD (R165, R167, R170). While the throttle timer runs, with no unmasked cause set, and with 2
frames in the NOTICE queue, no notice is built and nothing changes (R164). THROTTLE_EXPIRY stops the timer; that a
build it lets go ahead is a command of its own is the model's choice (log entry 2). -/
def Obligations.NoticeCarriesUnmaskedCauses : Prop :=
  (∀ (s : State) (taken : CauseSet), s.phase = .running →
    (s.notice.throttle = .stopped) → taken = s.notice.causes &&& ~~~s.mgmt.settings.mask → taken ≠ 0#7 →
    s.uplink.notice.length < 2 → ∃ (t : State) (m : NoticeMsg),
    exec .noticeBuild s = .next t ∧
    t = { s with
          uplink := { s.uplink with notice := s.uplink.notice ++ [m] },
          mgmt := { s.mgmt with counters := { s.mgmt.counters with
            notices := satInc s.mgmt.counters.notices } },
          notice := t.notice } ∧
    m.serial = s.notice.serial + 1 ∧ t.notice.serial = s.notice.serial + 1 ∧
    m.causes = taken ∧ t.notice.causes = s.notice.causes &&& s.mgmt.settings.mask ∧
    m.links = (if taken.getLsbD 1 then s.notice.links else 0) ∧
    t.notice.links = (if taken.getLsbD 1 then 0 else s.notice.links) ∧
    m.standings = (if taken.getLsbD 3 then s.notice.standings else 0) ∧
    t.notice.standings = (if taken.getLsbD 3 then 0 else s.notice.standings) ∧
    t.notice.throttle = (if s.mgmt.settings.throttle = 0 then .stopped else .running s.mgmt.settings.throttle) ∧
    (m.attention.map (fun a => a.nest)) =
      (if taken.getLsbD 0 then allNests.filter (fun n => s.notice.slots[n.val].state = .pending) else []) ∧
    (∀ a ∈ m.attention, a.code = s.notice.slots[a.nest.val].code ∧
      a.superseded = s.notice.slots[a.nest.val].superseded) ∧
    ∀ n : Nest, t.notice.slots[n.val] =
      if taken.getLsbD 0 = true ∧ s.notice.slots[n.val].state = .pending
      then { s.notice.slots[n.val] with state := .held } else s.notice.slots[n.val]) ∧
  (∀ s : State, s.notice.causes &&& ~~~s.mgmt.settings.mask = 0#7 ∨ 2 ≤ s.uplink.notice.length →
    exec .noticeBuild s = .next s) ∧
  ∀ (s : State) (d : Nat), s.phase = .running → s.notice.throttle = .running d →
    exec .noticeBuild s = .next s ∧
    exec .throttleExpiry s = .next { s with notice := { s.notice with throttle := .stopped } }

/-! ### Judgement, coalescing, packing -/

/-- Stages 1 and 2 for a field that is present (R93, R94, R95): y is the exact (x·gain)/2^shift rounded to the
nearest whole number, halves toward plus infinity, plus the bias. Stage 4, AVG (R99): the average is the nearest
whole number, halves away from zero. -/
def Obligations.RoundingOfScaleAndAverage : Prop :=
  (∀ (m : MeasureSlot) (x : Int), ∃ q : Int, scaleExact m x = q + m.bias.toInt ∧
    2 ^ m.shift.toNat * (2 * q - 1) ≤ 2 * (x * m.gain.toInt) ∧
    2 * (x * m.gain.toInt) < 2 ^ m.shift.toNat * (2 * q + 1)) ∧
  ∀ (sum : Int) (n : Nat), 0 < n →
    (0 ≤ sum → n * (2 * roundedAverage sum n - 1) ≤ 2 * sum ∧ 2 * sum < n * (2 * roundedAverage sum n + 1)) ∧
    (sum < 0 → roundedAverage sum n = -roundedAverage (-sum) n) ∧
    ∀ a b : Int, n * a ≤ sum → sum ≤ n * b → a ≤ roundedAverage sum n ∧ roundedAverage sum n ≤ b

/-- What one run leaves in a slot record: nothing in an OFF slot; in EACH to SPAN the field's value, scaled and
clamped, a clamp setting SAT, and a field the answer does not hold MISSING (R92, R93, R95, R97, R100); in CODE the
bit of the set at the window's index (R102, R103). After the runs of a copy (R96) n counts the valid runs, sum is
their exact sum, min and max are the least and greatest of them, and last is the latest run's value or MISSING;
EACH holds the worst run's verdict and value, ranked PASS, MARGINAL, LOW with HIGH, MISSING from best to worst, and
of runs of the same rank the earliest (R97). At the final run
each mode's compared value, verdict and reported value (R98, R101, R103). -/
def Obligations.RunsAreGathered : Prop :=
  (∀ (m : MeasureSlot) (sets : Vector (BitVec 512) 64) (payload : List Byte) (r : SlotRecord),
    (m.mode = .off → judgeRun m sets payload r = r) ∧
    (m.mode ≠ .off → m.mode ≠ .code → 1 ≤ m.width.toNat →
      (payload.length < m.position.toNat + m.width.toNat → judgeRun m sets payload r =
        if m.mode = .each then { r with held := holdWorse r.held .missing 0 } else accumulate r none) ∧
      (m.position.toNat + m.width.toNat ≤ payload.length → ∃ x y : Int, RawValue m payload x ∧
        y = max (-2147483648) (min 2147483647 (scaleExact m x)) ∧
        judgeRun m sets payload r =
          let r1 := { r with sat := r.sat || decide (y ≠ scaleExact m x) }
          if m.mode = .each then { r1 with held := holdWorse r.held (bandTest m y) y }
          else accumulate r1 (some y))) ∧
    (m.mode = .code →
      (payload.length < m.position.toNat + 2 →
        judgeRun m sets payload r = { r with codeState := .missing }) ∧
      (m.position.toNat + 2 ≤ payload.length →
        ∀ (u index : Nat) (chunk : Fin 64), u = leAt payload m.position.toNat 2 →
        [u % 4096, u / 4 % 4096, u / 8 % 4096, u / 16][m.window.toNat]? = some index →
        chunk.val = 8 * m.codeSet.toNat + index / 512 →
        (sets[chunk.val].getLsbD (index % 512) = true →
          judgeRun m sets payload r = { r with lastCode := some (BitVec.ofNat 16 u) }) ∧
        (sets[chunk.val].getLsbD (index % 512) = false → judgeRun m sets payload r =
          { r with lastCode := some (BitVec.ofNat 16 u),
                   codeState := if r.codeState = .pass then .codeBad else r.codeState,
                   firstBad := if r.firstBad = none then some (BitVec.ofNat 16 u) else r.firstBad })))) ∧
  (∀ (m : MeasureSlot) (v : Int),
    (bandTest m v = .low ↔ v < m.low.toInt) ∧
    (bandTest m v = .high ↔ m.low.toInt ≤ v ∧ m.high.toInt < v) ∧
    (bandTest m v = .marginal ↔ m.low.toInt ≤ v ∧ v ≤ m.high.toInt ∧
      (v < m.low.toInt + m.guard.toNat ∨ m.high.toInt - m.guard.toNat < v)) ∧
    (bandTest m v = .pass ↔ m.low.toInt + m.guard.toNat ≤ v ∧ v ≤ m.high.toInt - m.guard.toNat)) ∧
  (∀ (m : MeasureSlot) (r : SlotRecord),
    (m.mode = .off → judgeFinal m r = r) ∧
    (m.mode = .each → ∀ v y, r.held = some (v, y) → judgeFinal m r = { r with verdict := v, value := y }) ∧
    (m.mode = .code →
      (r.codeState = .missing → judgeFinal m r = { r with verdict := .missing, value := 0 }) ∧
      (r.codeState = .codeBad → ∀ u, r.firstBad = some u →
        judgeFinal m r = { r with verdict := .codeBad, value := u.toNat }) ∧
      (r.codeState = .pass → ∀ u, r.lastCode = some u →
        judgeFinal m r = { r with verdict := .pass, value := u.toNat })) ∧
    ((m.mode = .last ∧ r.last = none ∨ m.mode = .avg ∧ r.n = 0 ∨ m.mode = .min ∧ r.min = none ∨
        m.mode = .max ∧ r.max = none ∨ m.mode = .span ∧ r.min = none) →
      judgeFinal m r = { r with verdict := .missing, value := 0 }) ∧
    (∀ v : Int, v ≤ 2147483647 → (m.mode = .last ∧ r.last = some v ∨
        m.mode = .avg ∧ r.n ≠ 0 ∧ v = roundedAverage r.sum r.n ∨
        m.mode = .min ∧ r.min = some v ∨ m.mode = .max ∧ r.max = some v) →
      judgeFinal m r = { r with verdict := bandTest m v, value := v }) ∧
    (∀ a b v : Int, m.mode = .span → r.min = some a → r.max = some b → v = min (b - a) 2147483647 →
      judgeFinal m r = { r with
        verdict := bandTest m v, value := v, sat := r.sat || decide (2147483647 < b - a) })) ∧
  (∀ (runs : List (Option Int)) (r : SlotRecord), r = runs.foldl accumulate SlotRecord.cleared →
    r.n = (runs.filterMap id).length ∧ r.sum = (runs.filterMap id).sum ∧
    (r.min = none ↔ runs.filterMap id = []) ∧ (r.max = none ↔ runs.filterMap id = []) ∧
    (∀ a, r.min = some a → a ∈ runs.filterMap id ∧ ∀ y ∈ runs.filterMap id, a ≤ y) ∧
    (∀ a, r.max = some a → a ∈ runs.filterMap id ∧ ∀ y ∈ runs.filterMap id, y ≤ a) ∧
    r.last = (runs.getLast?).join) ∧
  [Verdict.pass, .marginal, .low, .high, .missing].map rankOfVerdict = [1, 2, 3, 3, 4] ∧
  ∀ (runs : List (Verdict × Int)) (v : Verdict) (y : Int), runs ≠ [] →
    (runs.foldl (fun h x => holdWorse h x.1 x.2) none = some (v, y) ↔
      ∃ before after, runs = before ++ (v, y) :: after ∧
        (∀ x ∈ before, rankOfVerdict x.1 < rankOfVerdict v) ∧ ∀ x ∈ after, rankOfVerdict x.1 ≤ rankOfVerdict v)

/-- The digest is the sum with end-around carry of the little-endian 16-bit words of the payload, a last odd byte
alone; it is the same for the words in any order, and 0 for a payload of zero bytes alone (R113). No two entries share
a set for answers with one digest, and the set of an entry depends on the low digest byte (R117). A final answer
offered: capture NONE does nothing; EACH creates an UNCACHED variant (R114); COALESCE looks for a way that matches,
one with a cell before one without and else way 0 (R118); a hit adds the nest to its variant alone, with no cell taken
(R119); a miss fills an invalid way, or evicts the one the mark names (R121), with a new variant (R120); both leave
the mark on the other way (R122). A nest in no variant of the entry before is in one after, and the nest sets stay
disjoint (R112). -/
def Obligations.DigestAndSet : Prop :=
  (∀ a w : Nat, addEndAround a w = if 65535 < a + w then a + w - 65536 + 1 else a + w) ∧
  (∀ payload : List Byte, (digest payload).toNat =
    ((List.range ((payload.length + 1) / 2)).map (fun i =>
      (byteAt payload (2 * i)).toNat + 256 * (byteAt payload (2 * i + 1)).toNat)).foldl addEndAround 0) ∧
  (∀ a b : List Nat, a.Perm b → (∀ w ∈ a, w < 65536) → a.foldl addEndAround 0 = b.foldl addEndAround 0) ∧
  (∀ payload : List Byte, payload.length ≤ 256 → (digest payload = 0#16 ↔ ∀ x ∈ payload, x = 0#8)) ∧
  (∀ (e f : EntryId) (d : Word16), (setIndex e d).val = (d.toNat % 256) ^^^ (4 * e.val) ∧
    (setIndex e d = setIndex f d → e = f)) ∧
  ∀ (s t : State) (e : EntryId) (n : Nest) (payload : List Byte) (i : Fin 256), i = setIndex e (digest payload) →
    t = offerAnswer e n payload s →
    ((s.entry e).capture = .none → t = s) ∧
    ((s.entry e).capture = .each → VariantCreated e n payload .uncached s t) ∧
    ((s.entry e).capture = .coalesce →
      (findHit s e payload = none ↔ ∀ w : Fin 2, ¬WayMatches s e payload w) ∧
      (∀ w : Fin 2, findHit s e payload = some w → WayMatches s e payload w ∧
        ∀ o : Fin 2, o ≠ w → WayMatches s e payload o →
          (WayStores s i w ∧ ¬WayStores s i o) ∨ ((WayStores s i w ↔ WayStores s i o) ∧ w = 0)) ∧
      (∀ (w : Fin 2) (x : Way), findHit s e payload = some w → (s.variantSet i).ways[w.val] = some x →
        OnlyVariants s t ∧ RecordsIndex e n x.index s t ∧ t.mgmt = s.mgmt ∧ t.notice = s.notice ∧
        (∀ d : EntryId, t.entry d = if d = e
          then { s.entry e with
            variants := (s.entry e).variants.modify x.index
              (fun v => { v with nests := v.nests ||| NestSet.single n }) }
          else s.entry d) ∧
        t.coalesce = { s.coalesce with
          sets := upd s.coalesce.sets i (fun vs => { vs with lru := w + 1 }) }) ∧
      (findHit s e payload = none → ∃ (w : Fin 2) (a b : State),
        ((s.variantSet i).ways[0] = none → w = 0) ∧
        ((s.variantSet i).ways[0] ≠ none → (s.variantSet i).ways[1] = none → w = 1) ∧
        ((s.variantSet i).ways[0] ≠ none → (s.variantSet i).ways[1] ≠ none → w = (s.variantSet i).lru) ∧
        Evicted i w s a ∧ VariantCreated e n payload (.resident i w) a b ∧
        t = b.updVariantSet i (fun vs =>
          { ways := upd vs.ways w (fun _ => some
              { entry := e, digest := digest payload, length := payload.length,
                index := (s.entry e).variants.length }),
            lru := w + 1 }))) ∧
    ((s.entry e).capture ≠ .none → DisjointNests (s.entry e).variants →
      (∀ v ∈ (s.entry e).variants, NestSet.has v.nests n = false) →
      DisjointNests (t.entry e).variants ∧ ∃ v ∈ (t.entry e).variants, NestSet.has v.nests n = true)

/-- The packing of a report's variants (R142): the variant segments hold them in index order, none is empty and no
body is above 1472 bytes; a segment is followed by another only where the next variant did not fit, so its body is
above 1206 bytes and holds at least five records; and a report of at most 32 variants has at most 8 segments. -/
def Obligations.ReportPacking : Prop :=
  ∀ vs : List Variant, (∀ v ∈ vs, v.length ≤ 256) →
    (variantSegments vs).flatten = vs ∧
    (∀ g ∈ variantSegments vs, g ≠ [] ∧ (g.map variantSize).sum ≤ 1472) ∧
    (∀ before g v rest after, variantSegments vs = before ++ g :: (v :: rest) :: after →
      1472 < (g.map variantSize).sum + variantSize v ∧ 1206 < (g.map variantSize).sum ∧ 5 ≤ g.length) ∧
    ∀ e : StepEntry, e.variants = vs → vs.length ≤ 32 → segmentCount e ≤ 8

/-! ### Encodings -/

/-- The receiver reads back every good frame an adapter can send, whole, and hunts on from the byte after it
(R55, R56, R57); of a frame written out by 11.8 it reads each field where it stands, the tag of a kind that has no use
for it ignored (R55). The bytes of the four frames the bridge sends are those of 11.8: GREET with tag 0 and the nest
number, RUN with its tag and the step payload, HALT with the tag of the run it stops, CYCLE with tag 0, the last two
with payload length 0 (R57, R195). The CRC has the check value of R56. -/
def Obligations.LaneFrameReadsBack : Prop :=
  (∀ (f : LaneIn) (rest : List Byte), f.fits = true → receiveFrame (f.bytes ++ rest) = some (some f, rest)) ∧
  (∀ (f : LaneIn) (kind t1 t0 : Byte) (status payload covered rest : List Byte),
    (match f with
      | .welcome id present => kind = 0x81#8 ∧ status = [] ∧
          payload = [id.extractLsb' 24 8, id.extractLsb' 16 8, id.extractLsb' 8 8, id.extractLsb' 0 8,
            if present then 1#8 else 0#8]
      | .answer tag x p => kind = 0x82#8 ∧ tag = t1 ++ t0 ∧ status = [x] ∧ payload = p ∧ p.length ≤ 256
      | .stopped tag => kind = 0x83#8 ∧ tag = t1 ++ t0 ∧ status = [] ∧ payload = []
      | .presence present => kind = 0x84#8 ∧ status = [] ∧ payload = [if present then 1#8 else 0#8]
      | .note code => kind = 0x85#8 ∧ status = [] ∧ payload = [code.extractLsb' 8 8, code.extractLsb' 0 8]
      | .chat p => kind = 0x86#8 ∧ status = [] ∧ payload = p ∧ p.length ≤ 256) →
    covered = laneCovered kind t1 t0 status payload →
    receiveFrame (laneBytes covered (crc16 covered) ++ rest) = some (some f, rest)) ∧
  (∀ (f : LaneOut) (covered : List Byte),
    covered = (match f with
      | .greet n => laneCovered 0x01#8 0#8 0#8 [] [BitVec.ofNat 8 n.val]
      | .run tag payload => laneCovered 0x02#8 (tag.extractLsb' 8 8) (tag.extractLsb' 0 8) [] payload
      | .halt tag => laneCovered 0x03#8 (tag.extractLsb' 8 8) (tag.extractLsb' 0 8) [] []
      | .cycle => laneCovered 0x04#8 0#8 0#8 [] []) →
    f.bytes = laneBytes covered (crc16 covered)) ∧
  crc16 [0x31#8, 0x32#8, 0x33#8, 0x34#8, 0x35#8, 0x36#8, 0x37#8, 0x38#8, 0x39#8] = 0x29B1#16

/-- Writing to any row the image that GET_ROWS returns for it changes nothing: the images of the six tables are
read as they are written (R65, R86, R183, R194, 11.4). -/
def Obligations.RowImageRewriteChangesNothing : Prop :=
  ∀ (s : State) (t : Table) (row : Nat), TablesOk s → PortsOk s → t.firstRow ≤ row → row ≤ t.lastRow →
    (t = .profile → ∀ r : Fin 64, r.val = row → (s.profile r).pins = 0) →
    (t = .codeSet → codeSetInUse s (row / 8) = false) →
    (rowImage s t row).length = t.imageSize ∧
    ∃ u, writeRow t (rowImage s t row) s = .written u ∧ u = s

/-! ### Invariants -/

/-- Every command keeps every nest port as R40, R43, R63, R64, R68 and R69 have it; and, with the stores in
agreement besides, it keeps at most one copy of an entry in a queue, none of a FREE entry (R43; log entry 32), and
every pending count the number of copies whose outcome is not set (R46). -/
def Obligations.StepKeepsPorts : Prop :=
  (∀ s t : State, PortsOk s → step s = .next t → PortsOk t) ∧
  ∀ s t : State, PortsOk s → StoresOk s → CopiesOk s → step s = .next t → CopiesOk t

/-- Every command keeps every queue of the uplink within its capacity (R175, R179). -/
def Obligations.StepKeepsQueues : Prop :=
  ∀ s t : State, QueuesOk s → step s = .next t → QueuesOk t

/-- Every command keeps the Notice Unit's causes, nest sets and slots in step (R161, R162, R166, R168). -/
def Obligations.StepKeepsNotices : Prop :=
  ∀ s t : State, NoticeOk s → step s = .next t → NoticeOk t

/-- Every command keeps the rows of the Profile, Allow List and Settings tables to their checks (R84, R86, R174,
R185); and, with the stores in agreement, it keeps the pin count of each Profile row the number of entries that name
it and are not FREE (R87). -/
def Obligations.StepKeepsTables : Prop :=
  (∀ s t : State, TablesOk s → step s = .next t → TablesOk t) ∧
  ∀ s t : State, StoresOk s → PinsOk s → step s = .next t → PinsOk t

/-- Every command keeps the Step Table, the Payload Store and the Retire Unit in agreement (R18, R19, R130,
R133); and, with the ports and the copies as they are kept besides, it keeps every reply cell free or held by one
variant (R123, R124) and every valid way the RESIDENT variant that it names (R116, R127). -/
def Obligations.StepKeepsStores : Prop :=
  (∀ s t : State, StoresOk s → step s = .next t → StoresOk t) ∧
  ∀ s t : State, PortsOk s → StoresOk s → CopiesOk s → VariantsOk s → step s = .next t → VariantsOk t

/-- The state right after reset meets the eight invariants. The reset values that the manual leaves open, the
allow list before LOADING_END (log entry 9) and the fields of a FREE entry (log entry 10) among them, are the
model's. -/
def Obligations.ResetMeetsInvariants : Prop :=
  PortsOk State.reset ∧ QueuesOk State.reset ∧ NoticeOk State.reset ∧ TablesOk State.reset ∧
    StoresOk State.reset ∧ CopiesOk State.reset ∧ PinsOk State.reset ∧ VariantsOk State.reset

end
end

