-- ==== Sys2Proof/Laws/State.lean ====
section
/-! SUPPORT. What each update of one part of State leaves as it was, field by field. -/

namespace Sys2Proof.Machine

section
variable (s : State)

/-! ### `updPort` -/

@[simp] theorem updPort_phase (n : Nest) (f : NestPort → NestPort) : (s.updPort n f).phase = s.phase := rfl
@[simp] theorem updPort_signal (n : Nest) (f : NestPort → NestPort) : (s.updPort n f).signal = s.signal := rfl
@[simp] theorem updPort_phyUp (n : Nest) (f : NestPort → NestPort) : (s.updPort n f).phyUp = s.phyUp := rfl
@[simp] theorem updPort_uplink (n : Nest) (f : NestPort → NestPort) : (s.updPort n f).uplink = s.uplink := rfl
@[simp] theorem updPort_dispatcher (n : Nest) (f : NestPort → NestPort) : (s.updPort n f).dispatcher = s.dispatcher := rfl
@[simp] theorem updPort_streams (n : Nest) (f : NestPort → NestPort) : (s.updPort n f).streams = s.streams := rfl
@[simp] theorem updPort_table (n : Nest) (f : NestPort → NestPort) : (s.updPort n f).table = s.table := rfl
@[simp] theorem updPort_payload (n : Nest) (f : NestPort → NestPort) : (s.updPort n f).payload = s.payload := rfl
@[simp] theorem updPort_groups (n : Nest) (f : NestPort → NestPort) : (s.updPort n f).groups = s.groups := rfl
@[simp] theorem updPort_judge (n : Nest) (f : NestPort → NestPort) : (s.updPort n f).judge = s.judge := rfl
@[simp] theorem updPort_coalesce (n : Nest) (f : NestPort → NestPort) : (s.updPort n f).coalesce = s.coalesce := rfl
@[simp] theorem updPort_retire (n : Nest) (f : NestPort → NestPort) : (s.updPort n f).retire = s.retire := rfl
@[simp] theorem updPort_lot (n : Nest) (f : NestPort → NestPort) : (s.updPort n f).lot = s.lot := rfl
@[simp] theorem updPort_notice (n : Nest) (f : NestPort → NestPort) : (s.updPort n f).notice = s.notice := rfl
@[simp] theorem updPort_mgmt (n : Nest) (f : NestPort → NestPort) : (s.updPort n f).mgmt = s.mgmt := rfl
@[simp] theorem updPort_pending (n : Nest) (f : NestPort → NestPort) : (s.updPort n f).pending = s.pending := rfl

/-! ### `updEntry` -/

@[simp] theorem updEntry_phase (e : EntryId) (f : StepEntry → StepEntry) : (s.updEntry e f).phase = s.phase := rfl
@[simp] theorem updEntry_signal (e : EntryId) (f : StepEntry → StepEntry) : (s.updEntry e f).signal = s.signal := rfl
@[simp] theorem updEntry_phyUp (e : EntryId) (f : StepEntry → StepEntry) : (s.updEntry e f).phyUp = s.phyUp := rfl
@[simp] theorem updEntry_uplink (e : EntryId) (f : StepEntry → StepEntry) : (s.updEntry e f).uplink = s.uplink := rfl
@[simp] theorem updEntry_dispatcher (e : EntryId) (f : StepEntry → StepEntry) : (s.updEntry e f).dispatcher = s.dispatcher := rfl
@[simp] theorem updEntry_streams (e : EntryId) (f : StepEntry → StepEntry) : (s.updEntry e f).streams = s.streams := rfl
@[simp] theorem updEntry_payload (e : EntryId) (f : StepEntry → StepEntry) : (s.updEntry e f).payload = s.payload := rfl
@[simp] theorem updEntry_groups (e : EntryId) (f : StepEntry → StepEntry) : (s.updEntry e f).groups = s.groups := rfl
@[simp] theorem updEntry_ports (e : EntryId) (f : StepEntry → StepEntry) : (s.updEntry e f).ports = s.ports := rfl
@[simp] theorem updEntry_judge (e : EntryId) (f : StepEntry → StepEntry) : (s.updEntry e f).judge = s.judge := rfl
@[simp] theorem updEntry_coalesce (e : EntryId) (f : StepEntry → StepEntry) : (s.updEntry e f).coalesce = s.coalesce := rfl
@[simp] theorem updEntry_retire (e : EntryId) (f : StepEntry → StepEntry) : (s.updEntry e f).retire = s.retire := rfl
@[simp] theorem updEntry_lot (e : EntryId) (f : StepEntry → StepEntry) : (s.updEntry e f).lot = s.lot := rfl
@[simp] theorem updEntry_notice (e : EntryId) (f : StepEntry → StepEntry) : (s.updEntry e f).notice = s.notice := rfl
@[simp] theorem updEntry_mgmt (e : EntryId) (f : StepEntry → StepEntry) : (s.updEntry e f).mgmt = s.mgmt := rfl
@[simp] theorem updEntry_pending (e : EntryId) (f : StepEntry → StepEntry) : (s.updEntry e f).pending = s.pending := rfl
@[simp] theorem updEntry_table_alloc (e : EntryId) (f : StepEntry → StepEntry) :
    (s.updEntry e f).table.alloc = s.table.alloc := rfl

/-! ### `updLotNest` -/

@[simp] theorem updLotNest_phase (n : Nest) (f : LotNest → LotNest) : (s.updLotNest n f).phase = s.phase := rfl
@[simp] theorem updLotNest_signal (n : Nest) (f : LotNest → LotNest) : (s.updLotNest n f).signal = s.signal := rfl
@[simp] theorem updLotNest_phyUp (n : Nest) (f : LotNest → LotNest) : (s.updLotNest n f).phyUp = s.phyUp := rfl
@[simp] theorem updLotNest_uplink (n : Nest) (f : LotNest → LotNest) : (s.updLotNest n f).uplink = s.uplink := rfl
@[simp] theorem updLotNest_dispatcher (n : Nest) (f : LotNest → LotNest) : (s.updLotNest n f).dispatcher = s.dispatcher := rfl
@[simp] theorem updLotNest_streams (n : Nest) (f : LotNest → LotNest) : (s.updLotNest n f).streams = s.streams := rfl
@[simp] theorem updLotNest_table (n : Nest) (f : LotNest → LotNest) : (s.updLotNest n f).table = s.table := rfl
@[simp] theorem updLotNest_payload (n : Nest) (f : LotNest → LotNest) : (s.updLotNest n f).payload = s.payload := rfl
@[simp] theorem updLotNest_groups (n : Nest) (f : LotNest → LotNest) : (s.updLotNest n f).groups = s.groups := rfl
@[simp] theorem updLotNest_ports (n : Nest) (f : LotNest → LotNest) : (s.updLotNest n f).ports = s.ports := rfl
@[simp] theorem updLotNest_judge (n : Nest) (f : LotNest → LotNest) : (s.updLotNest n f).judge = s.judge := rfl
@[simp] theorem updLotNest_coalesce (n : Nest) (f : LotNest → LotNest) : (s.updLotNest n f).coalesce = s.coalesce := rfl
@[simp] theorem updLotNest_retire (n : Nest) (f : LotNest → LotNest) : (s.updLotNest n f).retire = s.retire := rfl
@[simp] theorem updLotNest_notice (n : Nest) (f : LotNest → LotNest) : (s.updLotNest n f).notice = s.notice := rfl
@[simp] theorem updLotNest_mgmt (n : Nest) (f : LotNest → LotNest) : (s.updLotNest n f).mgmt = s.mgmt := rfl
@[simp] theorem updLotNest_pending (n : Nest) (f : LotNest → LotNest) : (s.updLotNest n f).pending = s.pending := rfl
@[simp] theorem updLotNest_lot_isOpen (n : Nest) (f : LotNest → LotNest) :
    (s.updLotNest n f).lot.isOpen = s.lot.isOpen := rfl
@[simp] theorem updLotNest_lot_id (n : Nest) (f : LotNest → LotNest) :
    (s.updLotNest n f).lot.id = s.lot.id := rfl

/-! ### `updStream` -/

@[simp] theorem updStream_phase (st : StreamId) (f : StreamRec → StreamRec) : (s.updStream st f).phase = s.phase := rfl
@[simp] theorem updStream_signal (st : StreamId) (f : StreamRec → StreamRec) : (s.updStream st f).signal = s.signal := rfl
@[simp] theorem updStream_phyUp (st : StreamId) (f : StreamRec → StreamRec) : (s.updStream st f).phyUp = s.phyUp := rfl
@[simp] theorem updStream_uplink (st : StreamId) (f : StreamRec → StreamRec) : (s.updStream st f).uplink = s.uplink := rfl
@[simp] theorem updStream_dispatcher (st : StreamId) (f : StreamRec → StreamRec) : (s.updStream st f).dispatcher = s.dispatcher := rfl
@[simp] theorem updStream_table (st : StreamId) (f : StreamRec → StreamRec) : (s.updStream st f).table = s.table := rfl
@[simp] theorem updStream_payload (st : StreamId) (f : StreamRec → StreamRec) : (s.updStream st f).payload = s.payload := rfl
@[simp] theorem updStream_groups (st : StreamId) (f : StreamRec → StreamRec) : (s.updStream st f).groups = s.groups := rfl
@[simp] theorem updStream_ports (st : StreamId) (f : StreamRec → StreamRec) : (s.updStream st f).ports = s.ports := rfl
@[simp] theorem updStream_judge (st : StreamId) (f : StreamRec → StreamRec) : (s.updStream st f).judge = s.judge := rfl
@[simp] theorem updStream_coalesce (st : StreamId) (f : StreamRec → StreamRec) : (s.updStream st f).coalesce = s.coalesce := rfl
@[simp] theorem updStream_retire (st : StreamId) (f : StreamRec → StreamRec) : (s.updStream st f).retire = s.retire := rfl
@[simp] theorem updStream_lot (st : StreamId) (f : StreamRec → StreamRec) : (s.updStream st f).lot = s.lot := rfl
@[simp] theorem updStream_notice (st : StreamId) (f : StreamRec → StreamRec) : (s.updStream st f).notice = s.notice := rfl
@[simp] theorem updStream_mgmt (st : StreamId) (f : StreamRec → StreamRec) : (s.updStream st f).mgmt = s.mgmt := rfl
@[simp] theorem updStream_pending (st : StreamId) (f : StreamRec → StreamRec) : (s.updStream st f).pending = s.pending := rfl

/-! ### `updRetire` -/

@[simp] theorem updRetire_phase (f : Retire → Retire) : (s.updRetire f).phase = s.phase := rfl
@[simp] theorem updRetire_signal (f : Retire → Retire) : (s.updRetire f).signal = s.signal := rfl
@[simp] theorem updRetire_phyUp (f : Retire → Retire) : (s.updRetire f).phyUp = s.phyUp := rfl
@[simp] theorem updRetire_uplink (f : Retire → Retire) : (s.updRetire f).uplink = s.uplink := rfl
@[simp] theorem updRetire_dispatcher (f : Retire → Retire) : (s.updRetire f).dispatcher = s.dispatcher := rfl
@[simp] theorem updRetire_streams (f : Retire → Retire) : (s.updRetire f).streams = s.streams := rfl
@[simp] theorem updRetire_table (f : Retire → Retire) : (s.updRetire f).table = s.table := rfl
@[simp] theorem updRetire_payload (f : Retire → Retire) : (s.updRetire f).payload = s.payload := rfl
@[simp] theorem updRetire_groups (f : Retire → Retire) : (s.updRetire f).groups = s.groups := rfl
@[simp] theorem updRetire_ports (f : Retire → Retire) : (s.updRetire f).ports = s.ports := rfl
@[simp] theorem updRetire_judge (f : Retire → Retire) : (s.updRetire f).judge = s.judge := rfl
@[simp] theorem updRetire_coalesce (f : Retire → Retire) : (s.updRetire f).coalesce = s.coalesce := rfl
@[simp] theorem updRetire_lot (f : Retire → Retire) : (s.updRetire f).lot = s.lot := rfl
@[simp] theorem updRetire_notice (f : Retire → Retire) : (s.updRetire f).notice = s.notice := rfl
@[simp] theorem updRetire_mgmt (f : Retire → Retire) : (s.updRetire f).mgmt = s.mgmt := rfl
@[simp] theorem updRetire_pending (f : Retire → Retire) : (s.updRetire f).pending = s.pending := rfl
@[simp] theorem updRetire_retire (f : Retire → Retire) :
    (s.updRetire f).retire = f s.retire := rfl

/-! ### `updRecord` -/

@[simp] theorem updRecord_phase (e : EntryId) (n : Nest) (f : Record → Record) : (s.updRecord e n f).phase = s.phase := rfl
@[simp] theorem updRecord_signal (e : EntryId) (n : Nest) (f : Record → Record) : (s.updRecord e n f).signal = s.signal := rfl
@[simp] theorem updRecord_phyUp (e : EntryId) (n : Nest) (f : Record → Record) : (s.updRecord e n f).phyUp = s.phyUp := rfl
@[simp] theorem updRecord_uplink (e : EntryId) (n : Nest) (f : Record → Record) : (s.updRecord e n f).uplink = s.uplink := rfl
@[simp] theorem updRecord_dispatcher (e : EntryId) (n : Nest) (f : Record → Record) : (s.updRecord e n f).dispatcher = s.dispatcher := rfl
@[simp] theorem updRecord_streams (e : EntryId) (n : Nest) (f : Record → Record) : (s.updRecord e n f).streams = s.streams := rfl
@[simp] theorem updRecord_table (e : EntryId) (n : Nest) (f : Record → Record) : (s.updRecord e n f).table = s.table := rfl
@[simp] theorem updRecord_payload (e : EntryId) (n : Nest) (f : Record → Record) : (s.updRecord e n f).payload = s.payload := rfl
@[simp] theorem updRecord_groups (e : EntryId) (n : Nest) (f : Record → Record) : (s.updRecord e n f).groups = s.groups := rfl
@[simp] theorem updRecord_ports (e : EntryId) (n : Nest) (f : Record → Record) : (s.updRecord e n f).ports = s.ports := rfl
@[simp] theorem updRecord_coalesce (e : EntryId) (n : Nest) (f : Record → Record) : (s.updRecord e n f).coalesce = s.coalesce := rfl
@[simp] theorem updRecord_retire (e : EntryId) (n : Nest) (f : Record → Record) : (s.updRecord e n f).retire = s.retire := rfl
@[simp] theorem updRecord_lot (e : EntryId) (n : Nest) (f : Record → Record) : (s.updRecord e n f).lot = s.lot := rfl
@[simp] theorem updRecord_notice (e : EntryId) (n : Nest) (f : Record → Record) : (s.updRecord e n f).notice = s.notice := rfl
@[simp] theorem updRecord_mgmt (e : EntryId) (n : Nest) (f : Record → Record) : (s.updRecord e n f).mgmt = s.mgmt := rfl
@[simp] theorem updRecord_pending (e : EntryId) (n : Nest) (f : Record → Record) : (s.updRecord e n f).pending = s.pending := rfl
@[simp] theorem updRecord_judge_profiles (e : EntryId) (n : Nest) (f : Record → Record) :
    (s.updRecord e n f).judge.profiles = s.judge.profiles := rfl
@[simp] theorem updRecord_judge_codeSets (e : EntryId) (n : Nest) (f : Record → Record) :
    (s.updRecord e n f).judge.codeSets = s.judge.codeSets := rfl

/-! ### `updProfile` -/

@[simp] theorem updProfile_phase (r : Fin 64) (f : ProfileRow → ProfileRow) : (s.updProfile r f).phase = s.phase := rfl
@[simp] theorem updProfile_signal (r : Fin 64) (f : ProfileRow → ProfileRow) : (s.updProfile r f).signal = s.signal := rfl
@[simp] theorem updProfile_phyUp (r : Fin 64) (f : ProfileRow → ProfileRow) : (s.updProfile r f).phyUp = s.phyUp := rfl
@[simp] theorem updProfile_uplink (r : Fin 64) (f : ProfileRow → ProfileRow) : (s.updProfile r f).uplink = s.uplink := rfl
@[simp] theorem updProfile_dispatcher (r : Fin 64) (f : ProfileRow → ProfileRow) : (s.updProfile r f).dispatcher = s.dispatcher := rfl
@[simp] theorem updProfile_streams (r : Fin 64) (f : ProfileRow → ProfileRow) : (s.updProfile r f).streams = s.streams := rfl
@[simp] theorem updProfile_table (r : Fin 64) (f : ProfileRow → ProfileRow) : (s.updProfile r f).table = s.table := rfl
@[simp] theorem updProfile_payload (r : Fin 64) (f : ProfileRow → ProfileRow) : (s.updProfile r f).payload = s.payload := rfl
@[simp] theorem updProfile_groups (r : Fin 64) (f : ProfileRow → ProfileRow) : (s.updProfile r f).groups = s.groups := rfl
@[simp] theorem updProfile_ports (r : Fin 64) (f : ProfileRow → ProfileRow) : (s.updProfile r f).ports = s.ports := rfl
@[simp] theorem updProfile_coalesce (r : Fin 64) (f : ProfileRow → ProfileRow) : (s.updProfile r f).coalesce = s.coalesce := rfl
@[simp] theorem updProfile_retire (r : Fin 64) (f : ProfileRow → ProfileRow) : (s.updProfile r f).retire = s.retire := rfl
@[simp] theorem updProfile_lot (r : Fin 64) (f : ProfileRow → ProfileRow) : (s.updProfile r f).lot = s.lot := rfl
@[simp] theorem updProfile_notice (r : Fin 64) (f : ProfileRow → ProfileRow) : (s.updProfile r f).notice = s.notice := rfl
@[simp] theorem updProfile_mgmt (r : Fin 64) (f : ProfileRow → ProfileRow) : (s.updProfile r f).mgmt = s.mgmt := rfl
@[simp] theorem updProfile_pending (r : Fin 64) (f : ProfileRow → ProfileRow) : (s.updProfile r f).pending = s.pending := rfl
@[simp] theorem updProfile_judge_records (r : Fin 64) (f : ProfileRow → ProfileRow) :
    (s.updProfile r f).judge.records = s.judge.records := rfl
@[simp] theorem updProfile_judge_codeSets (r : Fin 64) (f : ProfileRow → ProfileRow) :
    (s.updProfile r f).judge.codeSets = s.judge.codeSets := rfl

/-! ### `updNotice` -/

@[simp] theorem updNotice_phase (f : NoticeUnit → NoticeUnit) : (s.updNotice f).phase = s.phase := rfl
@[simp] theorem updNotice_signal (f : NoticeUnit → NoticeUnit) : (s.updNotice f).signal = s.signal := rfl
@[simp] theorem updNotice_phyUp (f : NoticeUnit → NoticeUnit) : (s.updNotice f).phyUp = s.phyUp := rfl
@[simp] theorem updNotice_uplink (f : NoticeUnit → NoticeUnit) : (s.updNotice f).uplink = s.uplink := rfl
@[simp] theorem updNotice_dispatcher (f : NoticeUnit → NoticeUnit) : (s.updNotice f).dispatcher = s.dispatcher := rfl
@[simp] theorem updNotice_streams (f : NoticeUnit → NoticeUnit) : (s.updNotice f).streams = s.streams := rfl
@[simp] theorem updNotice_table (f : NoticeUnit → NoticeUnit) : (s.updNotice f).table = s.table := rfl
@[simp] theorem updNotice_payload (f : NoticeUnit → NoticeUnit) : (s.updNotice f).payload = s.payload := rfl
@[simp] theorem updNotice_groups (f : NoticeUnit → NoticeUnit) : (s.updNotice f).groups = s.groups := rfl
@[simp] theorem updNotice_ports (f : NoticeUnit → NoticeUnit) : (s.updNotice f).ports = s.ports := rfl
@[simp] theorem updNotice_judge (f : NoticeUnit → NoticeUnit) : (s.updNotice f).judge = s.judge := rfl
@[simp] theorem updNotice_coalesce (f : NoticeUnit → NoticeUnit) : (s.updNotice f).coalesce = s.coalesce := rfl
@[simp] theorem updNotice_retire (f : NoticeUnit → NoticeUnit) : (s.updNotice f).retire = s.retire := rfl
@[simp] theorem updNotice_lot (f : NoticeUnit → NoticeUnit) : (s.updNotice f).lot = s.lot := rfl
@[simp] theorem updNotice_mgmt (f : NoticeUnit → NoticeUnit) : (s.updNotice f).mgmt = s.mgmt := rfl
@[simp] theorem updNotice_pending (f : NoticeUnit → NoticeUnit) : (s.updNotice f).pending = s.pending := rfl
@[simp] theorem updNotice_notice (f : NoticeUnit → NoticeUnit) :
    (s.updNotice f).notice = f s.notice := rfl

/-! ### `updCounters` -/

@[simp] theorem updCounters_phase (f : Globals → Globals) : (s.updCounters f).phase = s.phase := rfl
@[simp] theorem updCounters_signal (f : Globals → Globals) : (s.updCounters f).signal = s.signal := rfl
@[simp] theorem updCounters_phyUp (f : Globals → Globals) : (s.updCounters f).phyUp = s.phyUp := rfl
@[simp] theorem updCounters_uplink (f : Globals → Globals) : (s.updCounters f).uplink = s.uplink := rfl
@[simp] theorem updCounters_dispatcher (f : Globals → Globals) : (s.updCounters f).dispatcher = s.dispatcher := rfl
@[simp] theorem updCounters_streams (f : Globals → Globals) : (s.updCounters f).streams = s.streams := rfl
@[simp] theorem updCounters_table (f : Globals → Globals) : (s.updCounters f).table = s.table := rfl
@[simp] theorem updCounters_payload (f : Globals → Globals) : (s.updCounters f).payload = s.payload := rfl
@[simp] theorem updCounters_groups (f : Globals → Globals) : (s.updCounters f).groups = s.groups := rfl
@[simp] theorem updCounters_ports (f : Globals → Globals) : (s.updCounters f).ports = s.ports := rfl
@[simp] theorem updCounters_judge (f : Globals → Globals) : (s.updCounters f).judge = s.judge := rfl
@[simp] theorem updCounters_coalesce (f : Globals → Globals) : (s.updCounters f).coalesce = s.coalesce := rfl
@[simp] theorem updCounters_retire (f : Globals → Globals) : (s.updCounters f).retire = s.retire := rfl
@[simp] theorem updCounters_lot (f : Globals → Globals) : (s.updCounters f).lot = s.lot := rfl
@[simp] theorem updCounters_notice (f : Globals → Globals) : (s.updCounters f).notice = s.notice := rfl
@[simp] theorem updCounters_pending (f : Globals → Globals) : (s.updCounters f).pending = s.pending := rfl
@[simp] theorem updCounters_mgmt_settings (f : Globals → Globals) :
    (s.updCounters f).mgmt.settings = s.mgmt.settings := rfl
@[simp] theorem updCounters_mgmt_time (f : Globals → Globals) :
    (s.updCounters f).mgmt.time = s.mgmt.time := rfl
@[simp] theorem updCounters_mgmt_strap (f : Globals → Globals) :
    (s.updCounters f).mgmt.strap = s.mgmt.strap := rfl
@[simp] theorem updCounters_mgmt_fromFlash (f : Globals → Globals) :
    (s.updCounters f).mgmt.fromFlash = s.mgmt.fromFlash := rfl
@[simp] theorem updCounters_mgmt_counters (f : Globals → Globals) :
    (s.updCounters f).mgmt.counters = f s.mgmt.counters := rfl

/-! ### `updVariantSet` -/

@[simp] theorem updVariantSet_phase (i : Fin 256) (f : VariantSet → VariantSet) : (s.updVariantSet i f).phase = s.phase := rfl
@[simp] theorem updVariantSet_signal (i : Fin 256) (f : VariantSet → VariantSet) : (s.updVariantSet i f).signal = s.signal := rfl
@[simp] theorem updVariantSet_phyUp (i : Fin 256) (f : VariantSet → VariantSet) : (s.updVariantSet i f).phyUp = s.phyUp := rfl
@[simp] theorem updVariantSet_uplink (i : Fin 256) (f : VariantSet → VariantSet) : (s.updVariantSet i f).uplink = s.uplink := rfl
@[simp] theorem updVariantSet_dispatcher (i : Fin 256) (f : VariantSet → VariantSet) : (s.updVariantSet i f).dispatcher = s.dispatcher := rfl
@[simp] theorem updVariantSet_streams (i : Fin 256) (f : VariantSet → VariantSet) : (s.updVariantSet i f).streams = s.streams := rfl
@[simp] theorem updVariantSet_table (i : Fin 256) (f : VariantSet → VariantSet) : (s.updVariantSet i f).table = s.table := rfl
@[simp] theorem updVariantSet_payload (i : Fin 256) (f : VariantSet → VariantSet) : (s.updVariantSet i f).payload = s.payload := rfl
@[simp] theorem updVariantSet_groups (i : Fin 256) (f : VariantSet → VariantSet) : (s.updVariantSet i f).groups = s.groups := rfl
@[simp] theorem updVariantSet_ports (i : Fin 256) (f : VariantSet → VariantSet) : (s.updVariantSet i f).ports = s.ports := rfl
@[simp] theorem updVariantSet_judge (i : Fin 256) (f : VariantSet → VariantSet) : (s.updVariantSet i f).judge = s.judge := rfl
@[simp] theorem updVariantSet_retire (i : Fin 256) (f : VariantSet → VariantSet) : (s.updVariantSet i f).retire = s.retire := rfl
@[simp] theorem updVariantSet_lot (i : Fin 256) (f : VariantSet → VariantSet) : (s.updVariantSet i f).lot = s.lot := rfl
@[simp] theorem updVariantSet_notice (i : Fin 256) (f : VariantSet → VariantSet) : (s.updVariantSet i f).notice = s.notice := rfl
@[simp] theorem updVariantSet_mgmt (i : Fin 256) (f : VariantSet → VariantSet) : (s.updVariantSet i f).mgmt = s.mgmt := rfl
@[simp] theorem updVariantSet_pending (i : Fin 256) (f : VariantSet → VariantSet) : (s.updVariantSet i f).pending = s.pending := rfl
@[simp] theorem updVariantSet_coalesce_cells (i : Fin 256) (f : VariantSet → VariantSet) :
    (s.updVariantSet i f).coalesce.cells = s.coalesce.cells := rfl
@[simp] theorem updVariantSet_coalesce_free (i : Fin 256) (f : VariantSet → VariantSet) :
    (s.updVariantSet i f).coalesce.free = s.coalesce.free := rfl

end

end Sys2Proof.Machine
end

