-- ==== Sys2Proof/Laws/Tables.lean ====
section
/-! SUPPORT. Reading a table after one row, or every row, was changed; the same for the rows of State. -/

namespace Sys2Proof

variable {α β : Type} {k : Nat}

theorem upd_get (v : Vector α k) (i j : Fin k) (f : α → α) :
    (upd v i f)[j.val] = if j = i then f v[i.val] else v[j.val] := by
  unfold upd
  rw [Vector.getElem_set]
  by_cases h : j = i
  · simp [h]
  · have : i.val ≠ j.val := fun e => h (Fin.ext e.symm)
    simp [h, this]

@[simp] theorem upd_get_same (v : Vector α k) (i : Fin k) (f : α → α) :
    (upd v i f)[i.val] = f v[i.val] := by simp [upd_get]

theorem upd_get_ne (v : Vector α k) {i j : Fin k} (f : α → α) (h : j ≠ i) :
    (upd v i f)[j.val] = v[j.val] := by simp [upd_get, h]

@[simp] theorem mapTable_get (f : α → β) (v : Vector α k) (i : Nat) (h : i < k) :
    (mapTable f v)[i] = f v[i] := by
  simp [mapTable]

@[simp] theorem mem_allNests (n : Nest) : n ∈ allNests := List.mem_finRange n

theorem NestSet.mem_toList (S : NestSet) (n : Nest) : n ∈ NestSet.toList S ↔ NestSet.has S n = true := by
  simp [NestSet.toList]

theorem NestSet.nodup_toList (S : NestSet) : (NestSet.toList S).Nodup :=
  (List.nodup_finRange 32).filter _

/-- Adding a nest to a set: it and the nests already there. -/
theorem NestSet.has_insert (S : NestSet) (n m : Nest) :
    NestSet.has (NestSet.insert S n) m = (NestSet.has S m || decide (m = n)) := by
  unfold NestSet.has NestSet.insert
  rw [BitVec.getLsbD_or, BitVec.getLsbD_shiftLeft]
  by_cases h : m = n
  · subst h; simp
  · have hne : m.val ≠ n.val := fun e => h (Fin.ext e)
    have : (1#32).getLsbD (m.val - n.val) = true → m.val ≤ n.val := by
      intro hb
      have : m.val - n.val = 0 := by
        by_contra hc
        have h1 : (1#32).getLsbD (m.val - n.val) = false := by
          simp [BitVec.getLsbD_one, hc]
        rw [h1] at hb; exact absurd hb (by simp)
      omega
    simp only [h, decide_false, Bool.or_false]
    by_cases hlt : m.val < n.val
    · simp [hlt]
    · have : (1#32).getLsbD (m.val - n.val) = false := by
        by_contra hc
        have := this (by simpa using hc)
        omega
      simp [this]

namespace Machine

variable (s : State)

/-- The port of `m` after the port of `n` was changed. -/
theorem port_updPort (n m : Nest) (f : NestPort → NestPort) :
    (s.updPort n f).port m = if m = n then f (s.port n) else s.port m := upd_get _ _ _ _

@[simp] theorem port_updPort_same (n : Nest) (f : NestPort → NestPort) :
    (s.updPort n f).port n = f (s.port n) := by simp [port_updPort]

/-- Entry `d` after entry `e` was changed. -/
theorem entry_updEntry (e d : EntryId) (f : StepEntry → StepEntry) :
    (s.updEntry e f).entry d = if d = e then f (s.entry e) else s.entry d := upd_get _ _ _ _

@[simp] theorem entry_updEntry_same (e : EntryId) (f : StepEntry → StepEntry) :
    (s.updEntry e f).entry e = f (s.entry e) := by simp [entry_updEntry]

/-- The Lot Controller's record of nest `m` after that of `n` was changed. -/
theorem lotNest_updLotNest (n m : Nest) (f : LotNest → LotNest) :
    (s.updLotNest n f).lotNest m = if m = n then f (s.lotNest n) else s.lotNest m := upd_get _ _ _ _

@[simp] theorem lotNest_updLotNest_same (n : Nest) (f : LotNest → LotNest) :
    (s.updLotNest n f).lotNest n = f (s.lotNest n) := by simp [lotNest_updLotNest]

/-- Stream record `x` after stream record `st` was changed. -/
theorem stream_updStream (st x : StreamId) (f : StreamRec → StreamRec) :
    (s.updStream st f).stream x = if x = st then f (s.stream st) else s.stream x := upd_get _ _ _ _

/-- Profile row `x` after row `r` was changed. -/
theorem profile_updProfile (r x : Fin 64) (f : ProfileRow → ProfileRow) :
    (s.updProfile r f).profile x = if x = r then f (s.profile r) else s.profile x := upd_get _ _ _ _

/-- The record of entry `d` and nest `m` after that of `e` and `n` was changed. -/
theorem record_updRecord (e d : EntryId) (n m : Nest) (f : Record → Record) :
    (s.updRecord e n f).record d m = if d = e ∧ m = n then f (s.record e n) else s.record d m := by
  show ((upd s.judge.records e (fun r => upd r n f))[d.val])[m.val] = _
  by_cases hd : d = e
  · subst hd
    simp only [upd_get_same, true_and]
    exact upd_get _ _ _ _
  · simp [upd_get_ne _ _ hd, hd, State.record]

/-- Set `j` of the Variant Table after set `i` was changed. -/
theorem variantSet_updVariantSet (i j : Fin 256) (f : VariantSet → VariantSet) :
    (s.updVariantSet i f).variantSet j = if j = i then f (s.variantSet i) else s.variantSet j :=
  upd_get _ _ _ _

/-- A row of one table is read the same after a change elsewhere. -/
theorem port_congr {s t : State} (h : t.ports = s.ports) (n : Nest) : t.port n = s.port n := by
  simp only [State.port, h]

theorem entry_congr {s t : State} (h : t.table = s.table) (e : EntryId) : t.entry e = s.entry e := by
  simp only [State.entry, h]

theorem lotNest_congr {s t : State} (h : t.lot = s.lot) (n : Nest) : t.lotNest n = s.lotNest n := by
  simp only [State.lotNest, h]

theorem record_congr {s t : State} (h : t.judge = s.judge) (e : EntryId) (n : Nest) :
    t.record e n = s.record e n := by
  simp only [State.record, h]

end Machine
end Sys2Proof
end

