-- ==== Sys2Proof/Laws/Coalesce.lean ====
section
/-! SUPPORT. What the operations of the Coalescing Unit do, said once each in the words of Safety: matching and
storing ways, the record of a nest, a variant created, a variant evicted. -/

namespace Sys2Proof.Machine

variable (s : State)

/-- A way matches as R118 has it exactly when the lookup says so. -/
theorem wayMatches_iff (e : EntryId) (payload : List Byte) (w : Fin 2) :
    WayMatches s e payload w ↔
      wayMatches s e payload (s.variantSet (setIndex e (digest payload))).ways[w.val] = true := by
  unfold WayMatches wayMatches
  cases hw : (s.variantSet (setIndex e (digest payload))).ways[w.val] with
  | none => simp
  | some x =>
    simp only [Option.some.injEq, wayVariant]
    constructor
    · rintro ⟨x', v, rfl, h1, h2, h3, h4, h5⟩
      rw [h1, h4]
      cases hc : v.cell <;> simp_all
    · intro h
      simp only [Bool.and_eq_true, decide_eq_true_eq] at h
      obtain ⟨⟨⟨h1, h2⟩, h3⟩, h4⟩ := h
      rw [h1] at h4
      cases hv : (s.entry e).variants[x.index]? with
      | none => rw [hv] at h4; simp at h4
      | some v =>
        rw [hv] at h4
        refine ⟨x, v, rfl, h1, h2, h3, hv, fun c hc => ?_⟩
        simpa [hc] using h4

/-- A way stores a payload exactly when the lookup says that its variant has a cell. -/
theorem wayStores_iff (i : Fin 256) (w : Fin 2) :
    WayStores s i w ↔ wayHasCell s (s.variantSet i).ways[w.val] = true := by
  unfold WayStores wayHasCell wayVariant
  cases hw : (s.variantSet i).ways[w.val] with
  | none => simp
  | some x =>
    simp only [Option.some.injEq, Option.bind_some]
    constructor
    · rintro ⟨x', v, c, rfl, hv, hc⟩
      simp [hv, hc]
    · intro h
      cases hv : (s.entry x.entry).variants[x.index]? with
      | none => simp [hv] at h
      | some v =>
        cases hc : v.cell with
        | none => simp [hv, hc] at h
        | some c => exact ⟨x, v, c, rfl, hv, hc⟩

/-- The variant index written into a record whose neighbours stand as in `s` (R112). -/
theorem recordsIndex_of {e : EntryId} {n : Nest} {i : Nat} {u t : State}
    (h : u.judge = s.judge) (ht : t.judge = (setRecordVariant e n i u).judge) : RecordsIndex e n i s t := by
  intro d m
  rw [record_congr ht]; unfold setRecordVariant
  rw [record_updRecord, record_congr h, record_congr h]

/-- A variant created (R114, R120). -/
theorem createVariant_spec (e : EntryId) (n : Nest) (payload : List Byte) (place : Residence) :
    VariantCreated e n payload place s (createVariant e n payload place s) := by
  by_cases hp : payload = []
  · subst hp
    refine ⟨rfl, recordsIndex_of s (u := s) rfl rfl,
      { digest := digest [], length := 0, nests := NestSet.single n, cell := none, truncated := false,
        residence := place }, rfl, rfl, rfl, rfl, fun d => entry_updEntry s e d _, ?_, ?_, ?_⟩
    · exact fun _ => ⟨rfl, rfl, rfl, rfl, rfl⟩
    · exact fun h => absurd rfl h
    · exact fun _ _ h => absurd rfl h
  have hl : payload.length ≠ 0 := by simpa using hp
  unfold createVariant
  cases hf : s.coalesce.free with
  | nil =>
    simp only [if_neg hl, takeCell, hf]
    refine ⟨rfl, recordsIndex_of s (u := s) rfl rfl,
      { digest := digest payload, length := payload.length, nests := NestSet.single n, cell := none,
        truncated := true, residence := place }, rfl, rfl, rfl, rfl, fun d => ?_, fun h => absurd h hp, ?_, ?_⟩
    · refine (entry_updEntry (s.updCounters _) e d _).trans ?_
      simp [hp]; rfl
    · exact fun _ _ => ⟨rfl, rfl, rfl, rfl, rfl⟩
    · intro c rest _ h; rw [hf] at h; cases h
  | cons c rest =>
    have hlow : ∀ low, (low ≤ rest.length + 1 ∧ rest.length < low) ↔ rest.length + 1 = low := by omega
    simp only [if_neg hl, takeCell, hf, hlow]
    refine ⟨?_, recordsIndex_of s (u := s) rfl ?_,
      { digest := digest payload, length := payload.length, nests := NestSet.single n, cell := some c,
        truncated := false, residence := place }, rfl, rfl, rfl, rfl, fun d => ?_, fun h => absurd h hp, ?_, ?_⟩
    · split <;> rfl
    · split <;> rfl
    · refine (entry_updEntry _ e d _).trans ?_
      split <;> split <;> rfl
    · intro _ h; rw [hf] at h; cases h
    · intro c' rest' _ h
      rw [hf] at h; cases h
      refine ⟨rfl, rfl, ?_, ?_, ?_⟩ <;> split <;> rfl

/-- The variant of a valid way evicted (R121). -/
theorem evict_spec (i : Fin 256) (w : Fin 2) :
    Evicted i w s (match (s.variantSet i).ways[w.val] with | some old => evict old s | none => s) := by
  unfold Evicted
  cases (s.variantSet i).ways[w.val] with
  | none => rfl
  | some x =>
    refine ⟨rfl, fun d => (entry_updEntry s x.entry d _).trans ?_⟩
    split
    · next h => rw [h]
    · rfl

/-- An eviction settles a variant, and changes the nest set of none. -/
theorem nests_evict {i : Fin 256} {w : Fin 2} {s t : State} (h : Evicted i w s t) (e : EntryId) :
    (t.entry e).variants.map Variant.nests = (s.entry e).variants.map Variant.nests := by
  unfold Evicted at h
  split at h
  · rw [h]
  · rw [h.2 e]; split
    · apply List.ext_getElem?
      intro k
      simp only [List.getElem?_map, List.getElem?_modify]
      split
      · cases (s.entry e).variants[k]? <;> rfl
      · simp
    · rfl

end Sys2Proof.Machine
end

