-- ==== Sys2Proof/Laws/Frames.lean ====
section
/-! SUPPORT. What each shared operation leaves as it was, field by field. -/

namespace Sys2Proof.Machine

section
variable (s : State)

/-! ### `freeBlocks` -/

@[simp] theorem freeBlocks_phase (e : EntryId) :
    (freeBlocks e s).phase = s.phase := rfl
@[simp] theorem freeBlocks_signal (e : EntryId) :
    (freeBlocks e s).signal = s.signal := rfl
@[simp] theorem freeBlocks_phyUp (e : EntryId) :
    (freeBlocks e s).phyUp = s.phyUp := rfl
@[simp] theorem freeBlocks_uplink (e : EntryId) :
    (freeBlocks e s).uplink = s.uplink := rfl
@[simp] theorem freeBlocks_dispatcher (e : EntryId) :
    (freeBlocks e s).dispatcher = s.dispatcher := rfl
@[simp] theorem freeBlocks_streams (e : EntryId) :
    (freeBlocks e s).streams = s.streams := rfl
@[simp] theorem freeBlocks_groups (e : EntryId) :
    (freeBlocks e s).groups = s.groups := rfl
@[simp] theorem freeBlocks_ports (e : EntryId) :
    (freeBlocks e s).ports = s.ports := rfl
@[simp] theorem freeBlocks_judge (e : EntryId) :
    (freeBlocks e s).judge = s.judge := rfl
@[simp] theorem freeBlocks_coalesce (e : EntryId) :
    (freeBlocks e s).coalesce = s.coalesce := rfl
@[simp] theorem freeBlocks_retire (e : EntryId) :
    (freeBlocks e s).retire = s.retire := rfl
@[simp] theorem freeBlocks_lot (e : EntryId) :
    (freeBlocks e s).lot = s.lot := rfl
@[simp] theorem freeBlocks_notice (e : EntryId) :
    (freeBlocks e s).notice = s.notice := rfl
@[simp] theorem freeBlocks_mgmt (e : EntryId) :
    (freeBlocks e s).mgmt = s.mgmt := rfl
@[simp] theorem freeBlocks_pending (e : EntryId) :
    (freeBlocks e s).pending = s.pending := rfl

/-! ### `lowerReference` -/

@[simp] theorem lowerReference_phase (e : EntryId) :
    (lowerReference e s).phase = s.phase := by unfold lowerReference; dsimp only; split <;> rfl
@[simp] theorem lowerReference_signal (e : EntryId) :
    (lowerReference e s).signal = s.signal := by unfold lowerReference; dsimp only; split <;> rfl
@[simp] theorem lowerReference_phyUp (e : EntryId) :
    (lowerReference e s).phyUp = s.phyUp := by unfold lowerReference; dsimp only; split <;> rfl
@[simp] theorem lowerReference_uplink (e : EntryId) :
    (lowerReference e s).uplink = s.uplink := by unfold lowerReference; dsimp only; split <;> rfl
@[simp] theorem lowerReference_dispatcher (e : EntryId) :
    (lowerReference e s).dispatcher = s.dispatcher := by unfold lowerReference; dsimp only; split <;> rfl
@[simp] theorem lowerReference_streams (e : EntryId) :
    (lowerReference e s).streams = s.streams := by unfold lowerReference; dsimp only; split <;> rfl
@[simp] theorem lowerReference_groups (e : EntryId) :
    (lowerReference e s).groups = s.groups := by unfold lowerReference; dsimp only; split <;> rfl
@[simp] theorem lowerReference_ports (e : EntryId) :
    (lowerReference e s).ports = s.ports := by unfold lowerReference; dsimp only; split <;> rfl
@[simp] theorem lowerReference_judge (e : EntryId) :
    (lowerReference e s).judge = s.judge := by unfold lowerReference; dsimp only; split <;> rfl
@[simp] theorem lowerReference_coalesce (e : EntryId) :
    (lowerReference e s).coalesce = s.coalesce := by unfold lowerReference; dsimp only; split <;> rfl
@[simp] theorem lowerReference_retire (e : EntryId) :
    (lowerReference e s).retire = s.retire := by unfold lowerReference; dsimp only; split <;> rfl
@[simp] theorem lowerReference_lot (e : EntryId) :
    (lowerReference e s).lot = s.lot := by unfold lowerReference; dsimp only; split <;> rfl
@[simp] theorem lowerReference_notice (e : EntryId) :
    (lowerReference e s).notice = s.notice := by unfold lowerReference; dsimp only; split <;> rfl
@[simp] theorem lowerReference_mgmt (e : EntryId) :
    (lowerReference e s).mgmt = s.mgmt := by unfold lowerReference; dsimp only; split <;> rfl
@[simp] theorem lowerReference_pending (e : EntryId) :
    (lowerReference e s).pending = s.pending := by unfold lowerReference; dsimp only; split <;> rfl
@[simp] theorem lowerReference_table_alloc (e : EntryId) :
    (lowerReference e s).table.alloc = s.table.alloc := by unfold lowerReference; dsimp only; split <;> rfl
@[simp] theorem lowerReference_payload_blocks (e : EntryId) :
    (lowerReference e s).payload.blocks = s.payload.blocks := by unfold lowerReference; dsimp only; split <;> rfl

/-! ### `chooseCandidate` -/

@[simp] theorem chooseCandidate_phase :
    (chooseCandidate s).phase = s.phase := by unfold chooseCandidate; split <;> rfl
@[simp] theorem chooseCandidate_signal :
    (chooseCandidate s).signal = s.signal := by unfold chooseCandidate; split <;> rfl
@[simp] theorem chooseCandidate_phyUp :
    (chooseCandidate s).phyUp = s.phyUp := by unfold chooseCandidate; split <;> rfl
@[simp] theorem chooseCandidate_uplink :
    (chooseCandidate s).uplink = s.uplink := by unfold chooseCandidate; split <;> rfl
@[simp] theorem chooseCandidate_dispatcher :
    (chooseCandidate s).dispatcher = s.dispatcher := by unfold chooseCandidate; split <;> rfl
@[simp] theorem chooseCandidate_streams :
    (chooseCandidate s).streams = s.streams := by unfold chooseCandidate; split <;> rfl
@[simp] theorem chooseCandidate_table :
    (chooseCandidate s).table = s.table := by unfold chooseCandidate; split <;> rfl
@[simp] theorem chooseCandidate_payload :
    (chooseCandidate s).payload = s.payload := by unfold chooseCandidate; split <;> rfl
@[simp] theorem chooseCandidate_groups :
    (chooseCandidate s).groups = s.groups := by unfold chooseCandidate; split <;> rfl
@[simp] theorem chooseCandidate_ports :
    (chooseCandidate s).ports = s.ports := by unfold chooseCandidate; split <;> rfl
@[simp] theorem chooseCandidate_judge :
    (chooseCandidate s).judge = s.judge := by unfold chooseCandidate; split <;> rfl
@[simp] theorem chooseCandidate_coalesce :
    (chooseCandidate s).coalesce = s.coalesce := by unfold chooseCandidate; split <;> rfl
@[simp] theorem chooseCandidate_lot :
    (chooseCandidate s).lot = s.lot := by unfold chooseCandidate; split <;> rfl
@[simp] theorem chooseCandidate_notice :
    (chooseCandidate s).notice = s.notice := by unfold chooseCandidate; split <;> rfl
@[simp] theorem chooseCandidate_mgmt :
    (chooseCandidate s).mgmt = s.mgmt := by unfold chooseCandidate; split <;> rfl
@[simp] theorem chooseCandidate_pending :
    (chooseCandidate s).pending = s.pending := by unfold chooseCandidate; split <;> rfl
@[simp] theorem chooseCandidate_retire_lists :
    (chooseCandidate s).retire.lists = s.retire.lists := by unfold chooseCandidate; split <;> rfl
@[simp] theorem chooseCandidate_retire_rotation :
    (chooseCandidate s).retire.rotation = s.retire.rotation := by unfold chooseCandidate; split <;> rfl
@[simp] theorem chooseCandidate_retire_progress :
    (chooseCandidate s).retire.progress = s.retire.progress := by unfold chooseCandidate; split <;> rfl

/-! ### `lowerPending` -/

@[simp] theorem lowerPending_phase (e : EntryId) :
    (lowerPending e s).phase = s.phase := by unfold lowerPending; dsimp only; split <;> simp
@[simp] theorem lowerPending_signal (e : EntryId) :
    (lowerPending e s).signal = s.signal := by unfold lowerPending; dsimp only; split <;> simp
@[simp] theorem lowerPending_phyUp (e : EntryId) :
    (lowerPending e s).phyUp = s.phyUp := by unfold lowerPending; dsimp only; split <;> simp
@[simp] theorem lowerPending_uplink (e : EntryId) :
    (lowerPending e s).uplink = s.uplink := by unfold lowerPending; dsimp only; split <;> simp
@[simp] theorem lowerPending_dispatcher (e : EntryId) :
    (lowerPending e s).dispatcher = s.dispatcher := by unfold lowerPending; dsimp only; split <;> simp
@[simp] theorem lowerPending_streams (e : EntryId) :
    (lowerPending e s).streams = s.streams := by unfold lowerPending; dsimp only; split <;> simp
@[simp] theorem lowerPending_payload (e : EntryId) :
    (lowerPending e s).payload = s.payload := by unfold lowerPending; dsimp only; split <;> simp
@[simp] theorem lowerPending_groups (e : EntryId) :
    (lowerPending e s).groups = s.groups := by unfold lowerPending; dsimp only; split <;> simp
@[simp] theorem lowerPending_ports (e : EntryId) :
    (lowerPending e s).ports = s.ports := by unfold lowerPending; dsimp only; split <;> simp
@[simp] theorem lowerPending_judge (e : EntryId) :
    (lowerPending e s).judge = s.judge := by unfold lowerPending; dsimp only; split <;> simp
@[simp] theorem lowerPending_coalesce (e : EntryId) :
    (lowerPending e s).coalesce = s.coalesce := by unfold lowerPending; dsimp only; split <;> simp
@[simp] theorem lowerPending_lot (e : EntryId) :
    (lowerPending e s).lot = s.lot := by unfold lowerPending; dsimp only; split <;> simp
@[simp] theorem lowerPending_notice (e : EntryId) :
    (lowerPending e s).notice = s.notice := by unfold lowerPending; dsimp only; split <;> simp
@[simp] theorem lowerPending_mgmt (e : EntryId) :
    (lowerPending e s).mgmt = s.mgmt := by unfold lowerPending; dsimp only; split <;> simp
@[simp] theorem lowerPending_pending (e : EntryId) :
    (lowerPending e s).pending = s.pending := by unfold lowerPending; dsimp only; split <;> simp
@[simp] theorem lowerPending_retire_lists (e : EntryId) :
    (lowerPending e s).retire.lists = s.retire.lists := by unfold lowerPending; dsimp only; split <;> simp
@[simp] theorem lowerPending_retire_rotation (e : EntryId) :
    (lowerPending e s).retire.rotation = s.retire.rotation := by unfold lowerPending; dsimp only; split <;> simp
@[simp] theorem lowerPending_retire_progress (e : EntryId) :
    (lowerPending e s).retire.progress = s.retire.progress := by unfold lowerPending; dsimp only; split <;> simp
@[simp] theorem lowerPending_table_alloc (e : EntryId) :
    (lowerPending e s).table.alloc = s.table.alloc := by unfold lowerPending; dsimp only; split <;> simp

/-! ### `deliverOutcome` -/

@[simp] theorem deliverOutcome_phase (n : Nest) (e : EntryId) (o : CopyOutcome) :
    (deliverOutcome n e o s).phase = s.phase := rfl
@[simp] theorem deliverOutcome_signal (n : Nest) (e : EntryId) (o : CopyOutcome) :
    (deliverOutcome n e o s).signal = s.signal := rfl
@[simp] theorem deliverOutcome_phyUp (n : Nest) (e : EntryId) (o : CopyOutcome) :
    (deliverOutcome n e o s).phyUp = s.phyUp := rfl
@[simp] theorem deliverOutcome_uplink (n : Nest) (e : EntryId) (o : CopyOutcome) :
    (deliverOutcome n e o s).uplink = s.uplink := rfl
@[simp] theorem deliverOutcome_dispatcher (n : Nest) (e : EntryId) (o : CopyOutcome) :
    (deliverOutcome n e o s).dispatcher = s.dispatcher := rfl
@[simp] theorem deliverOutcome_streams (n : Nest) (e : EntryId) (o : CopyOutcome) :
    (deliverOutcome n e o s).streams = s.streams := rfl
@[simp] theorem deliverOutcome_table (n : Nest) (e : EntryId) (o : CopyOutcome) :
    (deliverOutcome n e o s).table = s.table := rfl
@[simp] theorem deliverOutcome_payload (n : Nest) (e : EntryId) (o : CopyOutcome) :
    (deliverOutcome n e o s).payload = s.payload := rfl
@[simp] theorem deliverOutcome_groups (n : Nest) (e : EntryId) (o : CopyOutcome) :
    (deliverOutcome n e o s).groups = s.groups := rfl
@[simp] theorem deliverOutcome_ports (n : Nest) (e : EntryId) (o : CopyOutcome) :
    (deliverOutcome n e o s).ports = s.ports := rfl
@[simp] theorem deliverOutcome_judge (n : Nest) (e : EntryId) (o : CopyOutcome) :
    (deliverOutcome n e o s).judge = s.judge := rfl
@[simp] theorem deliverOutcome_coalesce (n : Nest) (e : EntryId) (o : CopyOutcome) :
    (deliverOutcome n e o s).coalesce = s.coalesce := rfl
@[simp] theorem deliverOutcome_retire (n : Nest) (e : EntryId) (o : CopyOutcome) :
    (deliverOutcome n e o s).retire = s.retire := rfl
@[simp] theorem deliverOutcome_notice (n : Nest) (e : EntryId) (o : CopyOutcome) :
    (deliverOutcome n e o s).notice = s.notice := rfl
@[simp] theorem deliverOutcome_mgmt (n : Nest) (e : EntryId) (o : CopyOutcome) :
    (deliverOutcome n e o s).mgmt = s.mgmt := rfl
@[simp] theorem deliverOutcome_pending (n : Nest) (e : EntryId) (o : CopyOutcome) :
    (deliverOutcome n e o s).pending = s.pending := rfl
@[simp] theorem deliverOutcome_lot_isOpen (n : Nest) (e : EntryId) (o : CopyOutcome) :
    (deliverOutcome n e o s).lot.isOpen = s.lot.isOpen := rfl
@[simp] theorem deliverOutcome_lot_id (n : Nest) (e : EntryId) (o : CopyOutcome) :
    (deliverOutcome n e o s).lot.id = s.lot.id := rfl

/-! ### `deliverAbsence` -/

@[simp] theorem deliverAbsence_phase (n : Nest) :
    (deliverAbsence n s).phase = s.phase := rfl
@[simp] theorem deliverAbsence_signal (n : Nest) :
    (deliverAbsence n s).signal = s.signal := rfl
@[simp] theorem deliverAbsence_phyUp (n : Nest) :
    (deliverAbsence n s).phyUp = s.phyUp := rfl
@[simp] theorem deliverAbsence_uplink (n : Nest) :
    (deliverAbsence n s).uplink = s.uplink := rfl
@[simp] theorem deliverAbsence_dispatcher (n : Nest) :
    (deliverAbsence n s).dispatcher = s.dispatcher := rfl
@[simp] theorem deliverAbsence_streams (n : Nest) :
    (deliverAbsence n s).streams = s.streams := rfl
@[simp] theorem deliverAbsence_table (n : Nest) :
    (deliverAbsence n s).table = s.table := rfl
@[simp] theorem deliverAbsence_payload (n : Nest) :
    (deliverAbsence n s).payload = s.payload := rfl
@[simp] theorem deliverAbsence_groups (n : Nest) :
    (deliverAbsence n s).groups = s.groups := rfl
@[simp] theorem deliverAbsence_ports (n : Nest) :
    (deliverAbsence n s).ports = s.ports := rfl
@[simp] theorem deliverAbsence_judge (n : Nest) :
    (deliverAbsence n s).judge = s.judge := rfl
@[simp] theorem deliverAbsence_coalesce (n : Nest) :
    (deliverAbsence n s).coalesce = s.coalesce := rfl
@[simp] theorem deliverAbsence_retire (n : Nest) :
    (deliverAbsence n s).retire = s.retire := rfl
@[simp] theorem deliverAbsence_notice (n : Nest) :
    (deliverAbsence n s).notice = s.notice := rfl
@[simp] theorem deliverAbsence_mgmt (n : Nest) :
    (deliverAbsence n s).mgmt = s.mgmt := rfl
@[simp] theorem deliverAbsence_pending (n : Nest) :
    (deliverAbsence n s).pending = s.pending := rfl
@[simp] theorem deliverAbsence_lot_isOpen (n : Nest) :
    (deliverAbsence n s).lot.isOpen = s.lot.isOpen := rfl
@[simp] theorem deliverAbsence_lot_id (n : Nest) :
    (deliverAbsence n s).lot.id = s.lot.id := rfl

/-! ### `deliverStall` -/

@[simp] theorem deliverStall_phase (n : Nest) :
    (deliverStall n s).phase = s.phase := rfl
@[simp] theorem deliverStall_signal (n : Nest) :
    (deliverStall n s).signal = s.signal := rfl
@[simp] theorem deliverStall_phyUp (n : Nest) :
    (deliverStall n s).phyUp = s.phyUp := rfl
@[simp] theorem deliverStall_uplink (n : Nest) :
    (deliverStall n s).uplink = s.uplink := rfl
@[simp] theorem deliverStall_dispatcher (n : Nest) :
    (deliverStall n s).dispatcher = s.dispatcher := rfl
@[simp] theorem deliverStall_streams (n : Nest) :
    (deliverStall n s).streams = s.streams := rfl
@[simp] theorem deliverStall_table (n : Nest) :
    (deliverStall n s).table = s.table := rfl
@[simp] theorem deliverStall_payload (n : Nest) :
    (deliverStall n s).payload = s.payload := rfl
@[simp] theorem deliverStall_groups (n : Nest) :
    (deliverStall n s).groups = s.groups := rfl
@[simp] theorem deliverStall_ports (n : Nest) :
    (deliverStall n s).ports = s.ports := rfl
@[simp] theorem deliverStall_judge (n : Nest) :
    (deliverStall n s).judge = s.judge := rfl
@[simp] theorem deliverStall_coalesce (n : Nest) :
    (deliverStall n s).coalesce = s.coalesce := rfl
@[simp] theorem deliverStall_retire (n : Nest) :
    (deliverStall n s).retire = s.retire := rfl
@[simp] theorem deliverStall_notice (n : Nest) :
    (deliverStall n s).notice = s.notice := rfl
@[simp] theorem deliverStall_mgmt (n : Nest) :
    (deliverStall n s).mgmt = s.mgmt := rfl
@[simp] theorem deliverStall_pending (n : Nest) :
    (deliverStall n s).pending = s.pending := rfl
@[simp] theorem deliverStall_lot_isOpen (n : Nest) :
    (deliverStall n s).lot.isOpen = s.lot.isOpen := rfl
@[simp] theorem deliverStall_lot_id (n : Nest) :
    (deliverStall n s).lot.id = s.lot.id := rfl

/-! ### `deliverStopFailure` -/

@[simp] theorem deliverStopFailure_phase (n : Nest) (e : EntryId) (o : CopyOutcome) :
    (deliverStopFailure n e o s).phase = s.phase := by unfold deliverStopFailure; split <;> rfl
@[simp] theorem deliverStopFailure_signal (n : Nest) (e : EntryId) (o : CopyOutcome) :
    (deliverStopFailure n e o s).signal = s.signal := by unfold deliverStopFailure; split <;> rfl
@[simp] theorem deliverStopFailure_phyUp (n : Nest) (e : EntryId) (o : CopyOutcome) :
    (deliverStopFailure n e o s).phyUp = s.phyUp := by unfold deliverStopFailure; split <;> rfl
@[simp] theorem deliverStopFailure_uplink (n : Nest) (e : EntryId) (o : CopyOutcome) :
    (deliverStopFailure n e o s).uplink = s.uplink := by unfold deliverStopFailure; split <;> rfl
@[simp] theorem deliverStopFailure_dispatcher (n : Nest) (e : EntryId) (o : CopyOutcome) :
    (deliverStopFailure n e o s).dispatcher = s.dispatcher := by unfold deliverStopFailure; split <;> rfl
@[simp] theorem deliverStopFailure_streams (n : Nest) (e : EntryId) (o : CopyOutcome) :
    (deliverStopFailure n e o s).streams = s.streams := by unfold deliverStopFailure; split <;> rfl
@[simp] theorem deliverStopFailure_table (n : Nest) (e : EntryId) (o : CopyOutcome) :
    (deliverStopFailure n e o s).table = s.table := by unfold deliverStopFailure; split <;> rfl
@[simp] theorem deliverStopFailure_payload (n : Nest) (e : EntryId) (o : CopyOutcome) :
    (deliverStopFailure n e o s).payload = s.payload := by unfold deliverStopFailure; split <;> rfl
@[simp] theorem deliverStopFailure_groups (n : Nest) (e : EntryId) (o : CopyOutcome) :
    (deliverStopFailure n e o s).groups = s.groups := by unfold deliverStopFailure; split <;> rfl
@[simp] theorem deliverStopFailure_judge (n : Nest) (e : EntryId) (o : CopyOutcome) :
    (deliverStopFailure n e o s).judge = s.judge := by unfold deliverStopFailure; split <;> rfl
@[simp] theorem deliverStopFailure_coalesce (n : Nest) (e : EntryId) (o : CopyOutcome) :
    (deliverStopFailure n e o s).coalesce = s.coalesce := by unfold deliverStopFailure; split <;> rfl
@[simp] theorem deliverStopFailure_retire (n : Nest) (e : EntryId) (o : CopyOutcome) :
    (deliverStopFailure n e o s).retire = s.retire := by unfold deliverStopFailure; split <;> rfl
@[simp] theorem deliverStopFailure_notice (n : Nest) (e : EntryId) (o : CopyOutcome) :
    (deliverStopFailure n e o s).notice = s.notice := by unfold deliverStopFailure; split <;> rfl
@[simp] theorem deliverStopFailure_mgmt (n : Nest) (e : EntryId) (o : CopyOutcome) :
    (deliverStopFailure n e o s).mgmt = s.mgmt := by unfold deliverStopFailure; split <;> rfl
@[simp] theorem deliverStopFailure_pending (n : Nest) (e : EntryId) (o : CopyOutcome) :
    (deliverStopFailure n e o s).pending = s.pending := by unfold deliverStopFailure; split <;> rfl

/-! ### `writeOutcome` -/

@[simp] theorem writeOutcome_phase (e : EntryId) (n : Nest) (r : Nat) (o : CopyOutcome) :
    (writeOutcome e n r o s).phase = s.phase := rfl
@[simp] theorem writeOutcome_signal (e : EntryId) (n : Nest) (r : Nat) (o : CopyOutcome) :
    (writeOutcome e n r o s).signal = s.signal := rfl
@[simp] theorem writeOutcome_phyUp (e : EntryId) (n : Nest) (r : Nat) (o : CopyOutcome) :
    (writeOutcome e n r o s).phyUp = s.phyUp := rfl
@[simp] theorem writeOutcome_uplink (e : EntryId) (n : Nest) (r : Nat) (o : CopyOutcome) :
    (writeOutcome e n r o s).uplink = s.uplink := rfl
@[simp] theorem writeOutcome_dispatcher (e : EntryId) (n : Nest) (r : Nat) (o : CopyOutcome) :
    (writeOutcome e n r o s).dispatcher = s.dispatcher := rfl
@[simp] theorem writeOutcome_streams (e : EntryId) (n : Nest) (r : Nat) (o : CopyOutcome) :
    (writeOutcome e n r o s).streams = s.streams := rfl
@[simp] theorem writeOutcome_table (e : EntryId) (n : Nest) (r : Nat) (o : CopyOutcome) :
    (writeOutcome e n r o s).table = s.table := rfl
@[simp] theorem writeOutcome_payload (e : EntryId) (n : Nest) (r : Nat) (o : CopyOutcome) :
    (writeOutcome e n r o s).payload = s.payload := rfl
@[simp] theorem writeOutcome_groups (e : EntryId) (n : Nest) (r : Nat) (o : CopyOutcome) :
    (writeOutcome e n r o s).groups = s.groups := rfl
@[simp] theorem writeOutcome_ports (e : EntryId) (n : Nest) (r : Nat) (o : CopyOutcome) :
    (writeOutcome e n r o s).ports = s.ports := rfl
@[simp] theorem writeOutcome_coalesce (e : EntryId) (n : Nest) (r : Nat) (o : CopyOutcome) :
    (writeOutcome e n r o s).coalesce = s.coalesce := rfl
@[simp] theorem writeOutcome_retire (e : EntryId) (n : Nest) (r : Nat) (o : CopyOutcome) :
    (writeOutcome e n r o s).retire = s.retire := rfl
@[simp] theorem writeOutcome_lot (e : EntryId) (n : Nest) (r : Nat) (o : CopyOutcome) :
    (writeOutcome e n r o s).lot = s.lot := rfl
@[simp] theorem writeOutcome_notice (e : EntryId) (n : Nest) (r : Nat) (o : CopyOutcome) :
    (writeOutcome e n r o s).notice = s.notice := rfl
@[simp] theorem writeOutcome_mgmt (e : EntryId) (n : Nest) (r : Nat) (o : CopyOutcome) :
    (writeOutcome e n r o s).mgmt = s.mgmt := rfl
@[simp] theorem writeOutcome_pending (e : EntryId) (n : Nest) (r : Nat) (o : CopyOutcome) :
    (writeOutcome e n r o s).pending = s.pending := rfl
@[simp] theorem writeOutcome_judge_profiles (e : EntryId) (n : Nest) (r : Nat) (o : CopyOutcome) :
    (writeOutcome e n r o s).judge.profiles = s.judge.profiles := rfl
@[simp] theorem writeOutcome_judge_codeSets (e : EntryId) (n : Nest) (r : Nat) (o : CopyOutcome) :
    (writeOutcome e n r o s).judge.codeSets = s.judge.codeSets := rfl

/-! ### `finishCopy` -/

@[simp] theorem finishCopy_phase (n : Nest) (e : EntryId) (r : Nat) (o : CopyOutcome) :
    (finishCopy n e r o s).phase = s.phase := by simp [finishCopy]
@[simp] theorem finishCopy_signal (n : Nest) (e : EntryId) (r : Nat) (o : CopyOutcome) :
    (finishCopy n e r o s).signal = s.signal := by simp [finishCopy]
@[simp] theorem finishCopy_phyUp (n : Nest) (e : EntryId) (r : Nat) (o : CopyOutcome) :
    (finishCopy n e r o s).phyUp = s.phyUp := by simp [finishCopy]
@[simp] theorem finishCopy_uplink (n : Nest) (e : EntryId) (r : Nat) (o : CopyOutcome) :
    (finishCopy n e r o s).uplink = s.uplink := by simp [finishCopy]
@[simp] theorem finishCopy_dispatcher (n : Nest) (e : EntryId) (r : Nat) (o : CopyOutcome) :
    (finishCopy n e r o s).dispatcher = s.dispatcher := by simp [finishCopy]
@[simp] theorem finishCopy_streams (n : Nest) (e : EntryId) (r : Nat) (o : CopyOutcome) :
    (finishCopy n e r o s).streams = s.streams := by simp [finishCopy]
@[simp] theorem finishCopy_groups (n : Nest) (e : EntryId) (r : Nat) (o : CopyOutcome) :
    (finishCopy n e r o s).groups = s.groups := by simp [finishCopy]
@[simp] theorem finishCopy_ports (n : Nest) (e : EntryId) (r : Nat) (o : CopyOutcome) :
    (finishCopy n e r o s).ports = s.ports := by simp [finishCopy]
@[simp] theorem finishCopy_coalesce (n : Nest) (e : EntryId) (r : Nat) (o : CopyOutcome) :
    (finishCopy n e r o s).coalesce = s.coalesce := by simp [finishCopy]
@[simp] theorem finishCopy_notice (n : Nest) (e : EntryId) (r : Nat) (o : CopyOutcome) :
    (finishCopy n e r o s).notice = s.notice := by simp [finishCopy]
@[simp] theorem finishCopy_mgmt (n : Nest) (e : EntryId) (r : Nat) (o : CopyOutcome) :
    (finishCopy n e r o s).mgmt = s.mgmt := by simp [finishCopy]
@[simp] theorem finishCopy_pending (n : Nest) (e : EntryId) (r : Nat) (o : CopyOutcome) :
    (finishCopy n e r o s).pending = s.pending := by simp [finishCopy]
@[simp] theorem finishCopy_judge_profiles (n : Nest) (e : EntryId) (r : Nat) (o : CopyOutcome) :
    (finishCopy n e r o s).judge.profiles = s.judge.profiles := by simp [finishCopy]
@[simp] theorem finishCopy_judge_codeSets (n : Nest) (e : EntryId) (r : Nat) (o : CopyOutcome) :
    (finishCopy n e r o s).judge.codeSets = s.judge.codeSets := by simp [finishCopy]
@[simp] theorem finishCopy_retire_lists (n : Nest) (e : EntryId) (r : Nat) (o : CopyOutcome) :
    (finishCopy n e r o s).retire.lists = s.retire.lists := by simp [finishCopy]
@[simp] theorem finishCopy_retire_rotation (n : Nest) (e : EntryId) (r : Nat) (o : CopyOutcome) :
    (finishCopy n e r o s).retire.rotation = s.retire.rotation := by simp [finishCopy]
@[simp] theorem finishCopy_retire_progress (n : Nest) (e : EntryId) (r : Nat) (o : CopyOutcome) :
    (finishCopy n e r o s).retire.progress = s.retire.progress := by simp [finishCopy]
@[simp] theorem finishCopy_lot_isOpen (n : Nest) (e : EntryId) (r : Nat) (o : CopyOutcome) :
    (finishCopy n e r o s).lot.isOpen = s.lot.isOpen := by simp [finishCopy]
@[simp] theorem finishCopy_lot_id (n : Nest) (e : EntryId) (r : Nat) (o : CopyOutcome) :
    (finishCopy n e r o s).lot.id = s.lot.id := by simp [finishCopy]
@[simp] theorem finishCopy_table_alloc (n : Nest) (e : EntryId) (r : Nat) (o : CopyOutcome) :
    (finishCopy n e r o s).table.alloc = s.table.alloc := by simp [finishCopy]
@[simp] theorem finishCopy_payload_blocks (n : Nest) (e : EntryId) (r : Nat) (o : CopyOutcome) :
    (finishCopy n e r o s).payload.blocks = s.payload.blocks := by simp [finishCopy]

/-! ### `finishAll` -/

@[simp] theorem finishAll_phase (n : Nest) (o : CopyOutcome) (cs : List Copy) :
    (finishAll n o cs s).phase = s.phase := by
  unfold finishAll
  induction cs generalizing s with
  | nil => rfl
  | cons c cs ih => rw [List.foldl_cons, ih, finishCopy_phase]
@[simp] theorem finishAll_signal (n : Nest) (o : CopyOutcome) (cs : List Copy) :
    (finishAll n o cs s).signal = s.signal := by
  unfold finishAll
  induction cs generalizing s with
  | nil => rfl
  | cons c cs ih => rw [List.foldl_cons, ih, finishCopy_signal]
@[simp] theorem finishAll_phyUp (n : Nest) (o : CopyOutcome) (cs : List Copy) :
    (finishAll n o cs s).phyUp = s.phyUp := by
  unfold finishAll
  induction cs generalizing s with
  | nil => rfl
  | cons c cs ih => rw [List.foldl_cons, ih, finishCopy_phyUp]
@[simp] theorem finishAll_uplink (n : Nest) (o : CopyOutcome) (cs : List Copy) :
    (finishAll n o cs s).uplink = s.uplink := by
  unfold finishAll
  induction cs generalizing s with
  | nil => rfl
  | cons c cs ih => rw [List.foldl_cons, ih, finishCopy_uplink]
@[simp] theorem finishAll_dispatcher (n : Nest) (o : CopyOutcome) (cs : List Copy) :
    (finishAll n o cs s).dispatcher = s.dispatcher := by
  unfold finishAll
  induction cs generalizing s with
  | nil => rfl
  | cons c cs ih => rw [List.foldl_cons, ih, finishCopy_dispatcher]
@[simp] theorem finishAll_streams (n : Nest) (o : CopyOutcome) (cs : List Copy) :
    (finishAll n o cs s).streams = s.streams := by
  unfold finishAll
  induction cs generalizing s with
  | nil => rfl
  | cons c cs ih => rw [List.foldl_cons, ih, finishCopy_streams]
@[simp] theorem finishAll_groups (n : Nest) (o : CopyOutcome) (cs : List Copy) :
    (finishAll n o cs s).groups = s.groups := by
  unfold finishAll
  induction cs generalizing s with
  | nil => rfl
  | cons c cs ih => rw [List.foldl_cons, ih, finishCopy_groups]
@[simp] theorem finishAll_ports (n : Nest) (o : CopyOutcome) (cs : List Copy) :
    (finishAll n o cs s).ports = s.ports := by
  unfold finishAll
  induction cs generalizing s with
  | nil => rfl
  | cons c cs ih => rw [List.foldl_cons, ih, finishCopy_ports]
@[simp] theorem finishAll_coalesce (n : Nest) (o : CopyOutcome) (cs : List Copy) :
    (finishAll n o cs s).coalesce = s.coalesce := by
  unfold finishAll
  induction cs generalizing s with
  | nil => rfl
  | cons c cs ih => rw [List.foldl_cons, ih, finishCopy_coalesce]
@[simp] theorem finishAll_notice (n : Nest) (o : CopyOutcome) (cs : List Copy) :
    (finishAll n o cs s).notice = s.notice := by
  unfold finishAll
  induction cs generalizing s with
  | nil => rfl
  | cons c cs ih => rw [List.foldl_cons, ih, finishCopy_notice]
@[simp] theorem finishAll_mgmt (n : Nest) (o : CopyOutcome) (cs : List Copy) :
    (finishAll n o cs s).mgmt = s.mgmt := by
  unfold finishAll
  induction cs generalizing s with
  | nil => rfl
  | cons c cs ih => rw [List.foldl_cons, ih, finishCopy_mgmt]
@[simp] theorem finishAll_pending (n : Nest) (o : CopyOutcome) (cs : List Copy) :
    (finishAll n o cs s).pending = s.pending := by
  unfold finishAll
  induction cs generalizing s with
  | nil => rfl
  | cons c cs ih => rw [List.foldl_cons, ih, finishCopy_pending]
@[simp] theorem finishAll_judge_profiles (n : Nest) (o : CopyOutcome) (cs : List Copy) :
    (finishAll n o cs s).judge.profiles = s.judge.profiles := by
  unfold finishAll
  induction cs generalizing s with
  | nil => rfl
  | cons c cs ih => rw [List.foldl_cons, ih, finishCopy_judge_profiles]
@[simp] theorem finishAll_judge_codeSets (n : Nest) (o : CopyOutcome) (cs : List Copy) :
    (finishAll n o cs s).judge.codeSets = s.judge.codeSets := by
  unfold finishAll
  induction cs generalizing s with
  | nil => rfl
  | cons c cs ih => rw [List.foldl_cons, ih, finishCopy_judge_codeSets]
@[simp] theorem finishAll_retire_lists (n : Nest) (o : CopyOutcome) (cs : List Copy) :
    (finishAll n o cs s).retire.lists = s.retire.lists := by
  unfold finishAll
  induction cs generalizing s with
  | nil => rfl
  | cons c cs ih => rw [List.foldl_cons, ih, finishCopy_retire_lists]
@[simp] theorem finishAll_retire_rotation (n : Nest) (o : CopyOutcome) (cs : List Copy) :
    (finishAll n o cs s).retire.rotation = s.retire.rotation := by
  unfold finishAll
  induction cs generalizing s with
  | nil => rfl
  | cons c cs ih => rw [List.foldl_cons, ih, finishCopy_retire_rotation]
@[simp] theorem finishAll_retire_progress (n : Nest) (o : CopyOutcome) (cs : List Copy) :
    (finishAll n o cs s).retire.progress = s.retire.progress := by
  unfold finishAll
  induction cs generalizing s with
  | nil => rfl
  | cons c cs ih => rw [List.foldl_cons, ih, finishCopy_retire_progress]
@[simp] theorem finishAll_lot_isOpen (n : Nest) (o : CopyOutcome) (cs : List Copy) :
    (finishAll n o cs s).lot.isOpen = s.lot.isOpen := by
  unfold finishAll
  induction cs generalizing s with
  | nil => rfl
  | cons c cs ih => rw [List.foldl_cons, ih, finishCopy_lot_isOpen]
@[simp] theorem finishAll_lot_id (n : Nest) (o : CopyOutcome) (cs : List Copy) :
    (finishAll n o cs s).lot.id = s.lot.id := by
  unfold finishAll
  induction cs generalizing s with
  | nil => rfl
  | cons c cs ih => rw [List.foldl_cons, ih, finishCopy_lot_id]
@[simp] theorem finishAll_table_alloc (n : Nest) (o : CopyOutcome) (cs : List Copy) :
    (finishAll n o cs s).table.alloc = s.table.alloc := by
  unfold finishAll
  induction cs generalizing s with
  | nil => rfl
  | cons c cs ih => rw [List.foldl_cons, ih, finishCopy_table_alloc]
@[simp] theorem finishAll_payload_blocks (n : Nest) (o : CopyOutcome) (cs : List Copy) :
    (finishAll n o cs s).payload.blocks = s.payload.blocks := by
  unfold finishAll
  induction cs generalizing s with
  | nil => rfl
  | cons c cs ih => rw [List.foldl_cons, ih, finishCopy_payload_blocks]

/-! ### `raiseCause` -/

@[simp] theorem raiseCause_phase (c : Cause) :
    (raiseCause c s).phase = s.phase := rfl
@[simp] theorem raiseCause_signal (c : Cause) :
    (raiseCause c s).signal = s.signal := rfl
@[simp] theorem raiseCause_phyUp (c : Cause) :
    (raiseCause c s).phyUp = s.phyUp := rfl
@[simp] theorem raiseCause_uplink (c : Cause) :
    (raiseCause c s).uplink = s.uplink := rfl
@[simp] theorem raiseCause_dispatcher (c : Cause) :
    (raiseCause c s).dispatcher = s.dispatcher := rfl
@[simp] theorem raiseCause_streams (c : Cause) :
    (raiseCause c s).streams = s.streams := rfl
@[simp] theorem raiseCause_table (c : Cause) :
    (raiseCause c s).table = s.table := rfl
@[simp] theorem raiseCause_payload (c : Cause) :
    (raiseCause c s).payload = s.payload := rfl
@[simp] theorem raiseCause_groups (c : Cause) :
    (raiseCause c s).groups = s.groups := rfl
@[simp] theorem raiseCause_ports (c : Cause) :
    (raiseCause c s).ports = s.ports := rfl
@[simp] theorem raiseCause_judge (c : Cause) :
    (raiseCause c s).judge = s.judge := rfl
@[simp] theorem raiseCause_coalesce (c : Cause) :
    (raiseCause c s).coalesce = s.coalesce := rfl
@[simp] theorem raiseCause_retire (c : Cause) :
    (raiseCause c s).retire = s.retire := rfl
@[simp] theorem raiseCause_lot (c : Cause) :
    (raiseCause c s).lot = s.lot := rfl
@[simp] theorem raiseCause_mgmt (c : Cause) :
    (raiseCause c s).mgmt = s.mgmt := rfl
@[simp] theorem raiseCause_pending (c : Cause) :
    (raiseCause c s).pending = s.pending := rfl

/-! ### `raiseLink` -/

@[simp] theorem raiseLink_phase (n : Nest) :
    (raiseLink n s).phase = s.phase := rfl
@[simp] theorem raiseLink_signal (n : Nest) :
    (raiseLink n s).signal = s.signal := rfl
@[simp] theorem raiseLink_phyUp (n : Nest) :
    (raiseLink n s).phyUp = s.phyUp := rfl
@[simp] theorem raiseLink_uplink (n : Nest) :
    (raiseLink n s).uplink = s.uplink := rfl
@[simp] theorem raiseLink_dispatcher (n : Nest) :
    (raiseLink n s).dispatcher = s.dispatcher := rfl
@[simp] theorem raiseLink_streams (n : Nest) :
    (raiseLink n s).streams = s.streams := rfl
@[simp] theorem raiseLink_table (n : Nest) :
    (raiseLink n s).table = s.table := rfl
@[simp] theorem raiseLink_payload (n : Nest) :
    (raiseLink n s).payload = s.payload := rfl
@[simp] theorem raiseLink_groups (n : Nest) :
    (raiseLink n s).groups = s.groups := rfl
@[simp] theorem raiseLink_ports (n : Nest) :
    (raiseLink n s).ports = s.ports := rfl
@[simp] theorem raiseLink_judge (n : Nest) :
    (raiseLink n s).judge = s.judge := rfl
@[simp] theorem raiseLink_coalesce (n : Nest) :
    (raiseLink n s).coalesce = s.coalesce := rfl
@[simp] theorem raiseLink_retire (n : Nest) :
    (raiseLink n s).retire = s.retire := rfl
@[simp] theorem raiseLink_lot (n : Nest) :
    (raiseLink n s).lot = s.lot := rfl
@[simp] theorem raiseLink_mgmt (n : Nest) :
    (raiseLink n s).mgmt = s.mgmt := rfl
@[simp] theorem raiseLink_pending (n : Nest) :
    (raiseLink n s).pending = s.pending := rfl

/-! ### `raiseStanding` -/

@[simp] theorem raiseStanding_phase (n : Nest) :
    (raiseStanding n s).phase = s.phase := rfl
@[simp] theorem raiseStanding_signal (n : Nest) :
    (raiseStanding n s).signal = s.signal := rfl
@[simp] theorem raiseStanding_phyUp (n : Nest) :
    (raiseStanding n s).phyUp = s.phyUp := rfl
@[simp] theorem raiseStanding_uplink (n : Nest) :
    (raiseStanding n s).uplink = s.uplink := rfl
@[simp] theorem raiseStanding_dispatcher (n : Nest) :
    (raiseStanding n s).dispatcher = s.dispatcher := rfl
@[simp] theorem raiseStanding_streams (n : Nest) :
    (raiseStanding n s).streams = s.streams := rfl
@[simp] theorem raiseStanding_table (n : Nest) :
    (raiseStanding n s).table = s.table := rfl
@[simp] theorem raiseStanding_payload (n : Nest) :
    (raiseStanding n s).payload = s.payload := rfl
@[simp] theorem raiseStanding_groups (n : Nest) :
    (raiseStanding n s).groups = s.groups := rfl
@[simp] theorem raiseStanding_ports (n : Nest) :
    (raiseStanding n s).ports = s.ports := rfl
@[simp] theorem raiseStanding_judge (n : Nest) :
    (raiseStanding n s).judge = s.judge := rfl
@[simp] theorem raiseStanding_coalesce (n : Nest) :
    (raiseStanding n s).coalesce = s.coalesce := rfl
@[simp] theorem raiseStanding_retire (n : Nest) :
    (raiseStanding n s).retire = s.retire := rfl
@[simp] theorem raiseStanding_lot (n : Nest) :
    (raiseStanding n s).lot = s.lot := rfl
@[simp] theorem raiseStanding_mgmt (n : Nest) :
    (raiseStanding n s).mgmt = s.mgmt := rfl
@[simp] theorem raiseStanding_pending (n : Nest) :
    (raiseStanding n s).pending = s.pending := rfl

/-! ### `voidQueued` -/

@[simp] theorem voidQueued_phase (n : Nest) (p : Copy → Bool) :
    (voidQueued n p s).phase = s.phase := by simp [voidQueued]
@[simp] theorem voidQueued_signal (n : Nest) (p : Copy → Bool) :
    (voidQueued n p s).signal = s.signal := by simp [voidQueued]
@[simp] theorem voidQueued_phyUp (n : Nest) (p : Copy → Bool) :
    (voidQueued n p s).phyUp = s.phyUp := by simp [voidQueued]
@[simp] theorem voidQueued_uplink (n : Nest) (p : Copy → Bool) :
    (voidQueued n p s).uplink = s.uplink := by simp [voidQueued]
@[simp] theorem voidQueued_dispatcher (n : Nest) (p : Copy → Bool) :
    (voidQueued n p s).dispatcher = s.dispatcher := by simp [voidQueued]
@[simp] theorem voidQueued_streams (n : Nest) (p : Copy → Bool) :
    (voidQueued n p s).streams = s.streams := by simp [voidQueued]
@[simp] theorem voidQueued_groups (n : Nest) (p : Copy → Bool) :
    (voidQueued n p s).groups = s.groups := by simp [voidQueued]
@[simp] theorem voidQueued_coalesce (n : Nest) (p : Copy → Bool) :
    (voidQueued n p s).coalesce = s.coalesce := by simp [voidQueued]
@[simp] theorem voidQueued_notice (n : Nest) (p : Copy → Bool) :
    (voidQueued n p s).notice = s.notice := by simp [voidQueued]
@[simp] theorem voidQueued_mgmt (n : Nest) (p : Copy → Bool) :
    (voidQueued n p s).mgmt = s.mgmt := by simp [voidQueued]
@[simp] theorem voidQueued_pending (n : Nest) (p : Copy → Bool) :
    (voidQueued n p s).pending = s.pending := by simp [voidQueued]
@[simp] theorem voidQueued_judge_profiles (n : Nest) (p : Copy → Bool) :
    (voidQueued n p s).judge.profiles = s.judge.profiles := by simp [voidQueued]
@[simp] theorem voidQueued_judge_codeSets (n : Nest) (p : Copy → Bool) :
    (voidQueued n p s).judge.codeSets = s.judge.codeSets := by simp [voidQueued]
@[simp] theorem voidQueued_retire_lists (n : Nest) (p : Copy → Bool) :
    (voidQueued n p s).retire.lists = s.retire.lists := by simp [voidQueued]
@[simp] theorem voidQueued_retire_rotation (n : Nest) (p : Copy → Bool) :
    (voidQueued n p s).retire.rotation = s.retire.rotation := by simp [voidQueued]
@[simp] theorem voidQueued_retire_progress (n : Nest) (p : Copy → Bool) :
    (voidQueued n p s).retire.progress = s.retire.progress := by simp [voidQueued]
@[simp] theorem voidQueued_lot_isOpen (n : Nest) (p : Copy → Bool) :
    (voidQueued n p s).lot.isOpen = s.lot.isOpen := by simp [voidQueued]
@[simp] theorem voidQueued_lot_id (n : Nest) (p : Copy → Bool) :
    (voidQueued n p s).lot.id = s.lot.id := by simp [voidQueued]

/-! ### `takeVoids` -/

@[simp] theorem takeVoids_phase (n : Nest) (cs ds : List VoidCause) :
    (takeVoids n cs ds s).phase = s.phase := by simp [takeVoids]
@[simp] theorem takeVoids_signal (n : Nest) (cs ds : List VoidCause) :
    (takeVoids n cs ds s).signal = s.signal := by simp [takeVoids]
@[simp] theorem takeVoids_phyUp (n : Nest) (cs ds : List VoidCause) :
    (takeVoids n cs ds s).phyUp = s.phyUp := by simp [takeVoids]
@[simp] theorem takeVoids_uplink (n : Nest) (cs ds : List VoidCause) :
    (takeVoids n cs ds s).uplink = s.uplink := by simp [takeVoids]
@[simp] theorem takeVoids_dispatcher (n : Nest) (cs ds : List VoidCause) :
    (takeVoids n cs ds s).dispatcher = s.dispatcher := by simp [takeVoids]
@[simp] theorem takeVoids_streams (n : Nest) (cs ds : List VoidCause) :
    (takeVoids n cs ds s).streams = s.streams := by simp [takeVoids]
@[simp] theorem takeVoids_groups (n : Nest) (cs ds : List VoidCause) :
    (takeVoids n cs ds s).groups = s.groups := by simp [takeVoids]
@[simp] theorem takeVoids_coalesce (n : Nest) (cs ds : List VoidCause) :
    (takeVoids n cs ds s).coalesce = s.coalesce := by simp [takeVoids]
@[simp] theorem takeVoids_notice (n : Nest) (cs ds : List VoidCause) :
    (takeVoids n cs ds s).notice = s.notice := by simp [takeVoids]
@[simp] theorem takeVoids_mgmt (n : Nest) (cs ds : List VoidCause) :
    (takeVoids n cs ds s).mgmt = s.mgmt := by simp [takeVoids]
@[simp] theorem takeVoids_pending (n : Nest) (cs ds : List VoidCause) :
    (takeVoids n cs ds s).pending = s.pending := by simp [takeVoids]
@[simp] theorem takeVoids_judge_profiles (n : Nest) (cs ds : List VoidCause) :
    (takeVoids n cs ds s).judge.profiles = s.judge.profiles := by simp [takeVoids]
@[simp] theorem takeVoids_judge_codeSets (n : Nest) (cs ds : List VoidCause) :
    (takeVoids n cs ds s).judge.codeSets = s.judge.codeSets := by simp [takeVoids]
@[simp] theorem takeVoids_retire_lists (n : Nest) (cs ds : List VoidCause) :
    (takeVoids n cs ds s).retire.lists = s.retire.lists := by simp [takeVoids]
@[simp] theorem takeVoids_retire_rotation (n : Nest) (cs ds : List VoidCause) :
    (takeVoids n cs ds s).retire.rotation = s.retire.rotation := by simp [takeVoids]
@[simp] theorem takeVoids_retire_progress (n : Nest) (cs ds : List VoidCause) :
    (takeVoids n cs ds s).retire.progress = s.retire.progress := by simp [takeVoids]
@[simp] theorem takeVoids_lot_isOpen (n : Nest) (cs ds : List VoidCause) :
    (takeVoids n cs ds s).lot.isOpen = s.lot.isOpen := by simp [takeVoids]
@[simp] theorem takeVoids_lot_id (n : Nest) (cs ds : List VoidCause) :
    (takeVoids n cs ds s).lot.id = s.lot.id := by simp [takeVoids]

/-! ### `takeWaitingVoids` -/

@[simp] theorem takeWaitingVoids_phase (n : Nest) :
    (takeWaitingVoids n s).phase = s.phase := by unfold takeWaitingVoids; split <;> simp
@[simp] theorem takeWaitingVoids_signal (n : Nest) :
    (takeWaitingVoids n s).signal = s.signal := by unfold takeWaitingVoids; split <;> simp
@[simp] theorem takeWaitingVoids_phyUp (n : Nest) :
    (takeWaitingVoids n s).phyUp = s.phyUp := by unfold takeWaitingVoids; split <;> simp
@[simp] theorem takeWaitingVoids_uplink (n : Nest) :
    (takeWaitingVoids n s).uplink = s.uplink := by unfold takeWaitingVoids; split <;> simp
@[simp] theorem takeWaitingVoids_dispatcher (n : Nest) :
    (takeWaitingVoids n s).dispatcher = s.dispatcher := by unfold takeWaitingVoids; split <;> simp
@[simp] theorem takeWaitingVoids_streams (n : Nest) :
    (takeWaitingVoids n s).streams = s.streams := by unfold takeWaitingVoids; split <;> simp
@[simp] theorem takeWaitingVoids_groups (n : Nest) :
    (takeWaitingVoids n s).groups = s.groups := by unfold takeWaitingVoids; split <;> simp
@[simp] theorem takeWaitingVoids_coalesce (n : Nest) :
    (takeWaitingVoids n s).coalesce = s.coalesce := by unfold takeWaitingVoids; split <;> simp
@[simp] theorem takeWaitingVoids_notice (n : Nest) :
    (takeWaitingVoids n s).notice = s.notice := by unfold takeWaitingVoids; split <;> simp
@[simp] theorem takeWaitingVoids_mgmt (n : Nest) :
    (takeWaitingVoids n s).mgmt = s.mgmt := by unfold takeWaitingVoids; split <;> simp
@[simp] theorem takeWaitingVoids_pending (n : Nest) :
    (takeWaitingVoids n s).pending = s.pending := by unfold takeWaitingVoids; split <;> simp
@[simp] theorem takeWaitingVoids_judge_profiles (n : Nest) :
    (takeWaitingVoids n s).judge.profiles = s.judge.profiles := by unfold takeWaitingVoids; split <;> simp
@[simp] theorem takeWaitingVoids_judge_codeSets (n : Nest) :
    (takeWaitingVoids n s).judge.codeSets = s.judge.codeSets := by unfold takeWaitingVoids; split <;> simp
@[simp] theorem takeWaitingVoids_retire_lists (n : Nest) :
    (takeWaitingVoids n s).retire.lists = s.retire.lists := by unfold takeWaitingVoids; split <;> simp
@[simp] theorem takeWaitingVoids_retire_rotation (n : Nest) :
    (takeWaitingVoids n s).retire.rotation = s.retire.rotation := by unfold takeWaitingVoids; split <;> simp
@[simp] theorem takeWaitingVoids_retire_progress (n : Nest) :
    (takeWaitingVoids n s).retire.progress = s.retire.progress := by unfold takeWaitingVoids; split <;> simp
@[simp] theorem takeWaitingVoids_lot_isOpen (n : Nest) :
    (takeWaitingVoids n s).lot.isOpen = s.lot.isOpen := by unfold takeWaitingVoids; split <;> simp
@[simp] theorem takeWaitingVoids_lot_id (n : Nest) :
    (takeWaitingVoids n s).lot.id = s.lot.id := by unfold takeWaitingVoids; split <;> simp

/-! ### `haltHead` -/

@[simp] theorem haltHead_phase (n : Nest) (p : Copy → Bool) :
    (haltHead n p s).phase = s.phase := by unfold haltHead; repeat' (first | rfl | split | simp)
@[simp] theorem haltHead_signal (n : Nest) (p : Copy → Bool) :
    (haltHead n p s).signal = s.signal := by unfold haltHead; repeat' (first | rfl | split | simp)
@[simp] theorem haltHead_phyUp (n : Nest) (p : Copy → Bool) :
    (haltHead n p s).phyUp = s.phyUp := by unfold haltHead; repeat' (first | rfl | split | simp)
@[simp] theorem haltHead_uplink (n : Nest) (p : Copy → Bool) :
    (haltHead n p s).uplink = s.uplink := by unfold haltHead; repeat' (first | rfl | split | simp)
@[simp] theorem haltHead_dispatcher (n : Nest) (p : Copy → Bool) :
    (haltHead n p s).dispatcher = s.dispatcher := by unfold haltHead; repeat' (first | rfl | split | simp)
@[simp] theorem haltHead_streams (n : Nest) (p : Copy → Bool) :
    (haltHead n p s).streams = s.streams := by unfold haltHead; repeat' (first | rfl | split | simp)
@[simp] theorem haltHead_groups (n : Nest) (p : Copy → Bool) :
    (haltHead n p s).groups = s.groups := by unfold haltHead; repeat' (first | rfl | split | simp)
@[simp] theorem haltHead_coalesce (n : Nest) (p : Copy → Bool) :
    (haltHead n p s).coalesce = s.coalesce := by unfold haltHead; repeat' (first | rfl | split | simp)
@[simp] theorem haltHead_notice (n : Nest) (p : Copy → Bool) :
    (haltHead n p s).notice = s.notice := by unfold haltHead; repeat' (first | rfl | split | simp)
@[simp] theorem haltHead_mgmt (n : Nest) (p : Copy → Bool) :
    (haltHead n p s).mgmt = s.mgmt := by unfold haltHead; repeat' (first | rfl | split | simp)
@[simp] theorem haltHead_pending (n : Nest) (p : Copy → Bool) :
    (haltHead n p s).pending = s.pending := by unfold haltHead; repeat' (first | rfl | split | simp)
@[simp] theorem haltHead_judge_profiles (n : Nest) (p : Copy → Bool) :
    (haltHead n p s).judge.profiles = s.judge.profiles := by unfold haltHead; repeat' (first | rfl | split | simp)
@[simp] theorem haltHead_judge_codeSets (n : Nest) (p : Copy → Bool) :
    (haltHead n p s).judge.codeSets = s.judge.codeSets := by unfold haltHead; repeat' (first | rfl | split | simp)
@[simp] theorem haltHead_retire_lists (n : Nest) (p : Copy → Bool) :
    (haltHead n p s).retire.lists = s.retire.lists := by unfold haltHead; repeat' (first | rfl | split | simp)
@[simp] theorem haltHead_retire_rotation (n : Nest) (p : Copy → Bool) :
    (haltHead n p s).retire.rotation = s.retire.rotation := by unfold haltHead; repeat' (first | rfl | split | simp)
@[simp] theorem haltHead_retire_progress (n : Nest) (p : Copy → Bool) :
    (haltHead n p s).retire.progress = s.retire.progress := by unfold haltHead; repeat' (first | rfl | split | simp)
@[simp] theorem haltHead_lot_isOpen (n : Nest) (p : Copy → Bool) :
    (haltHead n p s).lot.isOpen = s.lot.isOpen := by unfold haltHead; repeat' (first | rfl | split | simp)
@[simp] theorem haltHead_lot_id (n : Nest) (p : Copy → Bool) :
    (haltHead n p s).lot.id = s.lot.id := by unfold haltHead; repeat' (first | rfl | split | simp)

/-! ### `endHalt` -/

@[simp] theorem endHalt_phase (n : Nest) :
    (endHalt n s).phase = s.phase := rfl
@[simp] theorem endHalt_signal (n : Nest) :
    (endHalt n s).signal = s.signal := rfl
@[simp] theorem endHalt_phyUp (n : Nest) :
    (endHalt n s).phyUp = s.phyUp := rfl
@[simp] theorem endHalt_uplink (n : Nest) :
    (endHalt n s).uplink = s.uplink := rfl
@[simp] theorem endHalt_dispatcher (n : Nest) :
    (endHalt n s).dispatcher = s.dispatcher := rfl
@[simp] theorem endHalt_streams (n : Nest) :
    (endHalt n s).streams = s.streams := rfl
@[simp] theorem endHalt_table (n : Nest) :
    (endHalt n s).table = s.table := rfl
@[simp] theorem endHalt_payload (n : Nest) :
    (endHalt n s).payload = s.payload := rfl
@[simp] theorem endHalt_groups (n : Nest) :
    (endHalt n s).groups = s.groups := rfl
@[simp] theorem endHalt_judge (n : Nest) :
    (endHalt n s).judge = s.judge := rfl
@[simp] theorem endHalt_coalesce (n : Nest) :
    (endHalt n s).coalesce = s.coalesce := rfl
@[simp] theorem endHalt_retire (n : Nest) :
    (endHalt n s).retire = s.retire := rfl
@[simp] theorem endHalt_lot (n : Nest) :
    (endHalt n s).lot = s.lot := rfl
@[simp] theorem endHalt_notice (n : Nest) :
    (endHalt n s).notice = s.notice := rfl
@[simp] theorem endHalt_mgmt (n : Nest) :
    (endHalt n s).mgmt = s.mgmt := rfl
@[simp] theorem endHalt_pending (n : Nest) :
    (endHalt n s).pending = s.pending := rfl

/-! ### `absenceRule` -/

@[simp] theorem absenceRule_phase (n : Nest) :
    (absenceRule n s).phase = s.phase := by simp [absenceRule]
@[simp] theorem absenceRule_signal (n : Nest) :
    (absenceRule n s).signal = s.signal := by simp [absenceRule]
@[simp] theorem absenceRule_phyUp (n : Nest) :
    (absenceRule n s).phyUp = s.phyUp := by simp [absenceRule]
@[simp] theorem absenceRule_uplink (n : Nest) :
    (absenceRule n s).uplink = s.uplink := by simp [absenceRule]
@[simp] theorem absenceRule_dispatcher (n : Nest) :
    (absenceRule n s).dispatcher = s.dispatcher := by simp [absenceRule]
@[simp] theorem absenceRule_streams (n : Nest) :
    (absenceRule n s).streams = s.streams := by simp [absenceRule]
@[simp] theorem absenceRule_groups (n : Nest) :
    (absenceRule n s).groups = s.groups := by simp [absenceRule]
@[simp] theorem absenceRule_coalesce (n : Nest) :
    (absenceRule n s).coalesce = s.coalesce := by simp [absenceRule]
@[simp] theorem absenceRule_notice (n : Nest) :
    (absenceRule n s).notice = s.notice := by simp [absenceRule]
@[simp] theorem absenceRule_mgmt (n : Nest) :
    (absenceRule n s).mgmt = s.mgmt := by simp [absenceRule]
@[simp] theorem absenceRule_pending (n : Nest) :
    (absenceRule n s).pending = s.pending := by simp [absenceRule]
@[simp] theorem absenceRule_judge_profiles (n : Nest) :
    (absenceRule n s).judge.profiles = s.judge.profiles := by simp [absenceRule]
@[simp] theorem absenceRule_judge_codeSets (n : Nest) :
    (absenceRule n s).judge.codeSets = s.judge.codeSets := by simp [absenceRule]
@[simp] theorem absenceRule_retire_lists (n : Nest) :
    (absenceRule n s).retire.lists = s.retire.lists := by simp [absenceRule]
@[simp] theorem absenceRule_retire_rotation (n : Nest) :
    (absenceRule n s).retire.rotation = s.retire.rotation := by simp [absenceRule]
@[simp] theorem absenceRule_retire_progress (n : Nest) :
    (absenceRule n s).retire.progress = s.retire.progress := by simp [absenceRule]
@[simp] theorem absenceRule_lot_isOpen (n : Nest) :
    (absenceRule n s).lot.isOpen = s.lot.isOpen := by simp [absenceRule]
@[simp] theorem absenceRule_lot_id (n : Nest) :
    (absenceRule n s).lot.id = s.lot.id := by simp [absenceRule]

/-! ### `sendRun` -/

@[simp] theorem sendRun_phase (n : Nest) (c : Copy) :
    (sendRun n c s).phase = s.phase := rfl
@[simp] theorem sendRun_signal (n : Nest) (c : Copy) :
    (sendRun n c s).signal = s.signal := rfl
@[simp] theorem sendRun_phyUp (n : Nest) (c : Copy) :
    (sendRun n c s).phyUp = s.phyUp := rfl
@[simp] theorem sendRun_uplink (n : Nest) (c : Copy) :
    (sendRun n c s).uplink = s.uplink := rfl
@[simp] theorem sendRun_dispatcher (n : Nest) (c : Copy) :
    (sendRun n c s).dispatcher = s.dispatcher := rfl
@[simp] theorem sendRun_streams (n : Nest) (c : Copy) :
    (sendRun n c s).streams = s.streams := rfl
@[simp] theorem sendRun_table (n : Nest) (c : Copy) :
    (sendRun n c s).table = s.table := rfl
@[simp] theorem sendRun_payload (n : Nest) (c : Copy) :
    (sendRun n c s).payload = s.payload := rfl
@[simp] theorem sendRun_groups (n : Nest) (c : Copy) :
    (sendRun n c s).groups = s.groups := rfl
@[simp] theorem sendRun_judge (n : Nest) (c : Copy) :
    (sendRun n c s).judge = s.judge := rfl
@[simp] theorem sendRun_coalesce (n : Nest) (c : Copy) :
    (sendRun n c s).coalesce = s.coalesce := rfl
@[simp] theorem sendRun_retire (n : Nest) (c : Copy) :
    (sendRun n c s).retire = s.retire := rfl
@[simp] theorem sendRun_lot (n : Nest) (c : Copy) :
    (sendRun n c s).lot = s.lot := rfl
@[simp] theorem sendRun_notice (n : Nest) (c : Copy) :
    (sendRun n c s).notice = s.notice := rfl
@[simp] theorem sendRun_mgmt (n : Nest) (c : Copy) :
    (sendRun n c s).mgmt = s.mgmt := rfl
@[simp] theorem sendRun_pending (n : Nest) (c : Copy) :
    (sendRun n c s).pending = s.pending := rfl

/-! ### `enterTraining` -/

@[simp] theorem enterTraining_phase (n : Nest) :
    (enterTraining n s).phase = s.phase := rfl
@[simp] theorem enterTraining_signal (n : Nest) :
    (enterTraining n s).signal = s.signal := rfl
@[simp] theorem enterTraining_phyUp (n : Nest) :
    (enterTraining n s).phyUp = s.phyUp := rfl
@[simp] theorem enterTraining_uplink (n : Nest) :
    (enterTraining n s).uplink = s.uplink := rfl
@[simp] theorem enterTraining_dispatcher (n : Nest) :
    (enterTraining n s).dispatcher = s.dispatcher := rfl
@[simp] theorem enterTraining_streams (n : Nest) :
    (enterTraining n s).streams = s.streams := rfl
@[simp] theorem enterTraining_table (n : Nest) :
    (enterTraining n s).table = s.table := rfl
@[simp] theorem enterTraining_payload (n : Nest) :
    (enterTraining n s).payload = s.payload := rfl
@[simp] theorem enterTraining_groups (n : Nest) :
    (enterTraining n s).groups = s.groups := rfl
@[simp] theorem enterTraining_judge (n : Nest) :
    (enterTraining n s).judge = s.judge := rfl
@[simp] theorem enterTraining_coalesce (n : Nest) :
    (enterTraining n s).coalesce = s.coalesce := rfl
@[simp] theorem enterTraining_retire (n : Nest) :
    (enterTraining n s).retire = s.retire := rfl
@[simp] theorem enterTraining_lot (n : Nest) :
    (enterTraining n s).lot = s.lot := rfl
@[simp] theorem enterTraining_mgmt (n : Nest) :
    (enterTraining n s).mgmt = s.mgmt := rfl
@[simp] theorem enterTraining_pending (n : Nest) :
    (enterTraining n s).pending = s.pending := rfl

/-! ### `trainIfReady` -/

@[simp] theorem trainIfReady_phase (n : Nest) :
    (trainIfReady n s).phase = s.phase := by unfold trainIfReady; split <;> rfl
@[simp] theorem trainIfReady_signal (n : Nest) :
    (trainIfReady n s).signal = s.signal := by unfold trainIfReady; split <;> rfl
@[simp] theorem trainIfReady_phyUp (n : Nest) :
    (trainIfReady n s).phyUp = s.phyUp := by unfold trainIfReady; split <;> rfl
@[simp] theorem trainIfReady_uplink (n : Nest) :
    (trainIfReady n s).uplink = s.uplink := by unfold trainIfReady; split <;> rfl
@[simp] theorem trainIfReady_dispatcher (n : Nest) :
    (trainIfReady n s).dispatcher = s.dispatcher := by unfold trainIfReady; split <;> rfl
@[simp] theorem trainIfReady_streams (n : Nest) :
    (trainIfReady n s).streams = s.streams := by unfold trainIfReady; split <;> rfl
@[simp] theorem trainIfReady_table (n : Nest) :
    (trainIfReady n s).table = s.table := by unfold trainIfReady; split <;> rfl
@[simp] theorem trainIfReady_payload (n : Nest) :
    (trainIfReady n s).payload = s.payload := by unfold trainIfReady; split <;> rfl
@[simp] theorem trainIfReady_groups (n : Nest) :
    (trainIfReady n s).groups = s.groups := by unfold trainIfReady; split <;> rfl
@[simp] theorem trainIfReady_judge (n : Nest) :
    (trainIfReady n s).judge = s.judge := by unfold trainIfReady; split <;> rfl
@[simp] theorem trainIfReady_coalesce (n : Nest) :
    (trainIfReady n s).coalesce = s.coalesce := by unfold trainIfReady; split <;> rfl
@[simp] theorem trainIfReady_retire (n : Nest) :
    (trainIfReady n s).retire = s.retire := by unfold trainIfReady; split <;> rfl
@[simp] theorem trainIfReady_lot (n : Nest) :
    (trainIfReady n s).lot = s.lot := by unfold trainIfReady; split <;> rfl
@[simp] theorem trainIfReady_mgmt (n : Nest) :
    (trainIfReady n s).mgmt = s.mgmt := by unfold trainIfReady; split <;> rfl
@[simp] theorem trainIfReady_pending (n : Nest) :
    (trainIfReady n s).pending = s.pending := by unfold trainIfReady; split <;> rfl

/-! ### `presenceGone` -/

@[simp] theorem presenceGone_phase (n : Nest) :
    (presenceGone n s).phase = s.phase := by unfold presenceGone; split <;> rfl
@[simp] theorem presenceGone_signal (n : Nest) :
    (presenceGone n s).signal = s.signal := by unfold presenceGone; split <;> rfl
@[simp] theorem presenceGone_phyUp (n : Nest) :
    (presenceGone n s).phyUp = s.phyUp := by unfold presenceGone; split <;> rfl
@[simp] theorem presenceGone_uplink (n : Nest) :
    (presenceGone n s).uplink = s.uplink := by unfold presenceGone; split <;> rfl
@[simp] theorem presenceGone_dispatcher (n : Nest) :
    (presenceGone n s).dispatcher = s.dispatcher := by unfold presenceGone; split <;> rfl
@[simp] theorem presenceGone_streams (n : Nest) :
    (presenceGone n s).streams = s.streams := by unfold presenceGone; split <;> rfl
@[simp] theorem presenceGone_table (n : Nest) :
    (presenceGone n s).table = s.table := by unfold presenceGone; split <;> rfl
@[simp] theorem presenceGone_payload (n : Nest) :
    (presenceGone n s).payload = s.payload := by unfold presenceGone; split <;> rfl
@[simp] theorem presenceGone_groups (n : Nest) :
    (presenceGone n s).groups = s.groups := by unfold presenceGone; split <;> rfl
@[simp] theorem presenceGone_judge (n : Nest) :
    (presenceGone n s).judge = s.judge := by unfold presenceGone; split <;> rfl
@[simp] theorem presenceGone_coalesce (n : Nest) :
    (presenceGone n s).coalesce = s.coalesce := by unfold presenceGone; split <;> rfl
@[simp] theorem presenceGone_retire (n : Nest) :
    (presenceGone n s).retire = s.retire := by unfold presenceGone; split <;> rfl
@[simp] theorem presenceGone_lot (n : Nest) :
    (presenceGone n s).lot = s.lot := by unfold presenceGone; split <;> rfl
@[simp] theorem presenceGone_mgmt (n : Nest) :
    (presenceGone n s).mgmt = s.mgmt := by unfold presenceGone; split <;> rfl
@[simp] theorem presenceGone_pending (n : Nest) :
    (presenceGone n s).pending = s.pending := by unfold presenceGone; split <;> rfl

/-! ### `linkDown` -/

@[simp] theorem linkDown_phase (n : Nest) :
    (linkDown n s).phase = s.phase := by unfold linkDown; split <;> simp
@[simp] theorem linkDown_signal (n : Nest) :
    (linkDown n s).signal = s.signal := by unfold linkDown; split <;> simp
@[simp] theorem linkDown_phyUp (n : Nest) :
    (linkDown n s).phyUp = s.phyUp := by unfold linkDown; split <;> simp
@[simp] theorem linkDown_uplink (n : Nest) :
    (linkDown n s).uplink = s.uplink := by unfold linkDown; split <;> simp
@[simp] theorem linkDown_dispatcher (n : Nest) :
    (linkDown n s).dispatcher = s.dispatcher := by unfold linkDown; split <;> simp
@[simp] theorem linkDown_streams (n : Nest) :
    (linkDown n s).streams = s.streams := by unfold linkDown; split <;> simp
@[simp] theorem linkDown_groups (n : Nest) :
    (linkDown n s).groups = s.groups := by unfold linkDown; split <;> simp
@[simp] theorem linkDown_coalesce (n : Nest) :
    (linkDown n s).coalesce = s.coalesce := by unfold linkDown; split <;> simp
@[simp] theorem linkDown_mgmt (n : Nest) :
    (linkDown n s).mgmt = s.mgmt := by unfold linkDown; split <;> simp
@[simp] theorem linkDown_pending (n : Nest) :
    (linkDown n s).pending = s.pending := by unfold linkDown; split <;> simp
@[simp] theorem linkDown_judge_profiles (n : Nest) :
    (linkDown n s).judge.profiles = s.judge.profiles := by unfold linkDown; split <;> simp
@[simp] theorem linkDown_judge_codeSets (n : Nest) :
    (linkDown n s).judge.codeSets = s.judge.codeSets := by unfold linkDown; split <;> simp
@[simp] theorem linkDown_retire_lists (n : Nest) :
    (linkDown n s).retire.lists = s.retire.lists := by unfold linkDown; split <;> simp
@[simp] theorem linkDown_retire_rotation (n : Nest) :
    (linkDown n s).retire.rotation = s.retire.rotation := by unfold linkDown; split <;> simp
@[simp] theorem linkDown_retire_progress (n : Nest) :
    (linkDown n s).retire.progress = s.retire.progress := by unfold linkDown; split <;> simp
@[simp] theorem linkDown_lot_isOpen (n : Nest) :
    (linkDown n s).lot.isOpen = s.lot.isOpen := by unfold linkDown; split <;> simp
@[simp] theorem linkDown_lot_id (n : Nest) :
    (linkDown n s).lot.id = s.lot.id := by unfold linkDown; split <;> simp

/-! ### `setPresence` -/

@[simp] theorem setPresence_phase (n : Nest) (p : Bool) :
    (setPresence n p s).phase = s.phase := by unfold setPresence; (split <;> split) <;> simp
@[simp] theorem setPresence_signal (n : Nest) (p : Bool) :
    (setPresence n p s).signal = s.signal := by unfold setPresence; (split <;> split) <;> simp
@[simp] theorem setPresence_phyUp (n : Nest) (p : Bool) :
    (setPresence n p s).phyUp = s.phyUp := by unfold setPresence; (split <;> split) <;> simp
@[simp] theorem setPresence_uplink (n : Nest) (p : Bool) :
    (setPresence n p s).uplink = s.uplink := by unfold setPresence; (split <;> split) <;> simp
@[simp] theorem setPresence_dispatcher (n : Nest) (p : Bool) :
    (setPresence n p s).dispatcher = s.dispatcher := by unfold setPresence; (split <;> split) <;> simp
@[simp] theorem setPresence_streams (n : Nest) (p : Bool) :
    (setPresence n p s).streams = s.streams := by unfold setPresence; (split <;> split) <;> simp
@[simp] theorem setPresence_groups (n : Nest) (p : Bool) :
    (setPresence n p s).groups = s.groups := by unfold setPresence; (split <;> split) <;> simp
@[simp] theorem setPresence_coalesce (n : Nest) (p : Bool) :
    (setPresence n p s).coalesce = s.coalesce := by unfold setPresence; (split <;> split) <;> simp
@[simp] theorem setPresence_mgmt (n : Nest) (p : Bool) :
    (setPresence n p s).mgmt = s.mgmt := by unfold setPresence; (split <;> split) <;> simp
@[simp] theorem setPresence_pending (n : Nest) (p : Bool) :
    (setPresence n p s).pending = s.pending := by unfold setPresence; (split <;> split) <;> simp
@[simp] theorem setPresence_judge_profiles (n : Nest) (p : Bool) :
    (setPresence n p s).judge.profiles = s.judge.profiles := by unfold setPresence; (split <;> split) <;> simp
@[simp] theorem setPresence_judge_codeSets (n : Nest) (p : Bool) :
    (setPresence n p s).judge.codeSets = s.judge.codeSets := by unfold setPresence; (split <;> split) <;> simp
@[simp] theorem setPresence_retire_progress (n : Nest) (p : Bool) :
    (setPresence n p s).retire.progress = s.retire.progress := by unfold setPresence; (split <;> split) <;> simp

/-! ### `countBadFrame` -/

@[simp] theorem countBadFrame_phase (n : Nest) :
    (countBadFrame n s).phase = s.phase := by unfold countBadFrame; split <;> rfl
@[simp] theorem countBadFrame_signal (n : Nest) :
    (countBadFrame n s).signal = s.signal := by unfold countBadFrame; split <;> rfl
@[simp] theorem countBadFrame_phyUp (n : Nest) :
    (countBadFrame n s).phyUp = s.phyUp := by unfold countBadFrame; split <;> rfl
@[simp] theorem countBadFrame_uplink (n : Nest) :
    (countBadFrame n s).uplink = s.uplink := by unfold countBadFrame; split <;> rfl
@[simp] theorem countBadFrame_dispatcher (n : Nest) :
    (countBadFrame n s).dispatcher = s.dispatcher := by unfold countBadFrame; split <;> rfl
@[simp] theorem countBadFrame_streams (n : Nest) :
    (countBadFrame n s).streams = s.streams := by unfold countBadFrame; split <;> rfl
@[simp] theorem countBadFrame_table (n : Nest) :
    (countBadFrame n s).table = s.table := by unfold countBadFrame; split <;> rfl
@[simp] theorem countBadFrame_payload (n : Nest) :
    (countBadFrame n s).payload = s.payload := by unfold countBadFrame; split <;> rfl
@[simp] theorem countBadFrame_groups (n : Nest) :
    (countBadFrame n s).groups = s.groups := by unfold countBadFrame; split <;> rfl
@[simp] theorem countBadFrame_judge (n : Nest) :
    (countBadFrame n s).judge = s.judge := by unfold countBadFrame; split <;> rfl
@[simp] theorem countBadFrame_coalesce (n : Nest) :
    (countBadFrame n s).coalesce = s.coalesce := by unfold countBadFrame; split <;> rfl
@[simp] theorem countBadFrame_retire (n : Nest) :
    (countBadFrame n s).retire = s.retire := by unfold countBadFrame; split <;> rfl
@[simp] theorem countBadFrame_lot (n : Nest) :
    (countBadFrame n s).lot = s.lot := by unfold countBadFrame; split <;> rfl
@[simp] theorem countBadFrame_notice (n : Nest) :
    (countBadFrame n s).notice = s.notice := by unfold countBadFrame; split <;> rfl
@[simp] theorem countBadFrame_mgmt (n : Nest) :
    (countBadFrame n s).mgmt = s.mgmt := by unfold countBadFrame; split <;> rfl
@[simp] theorem countBadFrame_pending (n : Nest) :
    (countBadFrame n s).pending = s.pending := by unfold countBadFrame; split <;> rfl

/-! ### `countLate` -/

@[simp] theorem countLate_phase (n : Nest) :
    (countLate n s).phase = s.phase := rfl
@[simp] theorem countLate_signal (n : Nest) :
    (countLate n s).signal = s.signal := rfl
@[simp] theorem countLate_phyUp (n : Nest) :
    (countLate n s).phyUp = s.phyUp := rfl
@[simp] theorem countLate_uplink (n : Nest) :
    (countLate n s).uplink = s.uplink := rfl
@[simp] theorem countLate_dispatcher (n : Nest) :
    (countLate n s).dispatcher = s.dispatcher := rfl
@[simp] theorem countLate_streams (n : Nest) :
    (countLate n s).streams = s.streams := rfl
@[simp] theorem countLate_table (n : Nest) :
    (countLate n s).table = s.table := rfl
@[simp] theorem countLate_payload (n : Nest) :
    (countLate n s).payload = s.payload := rfl
@[simp] theorem countLate_groups (n : Nest) :
    (countLate n s).groups = s.groups := rfl
@[simp] theorem countLate_judge (n : Nest) :
    (countLate n s).judge = s.judge := rfl
@[simp] theorem countLate_coalesce (n : Nest) :
    (countLate n s).coalesce = s.coalesce := rfl
@[simp] theorem countLate_retire (n : Nest) :
    (countLate n s).retire = s.retire := rfl
@[simp] theorem countLate_lot (n : Nest) :
    (countLate n s).lot = s.lot := rfl
@[simp] theorem countLate_notice (n : Nest) :
    (countLate n s).notice = s.notice := rfl
@[simp] theorem countLate_mgmt (n : Nest) :
    (countLate n s).mgmt = s.mgmt := rfl
@[simp] theorem countLate_pending (n : Nest) :
    (countLate n s).pending = s.pending := rfl

/-! ### `setHead` -/

@[simp] theorem setHead_phase (n : Nest) (c : Copy) :
    (setHead n c s).phase = s.phase := rfl
@[simp] theorem setHead_signal (n : Nest) (c : Copy) :
    (setHead n c s).signal = s.signal := rfl
@[simp] theorem setHead_phyUp (n : Nest) (c : Copy) :
    (setHead n c s).phyUp = s.phyUp := rfl
@[simp] theorem setHead_uplink (n : Nest) (c : Copy) :
    (setHead n c s).uplink = s.uplink := rfl
@[simp] theorem setHead_dispatcher (n : Nest) (c : Copy) :
    (setHead n c s).dispatcher = s.dispatcher := rfl
@[simp] theorem setHead_streams (n : Nest) (c : Copy) :
    (setHead n c s).streams = s.streams := rfl
@[simp] theorem setHead_table (n : Nest) (c : Copy) :
    (setHead n c s).table = s.table := rfl
@[simp] theorem setHead_payload (n : Nest) (c : Copy) :
    (setHead n c s).payload = s.payload := rfl
@[simp] theorem setHead_groups (n : Nest) (c : Copy) :
    (setHead n c s).groups = s.groups := rfl
@[simp] theorem setHead_judge (n : Nest) (c : Copy) :
    (setHead n c s).judge = s.judge := rfl
@[simp] theorem setHead_coalesce (n : Nest) (c : Copy) :
    (setHead n c s).coalesce = s.coalesce := rfl
@[simp] theorem setHead_retire (n : Nest) (c : Copy) :
    (setHead n c s).retire = s.retire := rfl
@[simp] theorem setHead_lot (n : Nest) (c : Copy) :
    (setHead n c s).lot = s.lot := rfl
@[simp] theorem setHead_notice (n : Nest) (c : Copy) :
    (setHead n c s).notice = s.notice := rfl
@[simp] theorem setHead_mgmt (n : Nest) (c : Copy) :
    (setHead n c s).mgmt = s.mgmt := rfl
@[simp] theorem setHead_pending (n : Nest) (c : Copy) :
    (setHead n c s).pending = s.pending := rfl

/-! ### `sendLane` -/

@[simp] theorem sendLane_phase (n : Nest) (f : LaneOut) :
    (sendLane n f s).phase = s.phase := rfl
@[simp] theorem sendLane_signal (n : Nest) (f : LaneOut) :
    (sendLane n f s).signal = s.signal := rfl
@[simp] theorem sendLane_phyUp (n : Nest) (f : LaneOut) :
    (sendLane n f s).phyUp = s.phyUp := rfl
@[simp] theorem sendLane_uplink (n : Nest) (f : LaneOut) :
    (sendLane n f s).uplink = s.uplink := rfl
@[simp] theorem sendLane_dispatcher (n : Nest) (f : LaneOut) :
    (sendLane n f s).dispatcher = s.dispatcher := rfl
@[simp] theorem sendLane_streams (n : Nest) (f : LaneOut) :
    (sendLane n f s).streams = s.streams := rfl
@[simp] theorem sendLane_table (n : Nest) (f : LaneOut) :
    (sendLane n f s).table = s.table := rfl
@[simp] theorem sendLane_payload (n : Nest) (f : LaneOut) :
    (sendLane n f s).payload = s.payload := rfl
@[simp] theorem sendLane_groups (n : Nest) (f : LaneOut) :
    (sendLane n f s).groups = s.groups := rfl
@[simp] theorem sendLane_judge (n : Nest) (f : LaneOut) :
    (sendLane n f s).judge = s.judge := rfl
@[simp] theorem sendLane_coalesce (n : Nest) (f : LaneOut) :
    (sendLane n f s).coalesce = s.coalesce := rfl
@[simp] theorem sendLane_retire (n : Nest) (f : LaneOut) :
    (sendLane n f s).retire = s.retire := rfl
@[simp] theorem sendLane_lot (n : Nest) (f : LaneOut) :
    (sendLane n f s).lot = s.lot := rfl
@[simp] theorem sendLane_notice (n : Nest) (f : LaneOut) :
    (sendLane n f s).notice = s.notice := rfl
@[simp] theorem sendLane_mgmt (n : Nest) (f : LaneOut) :
    (sendLane n f s).mgmt = s.mgmt := rfl
@[simp] theorem sendLane_pending (n : Nest) (f : LaneOut) :
    (sendLane n f s).pending = s.pending := rfl

/-! ### `changeStanding` -/

@[simp] theorem changeStanding_phase (n : Nest) (x : Standing) :
    (changeStanding n x s).phase = s.phase := rfl
@[simp] theorem changeStanding_signal (n : Nest) (x : Standing) :
    (changeStanding n x s).signal = s.signal := rfl
@[simp] theorem changeStanding_phyUp (n : Nest) (x : Standing) :
    (changeStanding n x s).phyUp = s.phyUp := rfl
@[simp] theorem changeStanding_uplink (n : Nest) (x : Standing) :
    (changeStanding n x s).uplink = s.uplink := rfl
@[simp] theorem changeStanding_dispatcher (n : Nest) (x : Standing) :
    (changeStanding n x s).dispatcher = s.dispatcher := rfl
@[simp] theorem changeStanding_streams (n : Nest) (x : Standing) :
    (changeStanding n x s).streams = s.streams := rfl
@[simp] theorem changeStanding_table (n : Nest) (x : Standing) :
    (changeStanding n x s).table = s.table := rfl
@[simp] theorem changeStanding_payload (n : Nest) (x : Standing) :
    (changeStanding n x s).payload = s.payload := rfl
@[simp] theorem changeStanding_groups (n : Nest) (x : Standing) :
    (changeStanding n x s).groups = s.groups := rfl
@[simp] theorem changeStanding_ports (n : Nest) (x : Standing) :
    (changeStanding n x s).ports = s.ports := rfl
@[simp] theorem changeStanding_judge (n : Nest) (x : Standing) :
    (changeStanding n x s).judge = s.judge := rfl
@[simp] theorem changeStanding_coalesce (n : Nest) (x : Standing) :
    (changeStanding n x s).coalesce = s.coalesce := rfl
@[simp] theorem changeStanding_retire (n : Nest) (x : Standing) :
    (changeStanding n x s).retire = s.retire := rfl
@[simp] theorem changeStanding_mgmt (n : Nest) (x : Standing) :
    (changeStanding n x s).mgmt = s.mgmt := rfl
@[simp] theorem changeStanding_pending (n : Nest) (x : Standing) :
    (changeStanding n x s).pending = s.pending := rfl
@[simp] theorem changeStanding_lot_isOpen (n : Nest) (x : Standing) :
    (changeStanding n x s).lot.isOpen = s.lot.isOpen := rfl
@[simp] theorem changeStanding_lot_id (n : Nest) (x : Standing) :
    (changeStanding n x s).lot.id = s.lot.id := rfl

/-! ### `loseIfClear` -/

@[simp] theorem loseIfClear_phase (n : Nest) :
    (loseIfClear n s).phase = s.phase := by unfold loseIfClear; split <;> rfl
@[simp] theorem loseIfClear_signal (n : Nest) :
    (loseIfClear n s).signal = s.signal := by unfold loseIfClear; split <;> rfl
@[simp] theorem loseIfClear_phyUp (n : Nest) :
    (loseIfClear n s).phyUp = s.phyUp := by unfold loseIfClear; split <;> rfl
@[simp] theorem loseIfClear_uplink (n : Nest) :
    (loseIfClear n s).uplink = s.uplink := by unfold loseIfClear; split <;> rfl
@[simp] theorem loseIfClear_dispatcher (n : Nest) :
    (loseIfClear n s).dispatcher = s.dispatcher := by unfold loseIfClear; split <;> rfl
@[simp] theorem loseIfClear_streams (n : Nest) :
    (loseIfClear n s).streams = s.streams := by unfold loseIfClear; split <;> rfl
@[simp] theorem loseIfClear_table (n : Nest) :
    (loseIfClear n s).table = s.table := by unfold loseIfClear; split <;> rfl
@[simp] theorem loseIfClear_payload (n : Nest) :
    (loseIfClear n s).payload = s.payload := by unfold loseIfClear; split <;> rfl
@[simp] theorem loseIfClear_groups (n : Nest) :
    (loseIfClear n s).groups = s.groups := by unfold loseIfClear; split <;> rfl
@[simp] theorem loseIfClear_ports (n : Nest) :
    (loseIfClear n s).ports = s.ports := by unfold loseIfClear; split <;> rfl
@[simp] theorem loseIfClear_judge (n : Nest) :
    (loseIfClear n s).judge = s.judge := by unfold loseIfClear; split <;> rfl
@[simp] theorem loseIfClear_coalesce (n : Nest) :
    (loseIfClear n s).coalesce = s.coalesce := by unfold loseIfClear; split <;> rfl
@[simp] theorem loseIfClear_retire (n : Nest) :
    (loseIfClear n s).retire = s.retire := by unfold loseIfClear; split <;> rfl
@[simp] theorem loseIfClear_mgmt (n : Nest) :
    (loseIfClear n s).mgmt = s.mgmt := by unfold loseIfClear; split <;> rfl
@[simp] theorem loseIfClear_pending (n : Nest) :
    (loseIfClear n s).pending = s.pending := by unfold loseIfClear; split <;> rfl
@[simp] theorem loseIfClear_lot_isOpen (n : Nest) :
    (loseIfClear n s).lot.isOpen = s.lot.isOpen := by unfold loseIfClear; split <;> rfl
@[simp] theorem loseIfClear_lot_id (n : Nest) :
    (loseIfClear n s).lot.id = s.lot.id := by unfold loseIfClear; split <;> rfl

/-! ### `giveVoid` -/

@[simp] theorem giveVoid_phase (n : Nest) (c : VoidCause) :
    (giveVoid n c s).phase = s.phase := rfl
@[simp] theorem giveVoid_signal (n : Nest) (c : VoidCause) :
    (giveVoid n c s).signal = s.signal := rfl
@[simp] theorem giveVoid_phyUp (n : Nest) (c : VoidCause) :
    (giveVoid n c s).phyUp = s.phyUp := rfl
@[simp] theorem giveVoid_uplink (n : Nest) (c : VoidCause) :
    (giveVoid n c s).uplink = s.uplink := rfl
@[simp] theorem giveVoid_dispatcher (n : Nest) (c : VoidCause) :
    (giveVoid n c s).dispatcher = s.dispatcher := rfl
@[simp] theorem giveVoid_streams (n : Nest) (c : VoidCause) :
    (giveVoid n c s).streams = s.streams := rfl
@[simp] theorem giveVoid_table (n : Nest) (c : VoidCause) :
    (giveVoid n c s).table = s.table := rfl
@[simp] theorem giveVoid_payload (n : Nest) (c : VoidCause) :
    (giveVoid n c s).payload = s.payload := rfl
@[simp] theorem giveVoid_groups (n : Nest) (c : VoidCause) :
    (giveVoid n c s).groups = s.groups := rfl
@[simp] theorem giveVoid_ports (n : Nest) (c : VoidCause) :
    (giveVoid n c s).ports = s.ports := rfl
@[simp] theorem giveVoid_judge (n : Nest) (c : VoidCause) :
    (giveVoid n c s).judge = s.judge := rfl
@[simp] theorem giveVoid_coalesce (n : Nest) (c : VoidCause) :
    (giveVoid n c s).coalesce = s.coalesce := rfl
@[simp] theorem giveVoid_retire (n : Nest) (c : VoidCause) :
    (giveVoid n c s).retire = s.retire := rfl
@[simp] theorem giveVoid_notice (n : Nest) (c : VoidCause) :
    (giveVoid n c s).notice = s.notice := rfl
@[simp] theorem giveVoid_mgmt (n : Nest) (c : VoidCause) :
    (giveVoid n c s).mgmt = s.mgmt := rfl
@[simp] theorem giveVoid_pending (n : Nest) (c : VoidCause) :
    (giveVoid n c s).pending = s.pending := rfl

/-! ### `takeStopFailure` -/

@[simp] theorem takeStopFailure_phase (n : Nest) :
    (takeStopFailure n s).phase = s.phase := by unfold takeStopFailure; split <;> rfl
@[simp] theorem takeStopFailure_signal (n : Nest) :
    (takeStopFailure n s).signal = s.signal := by unfold takeStopFailure; split <;> rfl
@[simp] theorem takeStopFailure_phyUp (n : Nest) :
    (takeStopFailure n s).phyUp = s.phyUp := by unfold takeStopFailure; split <;> rfl
@[simp] theorem takeStopFailure_uplink (n : Nest) :
    (takeStopFailure n s).uplink = s.uplink := by unfold takeStopFailure; split <;> rfl
@[simp] theorem takeStopFailure_dispatcher (n : Nest) :
    (takeStopFailure n s).dispatcher = s.dispatcher := by unfold takeStopFailure; split <;> rfl
@[simp] theorem takeStopFailure_streams (n : Nest) :
    (takeStopFailure n s).streams = s.streams := by unfold takeStopFailure; split <;> rfl
@[simp] theorem takeStopFailure_table (n : Nest) :
    (takeStopFailure n s).table = s.table := by unfold takeStopFailure; split <;> rfl
@[simp] theorem takeStopFailure_payload (n : Nest) :
    (takeStopFailure n s).payload = s.payload := by unfold takeStopFailure; split <;> rfl
@[simp] theorem takeStopFailure_groups (n : Nest) :
    (takeStopFailure n s).groups = s.groups := by unfold takeStopFailure; split <;> rfl
@[simp] theorem takeStopFailure_judge (n : Nest) :
    (takeStopFailure n s).judge = s.judge := by unfold takeStopFailure; split <;> rfl
@[simp] theorem takeStopFailure_coalesce (n : Nest) :
    (takeStopFailure n s).coalesce = s.coalesce := by unfold takeStopFailure; split <;> rfl
@[simp] theorem takeStopFailure_retire (n : Nest) :
    (takeStopFailure n s).retire = s.retire := by unfold takeStopFailure; split <;> rfl
@[simp] theorem takeStopFailure_mgmt (n : Nest) :
    (takeStopFailure n s).mgmt = s.mgmt := by unfold takeStopFailure; split <;> rfl
@[simp] theorem takeStopFailure_pending (n : Nest) :
    (takeStopFailure n s).pending = s.pending := by unfold takeStopFailure; split <;> rfl

/-! ### `haltAndVoid` -/

@[simp] theorem haltAndVoid_phase (n : Nest) (st : StreamId) :
    (haltAndVoid n st s).phase = s.phase := by simp [haltAndVoid]
@[simp] theorem haltAndVoid_signal (n : Nest) (st : StreamId) :
    (haltAndVoid n st s).signal = s.signal := by simp [haltAndVoid]
@[simp] theorem haltAndVoid_phyUp (n : Nest) (st : StreamId) :
    (haltAndVoid n st s).phyUp = s.phyUp := by simp [haltAndVoid]
@[simp] theorem haltAndVoid_uplink (n : Nest) (st : StreamId) :
    (haltAndVoid n st s).uplink = s.uplink := by simp [haltAndVoid]
@[simp] theorem haltAndVoid_dispatcher (n : Nest) (st : StreamId) :
    (haltAndVoid n st s).dispatcher = s.dispatcher := by simp [haltAndVoid]
@[simp] theorem haltAndVoid_streams (n : Nest) (st : StreamId) :
    (haltAndVoid n st s).streams = s.streams := by simp [haltAndVoid]
@[simp] theorem haltAndVoid_groups (n : Nest) (st : StreamId) :
    (haltAndVoid n st s).groups = s.groups := by simp [haltAndVoid]
@[simp] theorem haltAndVoid_coalesce (n : Nest) (st : StreamId) :
    (haltAndVoid n st s).coalesce = s.coalesce := by simp [haltAndVoid]
@[simp] theorem haltAndVoid_notice (n : Nest) (st : StreamId) :
    (haltAndVoid n st s).notice = s.notice := by simp [haltAndVoid]
@[simp] theorem haltAndVoid_mgmt (n : Nest) (st : StreamId) :
    (haltAndVoid n st s).mgmt = s.mgmt := by simp [haltAndVoid]
@[simp] theorem haltAndVoid_pending (n : Nest) (st : StreamId) :
    (haltAndVoid n st s).pending = s.pending := by simp [haltAndVoid]

/-! ### `sendCycle` -/

@[simp] theorem sendCycle_phase (n : Nest) :
    (sendCycle n s).phase = s.phase := by unfold sendCycle; split <;> rfl
@[simp] theorem sendCycle_signal (n : Nest) :
    (sendCycle n s).signal = s.signal := by unfold sendCycle; split <;> rfl
@[simp] theorem sendCycle_phyUp (n : Nest) :
    (sendCycle n s).phyUp = s.phyUp := by unfold sendCycle; split <;> rfl
@[simp] theorem sendCycle_uplink (n : Nest) :
    (sendCycle n s).uplink = s.uplink := by unfold sendCycle; split <;> rfl
@[simp] theorem sendCycle_dispatcher (n : Nest) :
    (sendCycle n s).dispatcher = s.dispatcher := by unfold sendCycle; split <;> rfl
@[simp] theorem sendCycle_streams (n : Nest) :
    (sendCycle n s).streams = s.streams := by unfold sendCycle; split <;> rfl
@[simp] theorem sendCycle_table (n : Nest) :
    (sendCycle n s).table = s.table := by unfold sendCycle; split <;> rfl
@[simp] theorem sendCycle_payload (n : Nest) :
    (sendCycle n s).payload = s.payload := by unfold sendCycle; split <;> rfl
@[simp] theorem sendCycle_groups (n : Nest) :
    (sendCycle n s).groups = s.groups := by unfold sendCycle; split <;> rfl
@[simp] theorem sendCycle_judge (n : Nest) :
    (sendCycle n s).judge = s.judge := by unfold sendCycle; split <;> rfl
@[simp] theorem sendCycle_coalesce (n : Nest) :
    (sendCycle n s).coalesce = s.coalesce := by unfold sendCycle; split <;> rfl
@[simp] theorem sendCycle_retire (n : Nest) :
    (sendCycle n s).retire = s.retire := by unfold sendCycle; split <;> rfl
@[simp] theorem sendCycle_lot (n : Nest) :
    (sendCycle n s).lot = s.lot := by unfold sendCycle; split <;> rfl
@[simp] theorem sendCycle_notice (n : Nest) :
    (sendCycle n s).notice = s.notice := by unfold sendCycle; split <;> rfl
@[simp] theorem sendCycle_mgmt (n : Nest) :
    (sendCycle n s).mgmt = s.mgmt := by unfold sendCycle; split <;> rfl
@[simp] theorem sendCycle_pending (n : Nest) :
    (sendCycle n s).pending = s.pending := by unfold sendCycle; split <;> rfl

/-! ### `setExcluded` -/

@[simp] theorem setExcluded_phase (n : Nest) (b : Bool) :
    (setExcluded n b s).phase = s.phase := rfl
@[simp] theorem setExcluded_signal (n : Nest) (b : Bool) :
    (setExcluded n b s).signal = s.signal := rfl
@[simp] theorem setExcluded_phyUp (n : Nest) (b : Bool) :
    (setExcluded n b s).phyUp = s.phyUp := rfl
@[simp] theorem setExcluded_uplink (n : Nest) (b : Bool) :
    (setExcluded n b s).uplink = s.uplink := rfl
@[simp] theorem setExcluded_dispatcher (n : Nest) (b : Bool) :
    (setExcluded n b s).dispatcher = s.dispatcher := rfl
@[simp] theorem setExcluded_streams (n : Nest) (b : Bool) :
    (setExcluded n b s).streams = s.streams := rfl
@[simp] theorem setExcluded_table (n : Nest) (b : Bool) :
    (setExcluded n b s).table = s.table := rfl
@[simp] theorem setExcluded_payload (n : Nest) (b : Bool) :
    (setExcluded n b s).payload = s.payload := rfl
@[simp] theorem setExcluded_groups (n : Nest) (b : Bool) :
    (setExcluded n b s).groups = s.groups := rfl
@[simp] theorem setExcluded_judge (n : Nest) (b : Bool) :
    (setExcluded n b s).judge = s.judge := rfl
@[simp] theorem setExcluded_coalesce (n : Nest) (b : Bool) :
    (setExcluded n b s).coalesce = s.coalesce := rfl
@[simp] theorem setExcluded_retire (n : Nest) (b : Bool) :
    (setExcluded n b s).retire = s.retire := rfl
@[simp] theorem setExcluded_lot (n : Nest) (b : Bool) :
    (setExcluded n b s).lot = s.lot := rfl
@[simp] theorem setExcluded_notice (n : Nest) (b : Bool) :
    (setExcluded n b s).notice = s.notice := rfl
@[simp] theorem setExcluded_mgmt (n : Nest) (b : Bool) :
    (setExcluded n b s).mgmt = s.mgmt := rfl
@[simp] theorem setExcluded_pending (n : Nest) (b : Bool) :
    (setExcluded n b s).pending = s.pending := rfl

/-! ### `excludeStanding` -/

@[simp] theorem excludeStanding_phase (n : Nest) :
    (excludeStanding n s).phase = s.phase := by unfold excludeStanding; split <;> rfl
@[simp] theorem excludeStanding_signal (n : Nest) :
    (excludeStanding n s).signal = s.signal := by unfold excludeStanding; split <;> rfl
@[simp] theorem excludeStanding_phyUp (n : Nest) :
    (excludeStanding n s).phyUp = s.phyUp := by unfold excludeStanding; split <;> rfl
@[simp] theorem excludeStanding_uplink (n : Nest) :
    (excludeStanding n s).uplink = s.uplink := by unfold excludeStanding; split <;> rfl
@[simp] theorem excludeStanding_dispatcher (n : Nest) :
    (excludeStanding n s).dispatcher = s.dispatcher := by unfold excludeStanding; split <;> rfl
@[simp] theorem excludeStanding_streams (n : Nest) :
    (excludeStanding n s).streams = s.streams := by unfold excludeStanding; split <;> rfl
@[simp] theorem excludeStanding_table (n : Nest) :
    (excludeStanding n s).table = s.table := by unfold excludeStanding; split <;> rfl
@[simp] theorem excludeStanding_payload (n : Nest) :
    (excludeStanding n s).payload = s.payload := by unfold excludeStanding; split <;> rfl
@[simp] theorem excludeStanding_groups (n : Nest) :
    (excludeStanding n s).groups = s.groups := by unfold excludeStanding; split <;> rfl
@[simp] theorem excludeStanding_ports (n : Nest) :
    (excludeStanding n s).ports = s.ports := by unfold excludeStanding; split <;> rfl
@[simp] theorem excludeStanding_judge (n : Nest) :
    (excludeStanding n s).judge = s.judge := by unfold excludeStanding; split <;> rfl
@[simp] theorem excludeStanding_coalesce (n : Nest) :
    (excludeStanding n s).coalesce = s.coalesce := by unfold excludeStanding; split <;> rfl
@[simp] theorem excludeStanding_retire (n : Nest) :
    (excludeStanding n s).retire = s.retire := by unfold excludeStanding; split <;> rfl
@[simp] theorem excludeStanding_mgmt (n : Nest) :
    (excludeStanding n s).mgmt = s.mgmt := by unfold excludeStanding; split <;> rfl
@[simp] theorem excludeStanding_pending (n : Nest) :
    (excludeStanding n s).pending = s.pending := by unfold excludeStanding; split <;> rfl
@[simp] theorem excludeStanding_lot_isOpen (n : Nest) :
    (excludeStanding n s).lot.isOpen = s.lot.isOpen := by unfold excludeStanding; split <;> rfl
@[simp] theorem excludeStanding_lot_id (n : Nest) :
    (excludeStanding n s).lot.id = s.lot.id := by unfold excludeStanding; split <;> rfl

/-! ### `releaseCopies` -/

@[simp] theorem releaseCopies_phase (e : EntryId) :
    (releaseCopies e s).phase = s.phase := rfl
@[simp] theorem releaseCopies_signal (e : EntryId) :
    (releaseCopies e s).signal = s.signal := rfl
@[simp] theorem releaseCopies_phyUp (e : EntryId) :
    (releaseCopies e s).phyUp = s.phyUp := rfl
@[simp] theorem releaseCopies_uplink (e : EntryId) :
    (releaseCopies e s).uplink = s.uplink := rfl
@[simp] theorem releaseCopies_dispatcher (e : EntryId) :
    (releaseCopies e s).dispatcher = s.dispatcher := rfl
@[simp] theorem releaseCopies_streams (e : EntryId) :
    (releaseCopies e s).streams = s.streams := rfl
@[simp] theorem releaseCopies_table (e : EntryId) :
    (releaseCopies e s).table = s.table := rfl
@[simp] theorem releaseCopies_payload (e : EntryId) :
    (releaseCopies e s).payload = s.payload := rfl
@[simp] theorem releaseCopies_groups (e : EntryId) :
    (releaseCopies e s).groups = s.groups := rfl
@[simp] theorem releaseCopies_judge (e : EntryId) :
    (releaseCopies e s).judge = s.judge := rfl
@[simp] theorem releaseCopies_coalesce (e : EntryId) :
    (releaseCopies e s).coalesce = s.coalesce := rfl
@[simp] theorem releaseCopies_retire (e : EntryId) :
    (releaseCopies e s).retire = s.retire := rfl
@[simp] theorem releaseCopies_lot (e : EntryId) :
    (releaseCopies e s).lot = s.lot := rfl
@[simp] theorem releaseCopies_notice (e : EntryId) :
    (releaseCopies e s).notice = s.notice := rfl
@[simp] theorem releaseCopies_mgmt (e : EntryId) :
    (releaseCopies e s).mgmt = s.mgmt := rfl
@[simp] theorem releaseCopies_pending (e : EntryId) :
    (releaseCopies e s).pending = s.pending := rfl

/-! ### `passMessage` -/

@[simp] theorem passMessage_phase (f : RxFrame) :
    (passMessage f s).phase = s.phase := rfl
@[simp] theorem passMessage_signal (f : RxFrame) :
    (passMessage f s).signal = s.signal := rfl
@[simp] theorem passMessage_phyUp (f : RxFrame) :
    (passMessage f s).phyUp = s.phyUp := rfl
@[simp] theorem passMessage_streams (f : RxFrame) :
    (passMessage f s).streams = s.streams := rfl
@[simp] theorem passMessage_table (f : RxFrame) :
    (passMessage f s).table = s.table := rfl
@[simp] theorem passMessage_payload (f : RxFrame) :
    (passMessage f s).payload = s.payload := rfl
@[simp] theorem passMessage_groups (f : RxFrame) :
    (passMessage f s).groups = s.groups := rfl
@[simp] theorem passMessage_ports (f : RxFrame) :
    (passMessage f s).ports = s.ports := rfl
@[simp] theorem passMessage_judge (f : RxFrame) :
    (passMessage f s).judge = s.judge := rfl
@[simp] theorem passMessage_coalesce (f : RxFrame) :
    (passMessage f s).coalesce = s.coalesce := rfl
@[simp] theorem passMessage_retire (f : RxFrame) :
    (passMessage f s).retire = s.retire := rfl
@[simp] theorem passMessage_lot (f : RxFrame) :
    (passMessage f s).lot = s.lot := rfl
@[simp] theorem passMessage_notice (f : RxFrame) :
    (passMessage f s).notice = s.notice := rfl
@[simp] theorem passMessage_mgmt (f : RxFrame) :
    (passMessage f s).mgmt = s.mgmt := rfl
@[simp] theorem passMessage_pending (f : RxFrame) :
    (passMessage f s).pending = s.pending := rfl
@[simp] theorem passMessage_dispatcher_task (f : RxFrame) :
    (passMessage f s).dispatcher.task = s.dispatcher.task := rfl
@[simp] theorem passMessage_dispatcher_restart (f : RxFrame) :
    (passMessage f s).dispatcher.restart = s.dispatcher.restart := rfl
@[simp] theorem passMessage_uplink_response (f : RxFrame) :
    (passMessage f s).uplink.response = s.uplink.response := rfl
@[simp] theorem passMessage_uplink_rx (f : RxFrame) :
    (passMessage f s).uplink.rx = s.uplink.rx := rfl
@[simp] theorem passMessage_uplink_allow (f : RxFrame) :
    (passMessage f s).uplink.allow = s.uplink.allow := rfl

/-! ### `respond` -/

@[simp] theorem respond_phase (r : Req) (x : Status) (d : List Byte) :
    (respond r x d s).phase = s.phase := rfl
@[simp] theorem respond_signal (r : Req) (x : Status) (d : List Byte) :
    (respond r x d s).signal = s.signal := rfl
@[simp] theorem respond_phyUp (r : Req) (x : Status) (d : List Byte) :
    (respond r x d s).phyUp = s.phyUp := rfl
@[simp] theorem respond_dispatcher (r : Req) (x : Status) (d : List Byte) :
    (respond r x d s).dispatcher = s.dispatcher := rfl
@[simp] theorem respond_streams (r : Req) (x : Status) (d : List Byte) :
    (respond r x d s).streams = s.streams := rfl
@[simp] theorem respond_table (r : Req) (x : Status) (d : List Byte) :
    (respond r x d s).table = s.table := rfl
@[simp] theorem respond_payload (r : Req) (x : Status) (d : List Byte) :
    (respond r x d s).payload = s.payload := rfl
@[simp] theorem respond_groups (r : Req) (x : Status) (d : List Byte) :
    (respond r x d s).groups = s.groups := rfl
@[simp] theorem respond_ports (r : Req) (x : Status) (d : List Byte) :
    (respond r x d s).ports = s.ports := rfl
@[simp] theorem respond_judge (r : Req) (x : Status) (d : List Byte) :
    (respond r x d s).judge = s.judge := rfl
@[simp] theorem respond_coalesce (r : Req) (x : Status) (d : List Byte) :
    (respond r x d s).coalesce = s.coalesce := rfl
@[simp] theorem respond_retire (r : Req) (x : Status) (d : List Byte) :
    (respond r x d s).retire = s.retire := rfl
@[simp] theorem respond_lot (r : Req) (x : Status) (d : List Byte) :
    (respond r x d s).lot = s.lot := rfl
@[simp] theorem respond_notice (r : Req) (x : Status) (d : List Byte) :
    (respond r x d s).notice = s.notice := rfl
@[simp] theorem respond_mgmt (r : Req) (x : Status) (d : List Byte) :
    (respond r x d s).mgmt = s.mgmt := rfl
@[simp] theorem respond_pending (r : Req) (x : Status) (d : List Byte) :
    (respond r x d s).pending = s.pending := rfl
@[simp] theorem respond_uplink_allow (r : Req) (x : Status) (d : List Byte) :
    (respond r x d s).uplink.allow = s.uplink.allow := rfl

end

end Sys2Proof.Machine
end

