-- ==== Sys2Proof/Laws/Copies.lean ====
section
/-! SUPPORT. What each shared operation over the copies of a nest does, said once: ending copies, the halt
request, the void, the absence rule, and the link going down or training. -/

namespace Sys2Proof.Machine

/-- Two states that agree field by field, in the shape of `OnlyNest`. -/
theorem onlyNest_of {n : Nest} {s t : State} (h1 : t.phase = s.phase) (h2 : t.signal = s.signal)
    (h3 : t.phyUp = s.phyUp) (h4 : t.uplink = s.uplink) (h5 : t.dispatcher = s.dispatcher)
    (h6 : t.streams = s.streams) (h7 : t.table.alloc = s.table.alloc)
    (h8 : t.payload.blocks = s.payload.blocks) (h9 : t.groups = s.groups)
    (h10 : t.judge.profiles = s.judge.profiles) (h11 : t.judge.codeSets = s.judge.codeSets)
    (h12 : t.coalesce = s.coalesce) (h13 : t.retire.lists = s.retire.lists)
    (h14 : t.retire.rotation = s.retire.rotation) (h15 : t.retire.progress = s.retire.progress)
    (h16 : t.lot.isOpen = s.lot.isOpen) (h17 : t.lot.id = s.lot.id)
    (h18 : t.notice.slots = s.notice.slots) (h19 : t.notice.throttle = s.notice.throttle)
    (h20 : t.notice.serial = s.notice.serial) (h21 : t.mgmt = s.mgmt) (h22 : t.pending = s.pending)
    (hp : ∀ m : Nest, m ≠ n → t.port m = s.port m) (hl : ∀ m : Nest, m ≠ n → t.lotNest m = s.lotNest m)
    (hr : ∀ (e : EntryId) (m : Nest), m ≠ n → t.record e m = s.record e m) : OnlyNest n s t := by
  refine ⟨?_, fun m hm => ⟨hp m hm, hl m hm⟩, hr⟩
  obtain ⟨_, _, _, _, _, _, ⟨_, _⟩, ⟨_, _, _⟩, _, _, ⟨_, _, _⟩, _, ⟨_, _, _, _⟩, ⟨_, _, _⟩, ⟨_, _, _, _, _, _⟩, _,
    _⟩ := t
  subst h1 h2 h3 h4 h5 h6 h7 h8 h9 h10 h11 h12 h13 h14 h15 h16 h17 h18 h19 h20 h21 h22
  rfl

theorem OnlyNest.refl (n : Nest) (s : State) : OnlyNest n s s := ⟨rfl, by simp, by simp⟩

theorem OnlyNest.trans {n : Nest} {s t u : State} (h : OnlyNest n s t) (k : OnlyNest n t u) : OnlyNest n s u := by
  obtain ⟨h1, h2, h3⟩ := h
  obtain ⟨k1, k2, k3⟩ := k
  refine ⟨?_, fun m hm => ⟨(k2 m hm).1.trans (h2 m hm).1, (k2 m hm).2.trans (h2 m hm).2⟩,
    fun e m hm => (k3 e m hm).trans (h3 e m hm)⟩
  rw [k1, h1]

variable (s : State)

/-! ### One kind of row is read the same after another kind was changed -/

@[simp] theorem lotNest_updPort (n m : Nest) (f : NestPort → NestPort) :
    (s.updPort n f).lotNest m = s.lotNest m := rfl
@[simp] theorem record_updPort (n m : Nest) (e : EntryId) (f : NestPort → NestPort) :
    (s.updPort n f).record e m = s.record e m := rfl
@[simp] theorem entry_updPort (n : Nest) (e : EntryId) (f : NestPort → NestPort) :
    (s.updPort n f).entry e = s.entry e := rfl
@[simp] theorem port_updLotNest (n m : Nest) (f : LotNest → LotNest) :
    (s.updLotNest n f).port m = s.port m := rfl
@[simp] theorem record_updLotNest (n m : Nest) (e : EntryId) (f : LotNest → LotNest) :
    (s.updLotNest n f).record e m = s.record e m := rfl
@[simp] theorem entry_updLotNest (n : Nest) (e : EntryId) (f : LotNest → LotNest) :
    (s.updLotNest n f).entry e = s.entry e := rfl

/-! ### Ending copies (R46) -/

theorem port_finishCopy (n m : Nest) (e : EntryId) (r : Nat) (o : CopyOutcome) :
    (finishCopy n e r o s).port m = s.port m := port_congr (finishCopy_ports s n e r o) m

theorem lotNest_lowerPending (e : EntryId) (m : Nest) : (lowerPending e s).lotNest m = s.lotNest m :=
  lotNest_congr (lowerPending_lot s e) m

/-- The outcome of one copy is delivered by its nest, and nothing else at the Lot Controller changes. -/
theorem lotNest_finishCopy (n m : Nest) (e : EntryId) (r : Nat) (o : CopyOutcome) :
    (finishCopy n e r o s).lotNest m =
      if m = n then { s.lotNest n with outcomes := (s.lotNest n).outcomes ++ [(e, o)] } else s.lotNest m := by
  unfold finishCopy deliverOutcome
  have h : ∀ k : Nest, (lowerPending e (lowerReference e (writeOutcome e n r o s))).lotNest k = s.lotNest k :=
    fun k => lotNest_congr (by simp) k
  rw [lotNest_updLotNest, h, h]

/-- The record of the copy takes its outcome and runs completed; no other record changes. -/
theorem record_finishCopy (n m : Nest) (e d : EntryId) (r : Nat) (o : CopyOutcome) :
    (finishCopy n e r o s).record d m =
      if d = e ∧ m = n then
        { s.record e n with outcome := some o, runs := r,
                            slots := if o.judged then (s.record e n).slots else unjudgedSlots s e }
      else s.record d m := by
  have h : (finishCopy n e r o s).judge = (writeOutcome e n r o s).judge := by
    simp [finishCopy]
  rw [record_congr h]
  exact record_updRecord s e d n m _

/-- The entry of the copy has one pending copy less and at 0 is COMPLETE (R15), and at the last reference holds
no blocks (R19); no other entry changes. -/
theorem entry_finishCopy (n : Nest) (e d : EntryId) (r : Nat) (o : CopyOutcome) :
    (finishCopy n e r o s).entry d =
      if d = e then
        { s.entry e with
          pending := (s.entry e).pending - 1,
          state := if (s.entry e).pending - 1 = 0 ∧ (s.entry e).state = .live then .complete else (s.entry e).state,
          blocks := if s.payload.refs[e.val] - 1 = 0 then [] else (s.entry e).blocks }
      else s.entry d := by
  have h1 : (finishCopy n e r o s).entry d =
      (lowerPending e (lowerReference e (writeOutcome e n r o s))).entry d := rfl
  have h2 : ∀ x, (lowerReference e (writeOutcome e n r o s)).entry x = if x = e then
      { s.entry e with blocks := if s.payload.refs[e.val] - 1 = 0 then [] else (s.entry e).blocks }
      else s.entry x := by
    intro x
    have hw : (writeOutcome e n r o s).payload = s.payload := rfl
    have he : ∀ y, (writeOutcome e n r o s).entry y = s.entry y := fun _ => rfl
    unfold lowerReference; dsimp only; rw [hw]; split
    · show (State.updEntry _ e _).entry x = _
      rw [entry_updEntry]; rfl
    · by_cases hx : x = e
      · subst hx; rw [if_pos rfl]; rfl
      · rw [if_neg hx]; rfl
  rw [h1]
  generalize lowerReference e (writeOutcome e n r o s) = u at h2
  have hlow : (lowerPending e u).entry d = if d = e then
      { u.entry e with
        pending := (u.entry e).pending - 1,
        state := if (u.entry e).pending - 1 = 0 ∧ (u.entry e).state = .live then .complete else (u.entry e).state }
      else u.entry d := by
    unfold lowerPending; dsimp only
    by_cases hc : (u.entry e).pending - 1 = 0 ∧ (u.entry e).state = .live
    · rw [if_pos hc, entry_congr (chooseCandidate_table _), entry_updEntry]
      simp only [if_pos hc]
    · rw [if_neg hc, entry_updEntry]
      simp only [if_neg hc]
  rw [hlow, h2, h2]
  by_cases hd : d = e <;> simp [hd]

theorem pending_finishCopy (n : Nest) (e : EntryId) (r : Nat) (o : CopyOutcome) :
    ((finishCopy n e r o s).entry e).pending = (s.entry e).pending - 1 := by
  rw [entry_finishCopy]; simp

/-- The step of the copy has one reference less (R19). -/
theorem refs_finishCopy (n : Nest) (e d : EntryId) (r : Nat) (o : CopyOutcome) :
    (finishCopy n e r o s).payload.refs[d.val] =
      if d = e then s.payload.refs[e.val] - 1 else s.payload.refs[d.val] := by
  have h : (finishCopy n e r o s).payload = (lowerReference e (writeOutcome e n r o s)).payload := by
    simp [finishCopy]
  have h2 : (finishCopy n e r o s).payload.refs = upd s.payload.refs e (fun k => k - 1) := by
    rw [h]; unfold lowerReference; dsimp only; split <;> rfl
  simp only [h2]; exact upd_get _ _ _ _

theorem onlyNest_finishCopy (n : Nest) (e : EntryId) (r : Nat) (o : CopyOutcome) :
    OnlyNest n s (finishCopy n e r o s) := by
  apply onlyNest_of <;> try simp
  · exact fun m _ => port_finishCopy s n m e r o
  · intro m hm; simp [lotNest_finishCopy, hm]
  · intro d m hm; simp [record_finishCopy, hm]

/-- The blocks that the end of one copy returns to the free list (R19). -/
theorem free_finishCopy (n : Nest) (e : EntryId) (r : Nat) (o : CopyOutcome) :
    (finishCopy n e r o s).payload.free =
      s.payload.free ++ (if s.payload.refs[e.val] ≤ 1 then (s.entry e).blocks else []) := by
  have h : (finishCopy n e r o s).payload = (lowerReference e (writeOutcome e n r o s)).payload := by
    simp [finishCopy]
  have hw : (writeOutcome e n r o s).payload = s.payload := rfl
  rw [h]; unfold lowerReference; dsimp only; rw [hw]
  by_cases hr : s.payload.refs[e.val] ≤ 1
  · rw [if_pos (by omega), if_pos hr]; rfl
  · rw [if_neg (by omega), if_neg hr]; simp

theorem retireList_finishCopy (n : Nest) (e : EntryId) (r : Nat) (o : CopyOutcome) (st : StreamId) :
    (finishCopy n e r o s).retireList st = s.retireList st := by
  unfold State.retireList; simp

theorem profile_finishCopy (n : Nest) (e : EntryId) (r : Nat) (o : CopyOutcome) (x : Fin 64) :
    (finishCopy n e r o s).profile x = s.profile x := by
  unfold State.profile; simp

/-- The choice of a candidate is one of the four heads: with none COMPLETE there is none (R133). -/
theorem candidate_chooseCandidate :
    (s.retire.candidate ≠ none ∨ s.retire.progress ≠ none →
      (chooseCandidate s).retire.candidate = s.retire.candidate) ∧
    (s.retire.candidate = none → s.retire.progress = none →
      (chooseCandidate s).retire.candidate =
        (rotationOrder s.retire.rotation).findSome? (completeHead s)) := by
  unfold chooseCandidate
  refine ⟨fun h => by rw [if_neg (by tauto)], fun h k => by rw [if_pos ⟨h, k⟩]; rfl⟩

/-- The end of one copy changes the candidate only where there is none and no retirement runs (R133). -/
theorem candidate_finishCopy (n : Nest) (e : EntryId) (r : Nat) (o : CopyOutcome) :
    (s.retire.candidate ≠ none ∨ s.retire.progress ≠ none →
      (finishCopy n e r o s).retire.candidate = s.retire.candidate) ∧
    (s.retire.candidate = none → s.retire.progress = none →
      (finishCopy n e r o s).retire.candidate =
        if (s.entry e).state = .live ∧ (s.entry e).pending ≤ 1
        then (rotationOrder s.retire.rotation).findSome? (completeHead (finishCopy n e r o s)) else none) := by
  have hc : (finishCopy n e r o s).retire =
      (lowerPending e (lowerReference e (writeOutcome e n r o s))).retire := rfl
  have hh : ∀ st, completeHead (finishCopy n e r o s) st =
      completeHead (lowerPending e (lowerReference e (writeOutcome e n r o s))) st := fun _ => rfl
  rw [funext hh, hc]
  generalize hu : lowerReference e (writeOutcome e n r o s) = u
  have h1 : u.retire = s.retire := by rw [← hu]; simp
  have h2 : (u.entry e).state = (s.entry e).state ∧ (u.entry e).pending = (s.entry e).pending := by
    rw [← hu]; unfold lowerReference; dsimp only; split
    · refine ⟨?_, ?_⟩
      · show ((State.updEntry _ e _).entry e).state = _
        rw [entry_updEntry_same]; rfl
      · show ((State.updEntry _ e _).entry e).pending = _
        rw [entry_updEntry_same]; rfl
    · exact ⟨rfl, rfl⟩
  unfold lowerPending; dsimp only
  rw [h2.1, h2.2]
  by_cases hl : (s.entry e).pending - 1 = 0 ∧ (s.entry e).state = .live
  · rw [if_pos hl]
    obtain ⟨c1, c2⟩ := candidate_chooseCandidate
      (u.updEntry e (fun x => { x with pending := (s.entry e).pending - 1, state := .complete }))
    have hr : (u.updEntry e (fun x => { x with pending := (s.entry e).pending - 1, state := .complete })).retire =
      s.retire := h1
    rw [hr] at c1 c2
    refine ⟨c1, fun a b => ?_⟩
    rw [c2 a b, if_pos ⟨hl.2, by omega⟩]
    congr 1
    funext st
    unfold completeHead State.retireList State.entry
    simp
  · rw [if_neg hl]
    have hr : (u.updEntry e (fun x => { x with pending := (s.entry e).pending - 1 })).retire = s.retire := h1
    rw [hr]
    refine ⟨fun _ => rfl, fun a _ => ?_⟩
    rw [a, if_neg (by rintro ⟨x, y⟩; exact hl ⟨by omega, x⟩)]

/-- Each slot record changed by the function of its own measure slot. -/
theorem mapSlots_get (slots : Vector MeasureSlot 4) (f : MeasureSlot → SlotRecord → SlotRecord)
    (v : Vector SlotRecord 4) (i : Fin 4) : (mapSlots slots f v)[i.val] = f slots[i.val] v[i.val] := by
  unfold mapSlots
  have hf : List.finRange 4 = [0, 1, 2, 3] := rfl
  rw [hf]
  simp only [List.foldl_cons, List.foldl_nil, upd_get]
  fin_cases i <;> simp

/-- The slot records of a copy that is not judged (R105, R106). -/
theorem slotsNotJudged_unjudged (e : EntryId) : SlotsNotJudged s e (unjudgedSlots s e) := by
  intro i
  unfold unjudgedSlots MeasureSlot.used
  rw [mapSlots_get]
  simp

theorem copiesOf_cons (c : Copy) (cs : List Copy) (e : EntryId) :
    copiesOf (c :: cs) e = copiesOf cs e + if e = c.entry then 1 else 0 := by
  unfold copiesOf
  rw [List.countP_cons]
  by_cases h : e = c.entry
  · simp [h]
  · have h2 : ¬c.entry = e := fun k => h k.symm
    simp [h, h2]

theorem copiesOf_eq_zero {cs : List Copy} {e : EntryId} (h : e ∉ cs.map (fun c => c.entry)) :
    copiesOf cs e = 0 := by
  unfold copiesOf
  rw [List.countP_eq_zero]
  intro c hc hh
  exact h (List.mem_map.mpr ⟨c, hc, by simpa using hh⟩)

theorem copiesOf_pos {cs : List Copy} {c : Copy} (h : c ∈ cs) : 0 < copiesOf cs c.entry := by
  unfold copiesOf
  exact List.countP_pos_iff.mpr ⟨c, h, by simp⟩

theorem completeHead_eq_some {st : StreamId} {e : EntryId} :
    completeHead s st = some e ↔ (s.retireList st).head? = some e ∧ (s.entry e).state = .complete := by
  unfold completeHead
  cases s.retireList st with
  | nil => simp
  | cons a l =>
    simp only [List.head?_cons, Option.some.injEq]
    split
    · simp only [Option.some.injEq]
      exact ⟨fun h => ⟨h, h ▸ ‹_›⟩, fun h => h.1⟩
    · simp only [reduceCtorEq, false_iff, not_and]
      intro h; exact h ▸ ‹_›

/-- Every stream is one of the four in rotation order. -/
theorem mem_rotationOrder (r st : StreamId) : st ∈ rotationOrder r := by
  revert r st; decide

/-- The candidate the end of one copy leaves, where there was none and no list had a COMPLETE head (R133). -/
theorem candidate_endsHead (n : Nest) (c : Copy) (o : CopyOutcome) (h1 : s.retire.candidate = none)
    (h2 : s.retire.progress = none) (h3 : ∀ st : StreamId, completeHead s st = none) :
    (finishCopy n c.entry c.runs o s).retire.candidate = (if endsHead s c then some c.entry else none) ∧
    (endsHead s c = false → ∀ st : StreamId, completeHead (finishCopy n c.entry c.runs o s) st = none) := by
  have hnew : ∀ st d, completeHead (finishCopy n c.entry c.runs o s) st = some d →
      d = c.entry ∧ (s.retireList st).head? = some c.entry ∧ (s.entry c.entry).state = .live ∧
        (s.entry c.entry).pending ≤ 1 := by
    intro st d hd
    rw [completeHead_eq_some, retireList_finishCopy, entry_finishCopy] at hd
    by_cases hde : d = c.entry
    · subst hde
      rw [if_pos rfl] at hd
      dsimp only at hd
      split at hd
      · exact ⟨rfl, hd.1, by tauto, by omega⟩
      · have := completeHead_eq_some s |>.mpr hd
        rw [h3] at this; cases this
    · rw [if_neg hde] at hd
      have := completeHead_eq_some s |>.mpr hd
      rw [h3] at this; cases this
  have hends : endsHead s c = true ↔ (s.entry c.entry).state = .live ∧ (s.entry c.entry).pending ≤ 1 ∧
      ∃ st : StreamId, (s.retireList st).head? = some c.entry := by
    unfold endsHead; simp [and_assoc]
  rw [(candidate_finishCopy s n c.entry c.runs o).2 h1 h2]
  constructor
  · by_cases he : endsHead s c = true
    · obtain ⟨a, b, st, hst⟩ := hends.mp he
      rw [if_pos ⟨a, b⟩, if_pos he]
      have hsome : completeHead (finishCopy n c.entry c.runs o s) st = some c.entry := by
        rw [completeHead_eq_some, retireList_finishCopy, entry_finishCopy, if_pos rfl]
        refine ⟨hst, ?_⟩
        dsimp only
        rw [if_pos ⟨by omega, a⟩]
      cases hf : (rotationOrder s.retire.rotation).findSome? (completeHead (finishCopy n c.entry c.runs o s)) with
      | none =>
        rw [List.findSome?_eq_none_iff] at hf
        rw [hf st (mem_rotationOrder _ _)] at hsome; cases hsome
      | some d =>
        obtain ⟨l, a1, _, _, h4, _⟩ := List.findSome?_eq_some_iff.mp hf
        rw [(hnew a1 d h4).1]
    · rw [if_neg he]
      split
      · rename_i hh
        rw [List.findSome?_eq_none_iff]
        intro st _
        cases hf : completeHead (finishCopy n c.entry c.runs o s) st with
        | none => rfl
        | some d =>
          obtain ⟨_, q, _, _⟩ := hnew st d hf
          exact absurd (hends.mpr ⟨hh.1, hh.2, st, q⟩) he
      · rfl
  · intro he st
    cases hf : completeHead (finishCopy n c.entry c.runs o s) st with
    | none => rfl
    | some d =>
      obtain ⟨_, q, k, l⟩ := hnew st d hf
      rw [hends.mpr ⟨k, l, st, q⟩] at he; cases he

/-- No copy ended: nothing changes. -/
theorem CopiesEnded.nil (n : Nest) (o : CopyOutcome) : CopiesEnded n o [] s s := by
  refine ⟨fun e => ⟨?_, rfl⟩, fun _ => by simp, fun _ => rfl, fun h _ _ _ => by simp [h], fun _ _ => rfl,
    fun c hc => nomatch hc⟩
  simp [copiesOf]

/-- One copy ended, and then the others. -/
theorem CopiesEnded.cons (n : Nest) (o : CopyOutcome) (c : Copy) (cs : List Copy) (t : State)
    (h : CopiesEnded n o cs (finishCopy n c.entry c.runs o s) t) : CopiesEnded n o (c :: cs) s t := by
  obtain ⟨h1, h2, h3, h4, h5, h6⟩ := h
  have other : ∀ x : Copy, x.entry ≠ c.entry →
      (finishCopy n c.entry c.runs o s).entry x.entry = s.entry x.entry ∧
      (finishCopy n c.entry c.runs o s).payload.refs[x.entry.val] = s.payload.refs[x.entry.val] := by
    intro x hx
    rw [entry_finishCopy, if_neg hx, refs_finishCopy, if_neg hx]; exact ⟨rfl, rfl⟩
  refine ⟨fun e => ?_, ?_, ?_, ?_, ?_, ?_⟩
  · obtain ⟨a, b⟩ := h1 e
    rw [copiesOf_cons]
    rw [refs_finishCopy] at a b
    rw [entry_finishCopy] at a
    by_cases he : e = c.entry
    · subst he
      rw [if_pos rfl] at a b ⊢
      refine ⟨a.trans ?_, b.trans (by omega)⟩
      simp only [if_true]
      have e1 : (s.entry c.entry).pending - 1 - copiesOf cs c.entry =
          (s.entry c.entry).pending - (copiesOf cs c.entry + 1) := by omega
      rw [e1]
      congr 1
      · by_cases hl : (s.entry c.entry).state = .live
        · by_cases hp : (s.entry c.entry).pending ≤ 1
          · have q : (s.entry c.entry).pending - 1 = 0 := by omega
            simp [hl, q]; omega
          · have q : ¬(s.entry c.entry).pending - 1 = 0 := by omega
            simp only [hl, q, and_true, if_false]
            congr 1
            simp only [eq_iff_iff]; omega
        · simp [hl]
      · by_cases hr : s.payload.refs[c.entry.val] - 1 = 0
        · rw [if_pos hr]; simp; omega
        · rw [if_neg hr]; congr 1; simp only [eq_iff_iff]; omega
    · simp only [if_neg he] at a b ⊢
      exact ⟨by rw [a]; simp, by rw [b]; simp⟩
  · intro hnd
    obtain ⟨hnot, hnd'⟩ := List.nodup_cons.mp hnd
    rw [h2 hnd', free_finishCopy, List.flatMap_cons, List.append_assoc]
    congr 2
    refine List.flatMap_congr fun x hx => ?_
    have hxc : x.entry ≠ c.entry := fun k => hnot (List.mem_map.mpr ⟨x, hx, k⟩)
    rw [(other x hxc).1, (other x hxc).2]
  · intro hcp
    have hk := (candidate_finishCopy s n c.entry c.runs o).1 hcp
    rw [h3 (by rw [hk]; simpa using hcp), hk]
  · intro hc hp hh hnd
    obtain ⟨hnot, hnd'⟩ := List.nodup_cons.mp hnd
    obtain ⟨k1, k2⟩ := candidate_endsHead s n c o hc hp hh
    rw [List.find?_cons]
    cases he : endsHead s c with
    | true =>
      rw [he] at k1
      have hk : (finishCopy n c.entry c.runs o s).retire.candidate = some c.entry := k1
      rw [h3 (.inl (by rw [hk]; simp)), hk]; rfl
    | false =>
      rw [he] at k1
      have hk : (finishCopy n c.entry c.runs o s).retire.candidate = none := k1
      rw [h4 hk (by simpa using hp) (k2 he) hnd']
      congr 1
      refine List.find?_congr fun x hx => ?_
      have hxc : x.entry ≠ c.entry := fun k => hnot (List.mem_map.mpr ⟨x, hx, k⟩)
      unfold endsHead
      rw [(other x hxc).1]
      simp only [retireList_finishCopy]
  · intro e he
    rw [copiesOf_cons] at he
    have hec : e ≠ c.entry := by intro k; rw [if_pos k] at he; omega
    rw [h5 e (by omega), record_finishCopy, if_neg (by tauto)]
  · intro x hx
    have hrec := record_finishCopy s n n c.entry c.entry c.runs o
    rw [if_pos ⟨rfl, rfl⟩] at hrec
    have slots : ∀ (e : EntryId) v, SlotsNotJudged (finishCopy n c.entry c.runs o s) e v ↔ SlotsNotJudged s e v := by
      intro e v
      have hpr : ((finishCopy n c.entry c.runs o s).entry e).profile = (s.entry e).profile := by
        rw [entry_finishCopy]; split
        · next h => rw [h]
        · rfl
      unfold SlotsNotJudged
      rw [hpr]; simp only [profile_finishCopy]
    by_cases hin : ∃ y ∈ cs, y.entry = x.entry
    · obtain ⟨y, hy, hye⟩ := hin
      obtain ⟨a, b, d, g⟩ := h6 y hy
      rw [hye] at a b d g
      refine ⟨a, ?_, ?_, fun ho => (slots _ _).mp (g ho)⟩
      · rw [b, record_finishCopy]; split
        · next h => rw [h.1]
        · rfl
      · intro hnd
        obtain ⟨hnot, hnd'⟩ := List.nodup_cons.mp hnd
        rcases List.mem_cons.mp hx with rfl | hx'
        · exact absurd (List.mem_map.mpr ⟨y, hy, hye⟩) hnot
        · have : y = x := List.inj_on_of_nodup_map hnd' hy hx' hye
          rw [← this, hye]; exact d hnd'
    · have hxc : x = c := by
        rcases List.mem_cons.mp hx with h | h
        · exact h
        · exact absurd ⟨x, h, rfl⟩ hin
      subst hxc
      have hz : copiesOf cs x.entry = 0 := copiesOf_eq_zero (by simpa using hin)
      rw [h5 _ hz, hrec]
      refine ⟨rfl, rfl, fun _ => rfl, fun ho => ?_⟩
      dsimp only
      rw [ho]; exact slotsNotJudged_unjudged s x.entry

/-- Copies ended with one outcome: only the nest's own state and the stores change, its outcomes are delivered
in order, and counts, blocks, candidate and records are as R46 has them. -/
theorem finishAll_spec (n : Nest) (o : CopyOutcome) (cs : List Copy) :
    OnlyNest n s (finishAll n o cs s) ∧ (finishAll n o cs s).notice = s.notice ∧
    (∀ m : Nest, (finishAll n o cs s).port m = s.port m) ∧
    (finishAll n o cs s).lotNest n =
      { s.lotNest n with outcomes := (s.lotNest n).outcomes ++ deliveredBy o cs } ∧
    CopiesEnded n o cs s (finishAll n o cs s) := by
  induction cs generalizing s with
  | nil => exact ⟨OnlyNest.refl n s, rfl, fun _ => rfl, by simp [finishAll, deliveredBy], CopiesEnded.nil s n o⟩
  | cons c cs ih =>
    have hh : finishAll n o (c :: cs) s = finishAll n o cs (finishCopy n c.entry c.runs o s) := rfl
    obtain ⟨i1, i2, i3, i4, i5⟩ := ih (finishCopy n c.entry c.runs o s)
    rw [hh]
    refine ⟨(onlyNest_finishCopy s n _ _ _).trans i1, i2.trans (by simp), fun m => (i3 m).trans (port_finishCopy _ _ _ _ _ _), ?_,
      CopiesEnded.cons s n o c cs _ i5⟩
    rw [i4, lotNest_finishCopy]; simp [deliveredBy]

/-- One copy ended. -/
theorem finishCopy_ended (n : Nest) (c : Copy) (o : CopyOutcome) :
    CopiesEnded n o [c] s (finishCopy n c.entry c.runs o s) := (finishAll_spec s n o [c]).2.2.2.2

/-- What ends copies does not read the ports, the Lot Controller, the Notice Unit or the Coalescing Unit, and
leaves every one of them to the operation around it. -/
theorem CopiesEnded.congr {n : Nest} {o : CopyOutcome} {cs : List Copy} {s s' t t' : State}
    (h : CopiesEnded n o cs s t) (h1 : s'.table = s.table) (h2 : s'.payload = s.payload)
    (h3 : s'.retire = s.retire) (h4 : s'.judge = s.judge) (k1 : t'.table = t.table) (k2 : t'.payload = t.payload)
    (k3 : t'.retire = t.retire) (k4 : t'.judge = t.judge) : CopiesEnded n o cs s' t' := by
  obtain ⟨_, _, _, _, _, _, _, _, _, _, _, _, _, _, _, _, _⟩ := s'
  obtain ⟨_, _, _, _, _, _, _, _, _, _, _, _, _, _, _, _, _⟩ := t'
  dsimp only at h1 h2 h3 h4 k1 k2 k3 k4
  subst h1 h2 h3 h4 k1 k2 k3 k4
  exact h

theorem onlyNest_updPort (n : Nest) (f : NestPort → NestPort) : OnlyNest n s (s.updPort n f) := by
  refine ⟨rfl, fun m hm => ⟨by simp [port_updPort, hm], rfl⟩, fun _ _ _ => rfl⟩

theorem onlyNest_updLotNest (n : Nest) (f : LotNest → LotNest) : OnlyNest n s (s.updLotNest n f) := by
  refine ⟨rfl, fun m hm => ⟨rfl, by simp [lotNest_updLotNest, hm]⟩, fun _ _ _ => rfl⟩

/-- A void ends the QUEUED copies that satisfy `p` (R47, R48). -/
theorem voidQueued_spec (n : Nest) (p : Copy → Bool) : VoidTaken n p s (voidQueued n p s) := by
  unfold voidQueued
  obtain ⟨h1, h2, h3, h4, h6⟩ := finishAll_spec
    (s.updPort n (fun x => { x with queue := (s.port n).queue.filter (fun c => !isVoidable p c) })) n .voided
    ((s.port n).queue.filter (isVoidable p))
  refine ⟨(onlyNest_updPort s n _).trans h1, h2, ?_, ?_, ?_⟩
  · rw [h3, port_updPort_same]; rfl
  · rw [h4]; rfl
  · exact h6.congr rfl rfl rfl rfl rfl rfl rfl rfl

/-- The void instructions not yet taken, taken before a later one (R32, R34). -/
theorem takeWaitingVoids_spec (n : Nest) : WaitingVoidsTaken n s (takeWaitingVoids n s) := by
  unfold WaitingVoidsTaken takeWaitingVoids
  split
  · rfl
  · refine ⟨_, voidQueued_spec _ n anyCopy, ?_⟩
    unfold takeVoids
    congr 1
    funext p
    by_cases h : VoidCause.stopFailure ∈ (s.lotNest n).voids <;> simp [h]

/-- The absence rule (R79). -/
theorem absenceRule_spec (n : Nest) : AbsenceTaken n s (absenceRule n s) := by
  unfold absenceRule
  obtain ⟨h1, h2, h3, h4, h6⟩ := finishAll_spec
    (s.updPort n (fun p =>
      { p with queue := [], deadline := .stopped, gap := .stopped, grace := .stopped, service := .idle })) n .absent
    ((s.port n).queue.filter (fun c => c.state ≠ .closing))
  refine ⟨(onlyNest_updPort s n _).trans h1, h2, ?_, ?_, ?_⟩
  · rw [h3, port_updPort_same]
  · rw [h4]; rfl
  · exact h6.congr rfl rfl rfl rfl rfl rfl rfl rfl

/-- The halt request (R78): what it does by the service state and the head. -/
theorem haltHead_spec (n : Nest) (p : Copy → Bool) : HaltTaken n p s (haltHead n p s) := by
  unfold HaltTaken haltHead haltedHead
  cases hs : (s.port n).service <;> cases hq : (s.port n).queue <;> simp
  all_goals split
  all_goals try simp_all
  all_goals
    refine ⟨(onlyNest_updPort s n _).trans (onlyNest_finishCopy _ n _ _ _), ?_, ?_,
      (finishCopy_ended (s.updPort n _) n _ _).congr rfl rfl rfl rfl rfl rfl rfl rfl⟩
  all_goals first
    | (rw [port_finishCopy, port_updPort_same]; simp [hq])
    | (rw [lotNest_finishCopy]; simp)

/-- A halt request changes the state exactly when it halts a copy. -/
theorem haltHead_eq_iff (n : Nest) (p : Copy → Bool) : haltHead n p s = s ↔ haltedHead n p s = none := by
  unfold haltHead
  cases h : haltedHead n p s with
  | none => simp
  | some c =>
    simp only [reduceCtorEq, iff_false]
    have key : ∀ (f : NestPort → NestPort), finishCopy n c.entry c.runs .halted (s.updPort n f) ≠ s := by
      intro f hc
      have := congrArg (fun t => (t.lotNest n).outcomes.length) hc
      simp only [lotNest_finishCopy] at this
      have h2 : (s.updPort n f).lotNest n = s.lotNest n := rfl
      simp [h2] at this
    cases hs : (s.port n).service <;> simp
    all_goals first
      | exact key _
      | (simp [haltedHead, hs] at h)

/-! ### The link -/

/-- A link that is not DOWN drops (R62). -/
theorem linkDown_spec (n : Nest) (h : (s.port n).link ≠ .down) : LinkDropped n s (linkDown n s) := by
  unfold linkDown
  rw [if_neg h]
  set s1 := s.updPort n (fun p => { p with link := .down, greet := .stopped, backlog := [] }) with hs1
  have e1 : OnlyNest n s s1 := onlyNest_updPort s n _
  have hp1 : s1.port n = { s.port n with link := .down, greet := .stopped, backlog := [] } := by simp [hs1]
  have g : ∃ s2, presenceGone n s1 = s2 ∧ OnlyNest n s1 s2 ∧ s2.port n = { s1.port n with presence := .empty } ∧
      s2.lotNest n = s1.lotNest n ∧
      (s2.table = s.table ∧ s2.payload = s.payload ∧ s2.retire = s.retire ∧ s2.judge = s.judge) ∧ s2.notice = { s1.notice with causes := s1.notice.causes ||| (if (s1.port n).presence = .present then 4#7 else 0#7) } := by
    refine ⟨_, rfl, ?_, ?_, ?_, ?_, ?_⟩ <;> unfold presenceGone <;> split
    · exact (onlyNest_updPort s1 n _).trans ⟨rfl, fun _ _ => ⟨rfl, rfl⟩, fun _ _ _ => rfl⟩
    · exact OnlyNest.refl _ _
    · exact (port_updPort_same s1 n _)
    · next hh =>
        have : (s1.port n).presence = .empty := by cases hx : (s1.port n).presence <;> simp_all
        rw [← this]
    · rfl
    · rfl
    · exact ⟨rfl, rfl, rfl, rfl⟩
    · exact ⟨rfl, rfl, rfl, rfl⟩
    · simp [*, raiseCause, State.updNotice, Cause.bit, Cause.index]
    · simp [*]
  obtain ⟨s2, r2, o2, p2, l2, ⟨q1, q2, q3, q4⟩, n2⟩ := g
  rw [r2]
  obtain ⟨a1, a2, a3, a4, a5⟩ := absenceRule_spec s2 n
  have o4 : OnlyNest n (deliverAbsence n (absenceRule n s2)) (raiseLink n (deliverAbsence n (absenceRule n s2))) :=
    ⟨rfl, fun _ _ => ⟨rfl, rfl⟩, fun _ _ _ => rfl⟩
  refine ⟨((e1.trans o2).trans a1).trans ((onlyNest_updLotNest _ n _).trans o4), ?_, ?_, ?_, ?_, ?_, ?_⟩
  · show (absenceRule n s2).port n = _
    rw [a3, p2, hp1]
  · show ((absenceRule n s2).updLotNest n _).lotNest n = _
    rw [lotNest_updLotNest_same, a4, l2, p2, hp1]; rfl
  · have : unended (s2.port n).queue = unended (s.port n).queue := by rw [p2, hp1]
    rw [← this]; exact a5.congr q1.symm q2.symm q3.symm q4.symm rfl rfl rfl rfl
  · show (absenceRule n s2).notice.causes ||| Cause.link.bit = _
    rw [a2, n2, hp1]
    simp only [Cause.bit, Cause.index]
    have : s1.notice = s.notice := rfl
    rw [this, BitVec.or_assoc, BitVec.or_assoc]; congr 1
    split <;> decide
  · show (absenceRule n s2).notice.standings = _
    rw [a2, n2]; rfl
  · intro m
    show NestSet.has (NestSet.insert (absenceRule n s2).notice.links n) m = _
    rw [NestSet.has_insert, a2, n2]; rfl

/-- The nest is DOWN, enabled and has signal (R60). -/
def ready (n : Nest) : Bool := decide ((s.port n).link = .down) && (s.port n).config.enabled && s.signal[n.val]

/-- The nests of a list, each once, train if they are ready (R60, R61, R62). -/
theorem trainList_spec (l : List Nest) (h : l.Nodup) :
    ∃ (ports : Vector NestPort 32) (links : NestSet),
      l.foldl (fun t n => trainIfReady n t) s = { s with
        ports := ports,
        notice := { s.notice with
          links := links, causes := if l.any (ready s) then s.notice.causes ||| 2#7 else s.notice.causes } } ∧
      (∀ n : Nest, ports[n.val] = if n ∈ l ∧ ready s n then
        { s.port n with link := .training, backlog := (s.port n).backlog ++ [.greet n], greet := .armed }
        else s.port n) ∧
      ∀ n : Nest, NestSet.has links n = (NestSet.has s.notice.links n || decide (n ∈ l ∧ ready s n)) := by
  induction l generalizing s with
  | nil => exact ⟨s.ports, s.notice.links, rfl, fun _ => rfl, by simp⟩
  | cons a l ih =>
    obtain ⟨ha, hl⟩ := List.nodup_cons.mp h
    simp only [List.foldl_cons]
    by_cases hr : ready s a = true
    · have h1 : trainIfReady a s = enterTraining a s := by
        unfold trainIfReady; rw [if_pos]; simpa [ready, and_assoc] using hr
      obtain ⟨ports, links, e1, e2, e3⟩ := ih (enterTraining a s) hl
      have hrr : ∀ n, n ≠ a → ready (enterTraining a s) n = ready s n := by
        intro n hn
        have hp : (enterTraining a s).port n = s.port n := by
          show (s.updPort a _).port n = _
          rw [port_updPort, if_neg hn]
        unfold ready; rw [hp]; rfl
      have hin : ∀ n, n ∈ l → ready (enterTraining a s) n = ready s n :=
        fun n hn => hrr n (fun e => ha (e ▸ hn))
      refine ⟨ports, links, ?_, ?_, ?_⟩
      · have hc : (enterTraining a s).notice.causes = s.notice.causes ||| 2#7 := rfl
        have hc2 : (if l.any (ready (enterTraining a s)) then (enterTraining a s).notice.causes ||| 2#7
            else (enterTraining a s).notice.causes) = s.notice.causes ||| 2#7 := by
          rw [hc]; split
          · rw [BitVec.or_assoc]; rfl
          · rfl
        have hc3 : (if (a :: l).any (ready s) then s.notice.causes ||| 2#7 else s.notice.causes) =
            s.notice.causes ||| 2#7 := by simp [hr]
        rw [h1, e1, hc2, hc3]; rfl
      · intro n
        rw [e2]
        by_cases hn : n = a
        · subst hn
          have : (enterTraining n s).port n = { s.port n with
            link := .training, backlog := (s.port n).backlog ++ [.greet n], greet := .armed } := by
            show (s.updPort n _).port n = _
            rw [port_updPort_same]
          simp [ha, hr, this]
        · have hp : (enterTraining a s).port n = s.port n := by
            show (s.updPort a _).port n = _
            rw [port_updPort, if_neg hn]
          simp only [hrr n hn, hp, List.mem_cons, hn, false_or]
      · intro n
        rw [e3]
        have hlk : NestSet.has (enterTraining a s).notice.links n =
            (NestSet.has s.notice.links n || decide (n = a)) := NestSet.has_insert _ _ _
        rw [hlk]
        by_cases hn : n = a
        · subst hn; simp [hr]
        · simp [hrr n hn, hn]
    · have h1 : trainIfReady a s = s := by
        unfold trainIfReady; rw [if_neg]; simpa [ready, and_assoc] using hr
      obtain ⟨ports, links, e1, e2, e3⟩ := ih s hl
      have hr' : ready s a = false := by simpa using hr
      refine ⟨ports, links, ?_, ?_, ?_⟩
      · rw [h1, e1]; simp [hr']
      · intro n; rw [e2]
        by_cases hn : n = a
        · subst hn; simp [hr']
        · simp [hn]
      · intro n; rw [e3]
        by_cases hn : n = a
        · subst hn; simp [hr']
        · simp [hn]

/-- Every nest that is ready trains (R60, R188, R187). -/
theorem trainAll_spec : Trained (ready s) s (trainAll s) := by
  obtain ⟨ports, links, e1, e2, e3⟩ := trainList_spec s allNests (List.nodup_finRange 32)
  have e : trainAll s = _ := e1
  refine ⟨?_, ?_, ?_⟩
  · rw [e]
  · intro n; rw [e]; show ports[n.val] = _; rw [e2]; simp
  · intro n; rw [e]; show NestSet.has links n = _; rw [e3]; simp

/-- One nest trains if it is ready (R60). -/
theorem trainIfReady_spec (n : Nest) : Trained (fun m => decide (m = n) && ready s m) s (trainIfReady n s) := by
  obtain ⟨ports, links, e1, e2, e3⟩ := trainList_spec s [n] (List.nodup_singleton n)
  have e : trainIfReady n s = _ := e1
  have ha : allNests.any (fun m => decide (m = n) && ready s m) = [n].any (ready s) := by
    rw [Bool.eq_iff_iff]; simp
  refine ⟨?_, ?_, ?_⟩
  · rw [ha, e]
  · intro m; rw [e]; show ports[m.val] = _; rw [e2]; simp
  · intro m; rw [e]; show NestSet.has links m = _; rw [e3]; simp

end Sys2Proof.Machine
end

