-- ==== Sys2Proof/Laws/Answers.lean ====
section
/-! SUPPORT. What the Judgement Unit and the Coalescing Unit do with an answer, said once. -/

namespace Sys2Proof.Machine

variable (s : State)

theorem judged_outcomeOf (vs : List Verdict) : (outcomeOf vs).judged = true := by
  unfold outcomeOf; repeat' split
  all_goals rfl

/-- Judging an answer changes the slot records of the copy's own record, each by the run and at the final run by its
verdict too, and nothing else; its outcome is that of the verdicts it leaves, and PASS with profile row 0 (R92,
R104, R105). -/
theorem judgeAnswer_spec (e : EntryId) (n : Nest) (payload : List Byte) (final : Bool) :
    ∃ (t : State) (o : CopyOutcome), judgeAnswer e n payload final s = (t, o) ∧
      t = { s with judge := { s.judge with records := t.judge.records } } ∧
      (∀ (d : EntryId) (m : Nest), ¬(d = e ∧ m = n) → t.record d m = s.record d m) ∧
      t.record e n = { s.record e n with slots := (t.record e n).slots } ∧ o.judged = true ∧
      ((s.entry e).profile = 0 → t = s ∧ o = .pass) ∧
      ((s.entry e).profile ≠ 0 →
        o = outcomeOf (usedVerdicts (s.profile (s.entry e).profile).slots (t.record e n).slots) ∧
        ∀ i : Fin 4, (t.record e n).slots[i.val] =
          let m := (s.profile (s.entry e).profile).slots[i.val]
          let run := judgeRun m s.judge.codeSets payload (s.record e n).slots[i.val]
          if final then judgeFinal m run else run) := by
  by_cases hr : (s.entry e).profile = 0
  · refine ⟨s, .pass, by simp [judgeAnswer, hr], rfl, fun _ _ _ => rfl, rfl, rfl, fun _ => ⟨rfl, rfl⟩,
      fun h => absurd hr h⟩
  · let slots := (s.profile (s.entry e).profile).slots
    let run := mapSlots slots (fun m x => judgeRun m s.judge.codeSets payload x) (s.record e n).slots
    let done := if final then mapSlots slots judgeFinal run else run
    refine ⟨s.updRecord e n (fun x => { x with slots := done }), outcomeOf (usedVerdicts slots done),
      by simp [judgeAnswer, hr, slots, run, done], rfl, ?_, ?_, judged_outcomeOf _, fun h => absurd h hr, ?_⟩
    · intro d m h; rw [record_updRecord, if_neg h]
    · rw [record_updRecord, if_pos ⟨rfl, rfl⟩]
    · intro _
      rw [record_updRecord, if_pos ⟨rfl, rfl⟩]
      refine ⟨rfl, fun i => ?_⟩
      dsimp only [done, run]
      split
      · rw [mapSlots_get, mapSlots_get]
      · rw [mapSlots_get]

/-- What offering an answer can change: the variants of entries, the variant index in the copy's record, the
Coalescing Unit, the counters, and REPLY_LOW. -/
def OfferedOnly (e : EntryId) (n : Nest) (s t : State) : Prop :=
  t = { s with
        table := { s.table with entries := t.table.entries },
        judge := { s.judge with records := t.judge.records }, coalesce := t.coalesce,
        mgmt := { s.mgmt with counters := t.mgmt.counters },
        notice := { s.notice with causes := t.notice.causes } } ∧
  (∀ d : EntryId, t.entry d = { s.entry d with variants := (t.entry d).variants }) ∧
  (∀ (d : EntryId) (m : Nest), ¬(d = e ∧ m = n) → t.record d m = s.record d m) ∧
  t.record e n = { s.record e n with variant := (t.record e n).variant } ∧
  (t.notice.causes = s.notice.causes ∨ t.notice.causes = s.notice.causes ||| Cause.replyLow.bit)

theorem OfferedOnly.refl (e : EntryId) (n : Nest) : OfferedOnly e n s s :=
  ⟨rfl, fun _ => rfl, fun _ _ _ => rfl, rfl, .inl rfl⟩

theorem OfferedOnly.trans {e : EntryId} {n : Nest} {s t u : State} (h : OfferedOnly e n s t)
    (k : OfferedOnly e n t u) : OfferedOnly e n s u := by
  obtain ⟨h1, h2, h3, h4, h5⟩ := h
  obtain ⟨k1, k2, k3, k4, k5⟩ := k
  refine ⟨?_, ?_, ?_, ?_, ?_⟩
  · rw [k1, h1]
  · intro d; rw [k2 d, h2 d]
  · intro d m hd; rw [k3 d m hd, h3 d m hd]
  · rw [k4, h4]
  · rcases k5 with k5 | k5 <;> rcases h5 with h5 | h5 <;> rw [k5, h5]
    · exact .inl rfl
    · exact .inr rfl
    · exact .inr rfl
    · refine .inr ?_
      rw [BitVec.or_assoc, BitVec.or_self]

theorem offered_variants (e d : EntryId) (n : Nest) (f : List Variant → List Variant) :
    OfferedOnly e n s (s.updEntry d (fun x => { x with variants := f x.variants })) := by
  refine ⟨rfl, ?_, fun _ _ _ => rfl, rfl, .inl rfl⟩
  intro x; rw [entry_updEntry]; split
  · subst_vars; rfl
  · rfl

theorem offered_setRecordVariant (e : EntryId) (n : Nest) (i : Nat) :
    OfferedOnly e n s (setRecordVariant e n i s) := by
  refine ⟨rfl, fun _ => rfl, ?_, ?_, .inl rfl⟩
  · intro d m h; exact (record_updRecord s _ _ _ _ _).trans (if_neg h)
  · show (State.updRecord _ _ _ _).record e n = _
    unfold setRecordVariant
    rw [record_updRecord, if_pos ⟨rfl, rfl⟩]

theorem offered_takeCell (e : EntryId) (n : Nest) (payload : List Byte) :
    OfferedOnly e n s (takeCell payload s).2 := by
  unfold takeCell; split
  · exact ⟨rfl, fun _ => rfl, fun _ _ _ => rfl, rfl, .inl rfl⟩
  · dsimp only; split
    · exact ⟨rfl, fun _ => rfl, fun _ _ _ => rfl, rfl, .inr rfl⟩
    · exact ⟨rfl, fun _ => rfl, fun _ _ _ => rfl, rfl, .inl rfl⟩

theorem offered_createVariant (e : EntryId) (n : Nest) (payload : List Byte) (r : Residence) :
    OfferedOnly e n s (createVariant e n payload r s) := by
  unfold createVariant; dsimp only
  refine OfferedOnly.trans (t := (if payload.length = 0 then (none, s) else takeCell payload s).2) ?_ ?_
  · split
    · exact OfferedOnly.refl s e n
    · exact offered_takeCell s e n payload
  · exact OfferedOnly.trans (offered_variants _ _ _ _ (fun l => l ++ [_])) (offered_setRecordVariant _ _ _ _)

theorem offered_sets (e : EntryId) (n : Nest) (i : Fin 256) (f : VariantSet → VariantSet) :
    OfferedOnly e n s (s.updVariantSet i f) := ⟨rfl, fun _ => rfl, fun _ _ _ => rfl, rfl, .inl rfl⟩

theorem offered_evict (e : EntryId) (n : Nest) (w : Way) : OfferedOnly e n s (evict w s) := by
  unfold evict
  refine OfferedOnly.trans (offered_variants s e w.entry n (fun l => l.modify w.index
    (fun v => { v with residence := .settled }))) ?_
  exact ⟨rfl, fun _ => rfl, fun _ _ _ => rfl, rfl, .inl rfl⟩

/-- Offering an answer (R109, R110): with capture NONE nothing changes, and otherwise no more than
`OfferedOnly`. -/
theorem offerAnswer_spec (e : EntryId) (n : Nest) (payload : List Byte) :
    OfferedOnly e n s (offerAnswer e n payload s) ∧
    ((s.entry e).capture = .none → offerAnswer e n payload s = s) := by
  unfold offerAnswer
  cases (s.entry e).capture with
  | none => exact ⟨OfferedOnly.refl s e n, fun _ => rfl⟩
  | each => exact ⟨offered_createVariant s e n payload _, fun h => nomatch h⟩
  | coalesce =>
    refine ⟨?_, fun h => nomatch h⟩
    dsimp only
    split
    · unfold coalesceHit; dsimp only; split
      · unfold joinVariant
        exact (offered_variants _ _ _ _ (fun l => l.modify _ _)).trans
          ((offered_setRecordVariant _ _ _ _).trans (offered_sets _ _ _ _ _))
      · exact OfferedOnly.refl s e n
    · unfold coalesceMiss; dsimp only
      refine OfferedOnly.trans ?_ ((offered_createVariant _ e n payload _).trans (offered_sets _ _ _ _ _))
      split
      · exact offered_evict s e n _
      · exact OfferedOnly.refl s e n

end Sys2Proof.Machine
end

