-- ==== Sys2Proof/Laws/Bytes.lean ====
section
/-! SUPPORT. Bytes written and read back: single fields, fields of a message built by ++, and fields of a table
of parts of one size. -/

namespace Sys2Proof.Machine

@[simp] theorem length_leBytes (k v : Nat) : (leBytes k v).length = k := by
  induction k generalizing v <;> simp [leBytes, *]

@[simp] theorem length_beBytes (k v : Nat) : (beBytes k v).length = k := by simp [beBytes]

@[simp] theorem length_byte (v : Nat) : (byte v).length = 1 := rfl

/-- A number written in `k` bytes reads back, modulo what `k` bytes hold. -/
theorem leNat_leBytes (k v : Nat) : leNat (leBytes k v) = v % 256 ^ k := by
  induction k generalizing v with
  | zero => simp [leBytes, leNat, Nat.mod_one]
  | succ k ih =>
    have h : v % 256 ^ (k + 1) = v % 256 + 256 * (v / 256 % 256 ^ k) := by
      rw [pow_succ, mul_comm (256 ^ k) 256, Nat.mod_mul]
    rw [leBytes, leNat, ih, h, BitVec.toNat_ofNat]

theorem beNat_beBytes (k v : Nat) : beNat (beBytes k v) = v % 256 ^ k := by
  simp [beNat, beBytes, leNat_leBytes]

theorem leNat_lt (bs : List Byte) : leNat bs < 256 ^ bs.length := by
  induction bs with
  | nil => simp [leNat]
  | cons b bs ih =>
    have := b.isLt
    simp only [leNat, List.length_cons, pow_succ]
    omega

/-- Bytes read as a number are the bytes written of that number. -/
theorem leBytes_leNat (bs : List Byte) : leBytes bs.length (leNat bs) = bs := by
  induction bs with
  | nil => rfl
  | cons b bs ih =>
    have hb := b.isLt
    have h1 : (b.toNat + 256 * leNat bs) / 256 = leNat bs := by omega
    have h2 : BitVec.ofNat 8 (b.toNat + 256 * leNat bs) = b := by
      apply BitVec.eq_of_toNat_eq
      rw [BitVec.toNat_ofNat]; omega
    rw [List.length_cons, leNat, leBytes, h1, h2, ih]

/-- Byte `j` of a number written in `k` bytes, least significant first. -/
theorem byteAt_leBytes (k v j : Nat) (h : j < k) : byteAt (leBytes k v) j = BitVec.ofNat 8 (v / 256 ^ j) := by
  induction k generalizing v j with
  | zero => omega
  | succ k ih =>
    cases j with
    | zero => simp [leBytes, byteAt]
    | succ j =>
      have := ih (v / 256) j (by omega)
      simp only [leBytes, byteAt, List.getD_cons_succ] at this ⊢
      rw [this, Nat.div_div_eq_div_mul, pow_succ, Nat.mul_comm]

/-! ### A field of a message built by ++ -/

theorem byteAt_append_left (a b : List Byte) (i : Nat) (h : i < a.length) : byteAt (a ++ b) i = byteAt a i := by
  simp [byteAt, List.getD, List.getElem?_append_left h]

theorem byteAt_append_right (a b : List Byte) (i : Nat) (h : a.length ≤ i) :
    byteAt (a ++ b) i = byteAt b (i - a.length) := by
  simp [byteAt, List.getD, List.getElem?_append_right h]

theorem leAt_append_left (a b : List Byte) (i k : Nat) (h : i + k ≤ a.length) :
    leAt (a ++ b) i k = leAt a i k := by
  unfold leAt; congr 1; apply List.map_congr_left; intro j hj
  exact byteAt_append_left _ _ _ (by have := List.mem_range.mp hj; omega)

theorem leAt_append_right (a b : List Byte) (i k : Nat) (h : a.length ≤ i) :
    leAt (a ++ b) i k = leAt b (i - a.length) k := by
  unfold leAt; congr 1; apply List.map_congr_left; intro j hj
  rw [byteAt_append_right _ _ _ (by omega)]; congr 1; omega

/-- A field of the first `k` bytes is the number they spell. -/
theorem leAt_take (a : List Byte) (i k : Nat) (h : i + k ≤ a.length) : leAt a i k = leNat ((a.drop i).take k) := by
  unfold leAt; congr 1
  apply List.ext_getElem
  · simp; omega
  · intro j h1 h2
    have : i + j < a.length := by simp at h1; omega
    simp [byteAt, List.getD, List.getElem?_eq_getElem this]

/-! ### A field of one part of a table of parts of one size -/

theorem length_flatMap_const {α : Type} (l : List α) (f : α → List Byte) (w : Nat)
    (hw : ∀ a ∈ l, (f a).length = w) : (l.flatMap f).length = w * l.length := by
  induction l with
  | nil => simp
  | cons x xs ih =>
    simp only [List.flatMap_cons, List.length_append, List.length_cons]
    rw [hw x (by simp), ih (fun a ha => hw a (by simp [ha])), Nat.mul_succ]; omega

theorem byteAt_flatMap {α : Type} (l : List α) (f : α → List Byte) (w : Nat) (hw : ∀ a ∈ l, (f a).length = w)
    (i : Nat) (hi : i < l.length) (j : Nat) (hj : j < w) (b : List Byte) :
    byteAt (l.flatMap f ++ b) (w * i + j) = byteAt (f l[i]) j := by
  induction l generalizing i with
  | nil => simp at hi
  | cons x xs ih =>
    have hx := hw x (by simp)
    simp only [List.flatMap_cons, List.append_assoc]
    cases i with
    | zero => simp only [Nat.mul_zero, Nat.zero_add, List.getElem_cons_zero]; rw [byteAt_append_left _ _ _ (by omega)]
    | succ i =>
      rw [byteAt_append_right _ _ _ (by rw [hx, Nat.mul_succ]; omega)]
      have : w * (i + 1) + j - (f x).length = w * i + j := by rw [hx, Nat.mul_succ]; omega
      rw [this]
      exact ih (fun a ha => hw a (by simp [ha])) i (by simpa using hi)

theorem leAt_flatMap {α : Type} (l : List α) (f : α → List Byte) (w : Nat) (hw : ∀ a ∈ l, (f a).length = w)
    (i : Nat) (hi : i < l.length) (j k : Nat) (hj : j + k ≤ w) (b : List Byte) :
    leAt (l.flatMap f ++ b) (w * i + j) k = leAt (f l[i]) j k := by
  unfold leAt; congr 1; apply List.map_congr_left; intro m hm
  have := List.mem_range.mp hm
  rw [Nat.add_assoc, byteAt_flatMap l f w hw i hi _ (by omega)]

end Sys2Proof.Machine
end

