-- ==== Sys2Proof/Laws/Requests.lean ====
section
/-! SUPPORT. What the Dispatcher does with a message it can take, said once for every request. -/

namespace Sys2Proof.Machine

variable {s : State} {f : RxFrame}

theorem AtDispatcher.headMessage (h : AtDispatcher s f) : headMessage s = some f := by
  obtain ⟨h1, h2, h3, h4⟩ := h
  simp [Machine.headMessage, State.running, h1, h2, h3, h4]

/-- A request the Dispatcher can take is carried out by its action (R177). -/
theorem runRequest_eq (h : AtDispatcher s f) (hr : s.uplink.response.length < 8) {p : List Byte → Bool}
    (hp : p f.msg = true) (act : Req → List Byte → State → State) :
    runRequest p act s = .next (act (reqOf f) (argsOf f.msg) (passMessage f s)) := by
  have : headRequest p s = some f := by
    simp [headRequest, responseRoom, Config.responseCapacity, hr, h.headMessage, hp]
  simp [runRequest, this]

/-- A request of code `c` is carried out with its arguments. -/
theorem runRequest_asked {c : RequestCode} {args : List Byte} (h : Asked s f c args)
    (act : Req → List Byte → State → State) :
    runRequest (isRequestOf c) act s = .next (act (reqOf f) args (passMessage f s)) := by
  obtain ⟨h1, h2, h3, rfl⟩ := h
  exact runRequest_eq h1 h2 h3 act

theorem Asked.class_eq {c : RequestCode} {args : List Byte} (h : Asked s f c args) : byteAt f.msg 1 = 2#8 := by
  have := h.2.2.1
  simp only [isRequestOf, classOf, classRequest, Bool.and_eq_true] at this
  exact BitVec.eq_of_toNat_eq (of_decide_eq_true this.1.1)

/-- The response to the message passed is `answered`. -/
theorem respond_passMessage (status : Status) (r : List Byte) :
    respond (reqOf f) status r (passMessage f s) = answered f status r s := rfl

/-- A change that leaves the Uplink Port and the Dispatcher alone may come before or after the message is
passed. -/
theorem respond_of (status : Status) (r : List Byte) {t u : State}
    (h : t = { u with uplink := (passMessage f u).uplink, dispatcher := (passMessage f u).dispatcher }) :
    respond (reqOf f) status r t = answered f status r u := by
  subst h; rfl

/-! ### What an action does to the rest of the state, before or after the message is passed -/

/-- `t` with the Uplink Port and the Dispatcher of `s`. -/
def withDispatchOf (s t : State) : State := { t with uplink := s.uplink, dispatcher := s.dispatcher }

theorem withDispatchOf_passMessage : withDispatchOf s (passMessage f s) = s := rfl

theorem OnlyNest.undispatch {n : Nest} {t u : State} (h : OnlyNest n t u) :
    OnlyNest n (withDispatchOf s t) (withDispatchOf s u) := by
  obtain ⟨h1, h2, h3⟩ := h
  refine ⟨?_, h2, h3⟩
  have := congrArg (withDispatchOf s) h1
  exact this

theorem HaltTaken.undispatch {n : Nest} {p : Copy → Bool} {t u : State} (h : HaltTaken n p t u) :
    HaltTaken n p (withDispatchOf s t) (withDispatchOf s u) := by
  have e1 : (withDispatchOf s t).port n = t.port n := rfl
  unfold HaltTaken at h ⊢
  rw [e1]
  split
  · next hs hq =>
    simp only [hs, hq] at h
    split_ifs at h ⊢
    · exact ⟨h.1.undispatch, h.2⟩
    · rw [h]
  · next hs hq =>
    simp only [hs, hq] at h
    split_ifs at h ⊢
    · exact ⟨h.1.undispatch, h.2⟩
    · rw [h]
  · next hs hq =>
    split at h
    · next a b => exact absurd b (hs _ _ _ a)
    · next a b => exact absurd b (hq _ _ a)
    · rw [h]

theorem VoidTaken.undispatch {n : Nest} {p : Copy → Bool} {t u : State} (h : VoidTaken n p t u) :
    VoidTaken n p (withDispatchOf s t) (withDispatchOf s u) :=
  ⟨h.1.undispatch, h.2⟩

theorem WaitingVoidsTaken.undispatch {n : Nest} {t u : State} (h : WaitingVoidsTaken n t u) :
    WaitingVoidsTaken n (withDispatchOf s t) (withDispatchOf s u) := by
  unfold WaitingVoidsTaken at h ⊢
  have e : (withDispatchOf s t).lotNest n = t.lotNest n := rfl
  rw [e]
  by_cases hn : (t.lotNest n).voids = []
  · rw [if_pos hn] at h ⊢
    rw [h]
  · rw [if_neg hn] at h ⊢
    obtain ⟨v, hv, rfl⟩ := h
    exact ⟨withDispatchOf s v, hv.undispatch, rfl⟩

theorem LinkDropped.undispatch {n : Nest} {t u : State} (h : LinkDropped n t u) :
    LinkDropped n (withDispatchOf s t) (withDispatchOf s u) :=
  ⟨h.1.undispatch, h.2⟩

theorem Trained.undispatch {r : Nest → Bool} {t u : State} (h : Trained r t u) :
    Trained r (withDispatchOf s t) (withDispatchOf s u) :=
  ⟨congrArg (withDispatchOf s) h.1, h.2⟩

theorem StandingChanged.undispatch {n : Nest} {x : Standing} {t u : State} (h : StandingChanged n x t u) :
    StandingChanged n x (withDispatchOf s t) (withDispatchOf s u) :=
  ⟨congrArg (withDispatchOf s) h.1, h.2⟩

theorem LostIfClear.undispatch {n : Nest} {t u : State} (h : LostIfClear n t u) :
    LostIfClear n (withDispatchOf s t) (withDispatchOf s u) := by
  unfold LostIfClear at h ⊢
  have e : (withDispatchOf s t).lotNest n = t.lotNest n := rfl
  rw [e]
  split_ifs at h ⊢
  · exact h.undispatch
  · rw [h]

/-- The response to an action that leaves the Uplink Port and the Dispatcher as the passed message has them. -/
theorem respond_undispatch (status : Status) (r : List Byte) {t : State}
    (h1 : t.uplink = (passMessage f s).uplink) (h2 : t.dispatcher = (passMessage f s).dispatcher) :
    respond (reqOf f) status r t = answered f status r (withDispatchOf s t) := by
  apply respond_of
  obtain ⟨_, _, _, _, _, _, _, _, _, _, _, _, _, _, _, _, _⟩ := t
  subst h1 h2
  rfl

/-! ### Standings -/

theorem changeStanding_spec (n : Nest) (x : Standing) (s : State) :
    StandingChanged n x s (changeStanding n x s) := by
  refine ⟨rfl, ?_, ?_, ?_⟩
  · show ((s.updLotNest n _).lotNest n) = _
    rw [lotNest_updLotNest_same]
  · intro m hm
    show ((s.updLotNest n _).lotNest m) = _
    rw [lotNest_updLotNest, if_neg hm]
  · intro m
    exact NestSet.has_insert _ _ _

theorem loseIfClear_spec (n : Nest) (s : State) : LostIfClear n s (loseIfClear n s) := by
  unfold LostIfClear loseIfClear isClear
  by_cases h : (s.lotNest n).standing = .clear
  · simp only [h, decide_true, if_true]; exact changeStanding_spec n .lost s
  · simp [h]

end Sys2Proof.Machine
end

