-- ==== Sys2Proof/Laws/Retirement.lean ====
section
/-! SUPPORT. What packing a report and ending a retirement do, and the cells that variants hold. -/

namespace Sys2Proof.Machine

variable (s : State)

/-- Packing keeps every variant, in order (R142). -/
theorem packVariants_flatten (vs cur : List Variant) (size : Nat) :
    (packVariants vs cur size).flatten = cur.reverse ++ vs := by
  induction vs, cur, size using packVariants.induct with
  | case1 => simp [packVariants]
  | case2 => simp [packVariants]
  | case3 v vs size ih => simp [packVariants, ih]
  | case4 v vs c cs size h ih => simp [packVariants, h, ih]
  | case5 v vs c cs size h ih => simp [packVariants, h, ih]

/-- The variant segments of a report carry the variant list, each variant once and in order (R142). -/
theorem variantSegments_flatten (vs : List Variant) : (variantSegments vs).flatten = vs := by
  simp [variantSegments, packVariants_flatten]

/-- With no retirement in progress every variant holds its cell (R124). -/
theorem holdingVariants_of_none (e : EntryId) (h : s.retire.progress = none) :
    holdingVariants s e = (s.entry e).variants := by simp [holdingVariants, h]

/-- A retirement that has placed no variant yet leaves every cell held (R124, R134). -/
theorem holdingVariants_of_le_one (e : EntryId) (r : Retirement) (h : s.retire.progress = some r)
    (hn : r.next ≤ 1) : holdingVariants s e = (s.entry e).variants := by
  have : r.next - 1 = 0 := by omega
  simp only [holdingVariants, h, this, List.drop_zero, variantSegments_flatten]
  split <;> rfl

/-- The variants a retirement still holds are those of the next segment and those it holds after it (R135). -/
theorem holding_succ (vs : List Variant) (k : Nat) (h : 1 ≤ k) :
    ((variantSegments vs).drop (k - 1)).flatten =
      (variantSegments vs).getD (k - 1) [] ++ ((variantSegments vs).drop k).flatten := by
  obtain ⟨j, rfl⟩ : ∃ j, k = j + 1 := ⟨k - 1, by omega⟩
  simp only [Nat.add_sub_cancel]
  by_cases hj : j < (variantSegments vs).length
  · rw [List.drop_eq_getElem_cons hj, List.flatten_cons, List.getD_eq_getElem _ _ hj]
  · rw [List.drop_eq_nil_of_le (by omega), List.drop_eq_nil_of_le (by omega),
      List.getD_eq_default _ _ (by omega)]
    rfl

/-- The copies that an entry leaves behind in a queue are copies of no entry from then on (R43). -/
@[simp] theorem port_releaseCopies (e : EntryId) (n : Nest) :
    (releaseCopies e s).port n = { s.port n with queue := (s.port n).queue.map (Copy.release e) } := by
  simp [releaseCopies, State.port, mapTable]

/-- The candidate's retirement begins only with the room, and with every outcome and stop failure of its copies
taken (R133; log entry 24). -/
theorem retirable_eq_some {e : EntryId} (h : retirable s = some e) :
    s.phase = .running ∧ s.retire.candidate = some e ∧ s.retire.progress = none ∧
    segmentCount (s.entry e) ≤ reportRoom s ∧ outcomesTaken s e = true := by
  unfold retirable at h
  split at h
  · split at h
    · next d hc hd =>
      cases h
      simpa [State.running, hc, and_assoc] using hd
    · cases h
  · cases h

end Sys2Proof.Machine
end

