-- ==== Sys2Proof/WellFormed.lean ====
section
/-! DEFINITION. Well-formed commands: a command names an event that its row speaks of. The one meaning
of a nest-link command that is not well formed is that of the BAD_FRAME it is (R58). -/

namespace Sys2Proof

/-- The command is one its row speaks of: the loader's image has 40 bytes (R188), a BAD_FRAME is bad
(R58), and every other nest-link frame is good in its kind (R57, R58). -/
def Instr.wellFormed (i : Instr) : Bool :=
  match i with
  | .loadingEnd flash => flash.all (fun image => image.length == 40)
  | .badFrame _ bytes => Machine.isBadFrame bytes
  | .welcome _ _ p => (Machine.presenceOf p).isSome
  | .presence _ p => (Machine.presenceOf p).isSome
  | .answer _ _ _ payload => payload.length ≤ Config.maxAnswer
  | .chat _ payload => payload.length ≤ Config.maxAnswer
  | .powerOn _ | .resetPin _ | .frameReceived _ | .requestWaiting | .step | .requestUnknownCode
  | .describe | .putRowsGroup | .putRowsProfile | .putRowsCodeSet | .putRowsNestConfig
  | .putRowsAllowList | .putRowsSettings | .getRows | .getCounters | .getCountersClear | .getState
  | .openLot | .closeLot | .abortStream | .streamHaltAndVoid _ | .nestActionHalt | .nestActionCycle
  | .nestActionExclude | .nestActionInclude | .nestActionRetrain | .releaseAttention | .restart
  | .restartEvent | .uplinkTransmitStart | .uplinkFrameSent | .uplinkLinkChange _
  | .laneSignalPresent _ | .laneSignalLost _ | .greetRepeat _ | .frameLeavesLane _ | .stopped _ _
  | .note _ _ | .startHead _ | .deadlineExpiry _ | .gapExpiry _ | .graceExpiry _ | .stopFailure _
  | .absence _ | .stall _ | .voidInstruction _ | .outcomeDelivered _ | .retirementStart
  | .segmentPlaced | .noticeBuild | .throttleExpiry | .timeSinceStartTick | .resetPinAssertion => true

end Sys2Proof
end

