-- ==== Sys2Proof/Tests/Slice0.lean ====
section
/-! SUPPORT. Tests: the well-formedness checks each refuse an ill-formed command, single steps against the
manual's own tables and worked cases, and for each statement with hypotheses a state and operands that meet
them. -/

namespace Sys2Proof.Tests

-- One theorem after another: each `decide +kernel` waits for the kernel, and a hundred waiting at once need a
-- thread each.
set_option Elab.async false

open Sys2Proof.Machine

/-! ### Small states -/

/-- The part running, right after power-on. -/
def idle : State := { State.reset with phase := .running }

/-- A MAC address of a test host. -/
def host : MacAddr := 0x020000000001#48

/-- `s` with one message at the head of the receive buffer. -/
def withMsg (s : State) (msg : List Byte) : State :=
  { s with uplink := { s.uplink with rx := [{ src := host, msg := msg }] } }

/-- A REQUEST of code `c`, its tag 9 and its id 77 (11.3). -/
def request (c : Nat) (args : List Byte) : List Byte := message 2 9 (leBytes 4 77 ++ byte c ++ byte 0 ++ args)

/-- `s` with a REQUEST of code `c` at the head of the receive buffer. -/
def asking (s : State) (c : RequestCode) (args : List Byte) : State := withMsg s (request c.code args)

/-- The frame that `asking` places. -/
def askFrame (c : RequestCode) (args : List Byte) : RxFrame := { src := host, msg := request c.code args }

/-- A STEP of stream `stream` with profile row `profile`, policy CONTINUE, capture NONE, 3 reps and a deadline
of 2000 ms (11.3). -/
def stepMsg (stream kind target profile number : Nat) (payload : List Byte) : List Byte :=
  message 1 7 (byte stream ++ byte kind ++ byte target ++ byte profile ++ byte 0 ++ byte 0 ++ byte 3 ++ byte 0 ++
    leBytes 2 number ++ leBytes 2 2000 ++ leBytes 2 0 ++ leBytes 2 payload.length ++ payload)

/-- The state after a command. -/
def go (s : State) (c : Instr) : State :=
  match exec c s with
  | .next t => t
  | .fault _ => s
  | .refused _ => s

/-- The open lot of the worked sequence of chapter 1, on two nests: nest 5 FAILED and nest 12 CLEAR, UP and
PRESENT; pointer 40, free list from block 17, stream 2 at number 40. -/
def openLot : State :=
  let s := idle.updPort 12 (fun p => { p with link := .up, presence := .present })
  let s := (s.updLotNest 12 (fun l => { l with standing := .clear })).updLotNest 5
    (fun l => { l with standing := .failed })
  { s.updStream 2 (fun x => { x with expected := 40 }) with
    lot := { s.lot with isOpen := true },
    table := { s.table with alloc := 40 },
    payload := { s.payload with free := (List.finRange 512).drop 17 ++ (List.finRange 512).take 17 } }

/-- A copy of entry 5 of stream 0. -/
def copyOf (x : CopyState) : Copy :=
  { entry := 5, stream := 0, stepNumber := 0, state := x, runs := 0, freed := false }

/-- Nest 3 UP with a phone, service state `x` and queue `q`; entry 5 LIVE with one copy. -/
def serving (x : Service) (q : List Copy) : State :=
  (idle.updPort 3 (fun p =>
    { p with link := .up, presence := .present, service := x, queue := q, runTag := 6 })).updEntry 5
      (fun e => { e with state := .live, reps := 2, deadline := 500, pending := 1, policy := .stop })

/-! ### Well-formed commands -/

theorem test_wf_image_of_39_bytes_refused :
    (Instr.loadingEnd (some (List.replicate 39 0#8))).wellFormed = false := by decide
theorem test_wf_bad_frame_must_be_bad :
    (Instr.badFrame 3 (LaneIn.stopped 6).bytes).wellFormed = false := by decide +kernel
theorem test_wf_welcome_presence_2_refused : (Instr.welcome 3 7 2#8).wellFormed = false := by decide
theorem test_wf_presence_2_refused : (Instr.presence 3 2#8).wellFormed = false := by decide
theorem test_wf_answer_of_257_bytes_refused :
    (Instr.answer 3 6 0#8 (List.replicate 257 0#8)).wellFormed = false := by decide +kernel
theorem test_wf_chat_of_257_bytes_refused :
    (Instr.chat 3 (List.replicate 257 0#8)).wellFormed = false := by decide +kernel
theorem test_wf_boundaries_taken :
    (Instr.loadingEnd (some (List.replicate 40 0#8))).wellFormed = true ∧ (Instr.loadingEnd none).wellFormed = true ∧
    (Instr.welcome 3 7 1#8).wellFormed = true ∧ (Instr.presence 3 0#8).wellFormed = true ∧
    (Instr.chat 3 (List.replicate 256 0#8)).wellFormed = true := by decide +kernel

/-! ### Single steps against the manual -/

/-- The table has no row with bits, so no word spells a command. -/
theorem test_no_word_spells_a_command : decodeTableWord 8 0x3F = none ∧ (idle.withFetchWord 8 0x3F) = idle :=
  ⟨rfl, rfl⟩

/-- R113: the digests of its table. -/
theorem test_digests :
    digest [] = 0 ∧ digest [0x4F, 0x4B, 0x31, 0x00] = 0x4B80 ∧ digest [0x4F, 0x4B, 0x31, 0x01] = 0x4C80 := by
  decide
/-- Chapter 6, worked example: A, B and C of entry 5 and the empty payload of entry 37 share set 148. -/
theorem test_set_148 : setIndex 5 0x4B80 = 148 ∧ setIndex 5 0x4C80 = 148 ∧ setIndex 37 0 = 148 := by decide

/-- The slot of the worked case of chapter 5. -/
def currentSlot : MeasureSlot :=
  { mode := .avg, position := 4, width := 2, signed := true, gain := 5243, shift := 12, codeSet := 0,
    window := 0, bias := BitVec.ofInt 32 (-20), low := 1500, high := 1650, guard := 25 }

/-- Chapter 5, worked cases: 1234 scales to 1560, -1234 to -1600, and with gain 1 and shift 1 a half goes up. -/
theorem test_scaling :
    scaleExact currentSlot 1234 = 1560 ∧ scaleExact currentSlot (-1234) = -1600 ∧
    scaleExact { currentSlot with gain := 1, shift := 1, bias := 0 } (-3) = -1 := by decide
/-- R99: the three averages it works out. -/
theorem test_averages : roundedAverage 7 2 = 4 ∧ roundedAverage (-7) 2 = -4 ∧ roundedAverage 4679 3 = 1560 := by
  decide

/-- R55, 11.8: a HALT of tag 7 is eight bytes, its payload length 0. -/
theorem test_halt_bytes : ((LaneOut.halt 7).bytes.take 6) = [0xC3, 0x03, 0x00, 0x07, 0x00, 0x00] ∧
    (LaneOut.halt 7).bytes.length = 8 := by decide +kernel

/-- R56 and R173: the check values they give over the nine digits 1 to 9. -/
theorem test_check_values :
    crc16 [0x31, 0x32, 0x33, 0x34, 0x35, 0x36, 0x37, 0x38, 0x39] = 0x29B1 ∧
    crc32 [0x31, 0x32, 0x33, 0x34, 0x35, 0x36, 0x37, 0x38, 0x39] = 0xCBF43926 := by decide +kernel

/-- Chapter 1, worked sequence, message 7: entry 40 is taken here at pointer 40 and nest 12 has its copy. -/
theorem test_step_accepted :
    let t := go (withMsg openLot (stepMsg 0 0 12 0 0 (List.replicate 300 1#8))) .step
    (t.entry 40).state = .live ∧ (t.entry 40).blocks = [17, 18] ∧ t.table.alloc = 41 ∧
    t.payload.free.head? = some 19 ∧ (t.stream 0).expected = 1 ∧ (t.port 12).queue.length = 1 ∧
    (∀ b ∉ [(17 : BlockId), 18], t.payload.blocks[b.val] = openLot.payload.blocks[b.val]) := by
  decide +kernel
/-- Chapter 1, worked sequence, message 5: with the only target nest FAILED the entry is COMPLETE at once and its
block goes to the tail of the free list. -/
theorem test_step_complete_at_once :
    let t := go (withMsg openLot (stepMsg 2 0 5 0 40 (List.replicate 100 1#8))) .step
    (t.entry 40).state = .complete ∧ t.payload.free.getLast? = some 17 ∧ t.payload.free.length = 512 ∧
    t.retire.candidate = some 40 := by decide +kernel
/-- Chapter 1, worked sequence, messages 4 and 6: BAD_TARGET ahead of BAD_PROFILE, and BAD_FORM of stream 6. -/
theorem test_step_refused :
    (go (withMsg openLot (stepMsg 0 1 3 17 0 [])) .step).mgmt.counters.refused.toList =
      [0, 0, 0, 0, 1, 0, 0, 0, 0, 0] ∧
    (go (withMsg openLot (stepMsg 6 0 5 0 3 [])) .step).mgmt.counters.refused.toList =
      [1, 0, 0, 0, 0, 0, 0, 0, 0, 0] := by decide +kernel

/-- Chapter 9, worked sequence: NOTE 0x0102 finds slot 4 HELD and sets missed, and the release then returns code
0x0101, superseded clear and missed set. -/
theorem test_release_returns_missed :
    let up := idle.updPort 4 (fun p => { p with link := .up })
    let held := { up with notice := { up.notice with slots := upd up.notice.slots 4 (fun _ =>
      { state := .held, code := 0x0101, superseded := false, missed := false }) } }
    let t := go (asking (go held (.note 4 0x0102)) .releaseAttention [4]) .releaseAttention
    t.uplink.response.map ResponseFrame.bytes =
      [[1, 4, 18, 0, 9, 0, 77, 0, 0, 0, 10, 0, 4, 0, 4, 2, 1, 1]] ∧
    t.notice.slots[4].state = .empty := by decide +kernel

/-- Chapter 4: the answer that ends a copy leaves the nest IDLE and its entry COMPLETE. -/
theorem test_answer_ends_copy :
    let t := go (serving (.waiting 6) [{ copyOf .inService with runs := 1 }]) (.answer 3 6 0 [])
    (t.port 3).service = .idle ∧ (t.port 3).queue = [] ∧ (t.entry 5).state = .complete ∧
    (t.record 5 3).outcome = some .pass ∧ (t.record 5 3).runs = 2 := by decide +kernel
/-- R67: a STOPPED in WAITING is LATE, even with the current tag. -/
theorem test_stopped_in_waiting_is_late :
    ((go (serving (.waiting 6) [copyOf .inService]) (.stopped 3 6)).port 3).counters.late = 1 := by decide +kernel

/-- R30: under policy STOP a TIMEOUT whose halt then stalls; the stall waits for the stop failure before it, and the
nest is FAILED and stays FAILED. -/
theorem test_stall_waits_for_stop_failure :
    let s := ((serving (.waiting 6) [copyOf .inService]).updPort 3
      (fun p => { p with deadline := .running 500 })).updLotNest 3 (fun l => { l with standing := .clear })
    let t := (go s (.deadlineExpiry 3)).updPort 3 (fun p => { p with grace := .running 100 })
    let u := go t (.graceExpiry 3)
    let v := go (go u (.stall 3)) (.stopFailure 3)
    ((go u (.stall 3)).lotNest 3).standing = .clear ∧ (v.lotNest 3).standing = .failed ∧
    ((go v (.stall 3)).lotNest 3).standing = .failed ∧ ((go v (.stall 3)).lotNest 3).events = [] := by decide +kernel
/-- R65, R73: a halt grace written while the HALT waits in the backlog is the one loaded when it leaves. -/
theorem test_grace_loaded_as_halt_leaves :
    let s := (serving (.waiting 6) [copyOf .inService]).updPort 3 (fun p => { p with deadline := .running 500 })
    let t := (go s (.deadlineExpiry 3)).updPort 3 (fun p => { p with config := { p.config with haltGrace := 250 } })
    ((go t (.frameLeavesLane 3)).port 3).grace = .running 250 := by decide +kernel
/-- R54: the head's step number stays that of its own step. -/
theorem test_head_step_number_is_its_own :
    let s := serving (.halting 6) [{ copyOf .closing with stepNumber := 0x0102 }]
    ((nestPart s 3).drop 16).take 2 = [0x02, 0x01] := by decide +kernel

/-- Chapter 6, worked example, offers 1 to 4: A and B miss into way 0 and way 1, A hits way 0, and C evicts B. -/
def offers (k : Nat) : State :=
  let start := idle.updEntry 5 (fun e => { e with state := .live, capture := .coalesce, pending := 6, target := 63 })
  ([((2 : Nest), (0x00 : Byte)), (0, 0x01), (4, 0x00), (1, 0x02)].take k).foldl
    (fun s x => offerAnswer 5 x.1 [0x4F, 0x4B, 0x31, x.2] s)
    { start with coalesce := { start.coalesce with free := [100, 101, 102, 103] } }

theorem test_offers :
    ((offers 4).entry 5).variants.map (fun v => (v.nests, v.cell, v.residence)) =
      [(0x14#32, some 100, .resident 148 0), (1#32, some 101, .settled), (2#32, some 102, .resident 148 1)] ∧
    ((offers 4).variantSet 148).lru = 0 ∧ (offers 4).mgmt.counters.evictions = 1 ∧
    (offers 4).coalesce.free = [103] ∧ ((offers 4).record 5 4).variant = some 0 := by decide +kernel

/-- R173: a frame of 63 bytes is malformed, whatever it holds. -/
theorem test_short_frame_is_malformed :
    let s := { idle with uplink := { idle.uplink with linkUp := true } }
    (go s (.frameReceived (List.replicate 63 0#8))).mgmt.counters.rxMalformed = 1 := by decide +kernel

/-! ### Witnesses: each statement's hypotheses are met -/

/-- A flash image that is good (R188): MAC 02-00-00-00-00-01, no entry valid, every nest enabled. -/
def goodImage : List Byte :=
  [2, 0, 0, 0, 0, 1] ++ List.replicate 28 0#8 ++ [0xFF, 0xFF, 0xFF, 0xFF] ++ [0xA5, 0xA4]

theorem witness_LoadingEndTakesConfiguration :
    State.reset.phase = .loading ∧ GoodImage goodImage ∧ ¬GoodImage (List.replicate 40 0#8) ∧
    ∀ image, (none : Option (List Byte)) = some image → ¬GoodImage image := by
  refine ⟨rfl, by unfold GoodImage; decide +kernel, by unfold GoodImage; decide +kernel, by simp⟩

theorem witness_RestartClearsAndKeeps :
    let s := { idle with dispatcher := { idle.dispatcher with restart := .due } }
    s.phase = .running ∧ s.dispatcher.restart = .due := by decide

theorem witness_ResetAssertionAndTick :
    (go idle .resetPinAssertion).phase = .held ∧ State.reset.phase ≠ .held ∧ idle.phase ≠ .held ∧
    (go { idle with mgmt := { idle.mgmt with time := 4294967295 } } .timeSinceStartTick).mgmt.time = 4294967295 := by
  decide +kernel

theorem witness_FrameReceivedIsChecked :
    let s := { idle with uplink := { idle.uplink with linkUp := true } }
    (s.phase = .running ∧ s.uplink.linkUp = true) ∧ State.reset.phase ≠ .running ∧
    (idle.phase = .running ∧ idle.uplink.linkUp = false) := by decide

/-- A state with the uplink up and a frame in each of the queues given. -/
def queued (response : List ResponseFrame) (notice : List NoticeMsg) (report : List SegmentMsg)
    (chatter : List ChatterMsg) : State :=
  { idle with uplink := { idle.uplink with
      linkUp := true, response := response, notice := notice, report := report, chatter := chatter } }

/-- A response to a RESTART. -/
def restarted : ResponseFrame :=
  .response { req := { dest := host, tag := 9, id := 77, code := 11 }, status := .ok, result := [0] }
/-- A notice. -/
def aNotice : NoticeMsg := { serial := 1, causes := 2, links := 1, standings := 0, attention := [] }
/-- A segment. -/
def aSegment : SegmentMsg := { stream := 0, stepNumber := 0, index := 1, last := true, body := .variants [] }
/-- A CHATTER message. -/
def aChatter : ChatterMsg := { nest := 3, payload := [1] }

/-- Segment 0 of a report of one nest, its outcome FAIL with a HIGH of -2 (11.5). -/
def aReport : SegmentMsg :=
  { stream := 2, stepNumber := 0x0102, index := 0, last := true,
    body := .head
      { stream := 2, stepNumber := 0x0102, lotId := 7, clamped := false, aborted := true, capture := .coalesce,
        targetCount := 1, outcomeCounts := [0, 0, 1, 0, 0, 0, 0, 0, 0], variantCount := 0, segmentCount := 1,
        freeEntries := 63, freeBlocks := 512, freeCells := 512, expected := 0x0103 }
      [{ nest := 31, outcome := some .fail, runs := 3, variant := none,
         measures := { verdict := .high, sat := true, value := -2 } ::
           List.replicate 3 { verdict := .off, sat := false, value := 0 } }] }

/-- 11.5: the header, the segment header, the report header and the nest record of `aReport`, byte by byte. -/
theorem test_report_bytes : aReport.bytes =
    [1, 5, 76, 0, 0, 0] ++ [2, 1, 2, 1, 0, 0] ++
    [2, 2, 2, 1, 7, 0, 0, 0, 2, 1, 0, 1, 0, 0, 1, 0, 0, 0, 0, 0, 0, 63, 0, 2, 0, 2, 3, 1] ++
    [31, 2, 3, 0xFF, 5, 1, 0, 0, 0xFE, 0xFF, 0xFF, 0xFF] ++ List.replicate 24 0#8 := by decide +kernel

/-- Nine outcome counts and four measures; and a variant segment. -/
theorem witness_TransmitterTakesHighestClass_segments :
    (∃ h rs, aReport.body = .head h rs ∧ h.outcomeCounts.length = 9 ∧ ∀ r ∈ rs, r.measures.length = 4) ∧
    aSegment.body = .variants [] := ⟨⟨_, _, rfl, by decide, by decide⟩, rfl⟩

/-- A state with a frame at the head of each class alone, and with none. -/
theorem witness_TransmitterTakesHighestClass :
    ∀ s ∈ [queued [restarted] [aNotice] [aSegment] [aChatter], queued [] [aNotice] [aSegment] [aChatter],
      queued [] [] [aSegment] [aChatter], queued [] [] [] [aChatter], queued [] [] [] []],
    s.phase = .running ∧ s.uplink.linkUp = true ∧ s.uplink.tx = none ∧ idle.uplink.linkUp = false ∧
    (go (queued [restarted] [] [] []) .uplinkTransmitStart).uplink.tx ≠ none := by decide +kernel

theorem witness_SentOrLostFrameLeavesItsQueue :
    let s := queued [restarted] [] [] []
    let sending := { s with
      uplink := { s.uplink with tx := some { cls := .response, frame := [] } },
      dispatcher := { s.dispatcher with restart := .waiting } }
    (sending.phase = .running ∧ sending.uplink.tx = some { cls := .response, frame := [] } ∧
      sending.dispatcher.restart = .waiting ∧ sending.uplink.response = [restarted]) ∧
    (s.phase = .running ∧ s.uplink.tx = none) ∧
    exec .uplinkFrameSent sending = .next (go sending .uplinkFrameSent) ∧ State.reset.phase ≠ .running :=
  ⟨⟨rfl, rfl, rfl, rfl⟩, ⟨rfl, rfl⟩, rfl, by decide⟩

/-- A STEP and a REQUEST of each code at the rows of the others, table 6, action 4 and both clear options. -/
theorem witness_RequestWaitsAndUnknownIsBad_other :
    (AtDispatcher (withMsg idle (stepMsg 0 0 0 0 0 [])) { src := host, msg := stepMsg 0 0 0 0 0 [] } ∧
      byteAt (stepMsg 0 0 0 0 0 []) 1 ≠ 2#8) ∧
    (isRequestOf .describe (request 1 []) = true ∧ byteAt (request 1 []) 1 ≠ 1#8 ∧
      isRequestOf .restart (request 1 []) = false ∧ isRequestOf .describe (request 11 []) = false) ∧
    Asked (asking idle .putRows [6]) (askFrame .putRows [6]) .putRows [6] ∧ (6#8).toNat ≠ 1 ∧
    Asked (asking idle .nestAction [31, 4]) (askFrame .nestAction [31, 4]) .nestAction [31, 4] ∧ (4#8).toNat ≠ 0 ∧
    ∀ b ∈ [0#8, 1#8], Asked (asking idle .getCounters [b]) (askFrame .getCounters [b]) .getCounters [b] := by
  unfold Asked AtDispatcher; decide +kernel

/-- Log entry 1: a state where no event but those of frames and pins can take place, and one that does not run. -/
theorem witness_EveryCommandKeepsQueue :
    State.reset.phase ≠ .running ∧ idle.phase ≠ .loading ∧ (∀ f, ¬AtDispatcher idle f) ∧
    (∀ n : Nest, (idle.port n).link ≠ .training ∧ (idle.port n).service = .idle ∧ (idle.port n).deadline = .stopped ∧
      (idle.port n).gap = .stopped ∧ (idle.port n).grace = .stopped ∧ (idle.port n).backlog = [] ∧
      (idle.lotNest n).events = [] ∧ (idle.lotNest n).voids = [] ∧ (idle.lotNest n).outcomes = []) ∧
    isBadFrame (LaneIn.stopped 6).bytes = false ∧ idle.dispatcher.task = none ∧ idle.dispatcher.restart ≠ .due ∧
    idle.uplink.tx = none ∧ idle.retire.candidate = none ∧ idle.retire.progress = none ∧
    idle.notice.throttle = .stopped := by
  refine ⟨by decide, by decide, fun f h => ?_, by decide +kernel, by decide +kernel, rfl, by decide, rfl, rfl, rfl, rfl⟩
  have empty : idle.uplink.rx.head? = none := rfl
  have := h.2.2.2
  simp [empty] at this

/-- A full RESPONSE queue and one with room; codes 0 and 12, and a message of 11 bytes. -/
theorem witness_RequestWaitsAndUnknownIsBad :
    let full := { idle with uplink := { idle.uplink with response := List.replicate 8 restarted } }
    AtDispatcher (asking full .getState []) (askFrame .getState []) ∧ 8 ≤ full.uplink.response.length ∧
    (∀ msg ∈ [request 0 [], request 12 [], (request 1 []).take 11],
      AtDispatcher (withMsg idle msg) { src := host, msg := msg } ∧ byteAt msg 1 = 2#8 ∧
      (msg.length < 12 ∨ byteAt msg 10 = 0#8 ∨ 11 < (byteAt msg 10).toNat)) ∧
    idle.uplink.response.length < 8 := by
  unfold AtDispatcher; decide +kernel

theorem witness_MalformedRequestIsBad :
    Asked (asking idle .describe [0]) (askFrame .describe [0]) .describe [0] ∧
    Asked (asking idle .openLot [0, 0, 0]) (askFrame .openLot [0, 0, 0]) .openLot [0, 0, 0] ∧
    Asked (asking idle .abortStream [4]) (askFrame .abortStream [4]) .abortStream [4] ∧
    Asked (asking idle .getCounters [2]) (askFrame .getCounters [2]) .getCounters [2] ∧
    Asked (asking idle .nestAction [32, 0]) (askFrame .nestAction [32, 0]) .nestAction [32, 0] ∧
    Asked (asking idle .nestAction [31, 5]) (askFrame .nestAction [31, 5]) .nestAction [31, 5] := by
  unfold Asked AtDispatcher; decide +kernel

/-! ### The Step Intake -/

/-- `openLot` with `k` FREE entries left, in ascending order from entry 0. -/
def withFree (k : Nat) : State :=
  { openLot with table := { openLot.table with entries := Vector.ofFn (fun i : Fin 64 =>
      if i.val < k then StepEntry.free else { StepEntry.free with state := .live, pending := 1 }) } }

/-- A state and a STEP for which each reason is the first that holds. -/
def reasonCase (r : RefusalReason) : State × List Byte :=
  match r with
  | .badForm => (openLot, stepMsg 4 0 12 0 0 [])
  | .lotClosed => (idle, stepMsg 0 0 12 0 0 [])
  | .draining => (openLot.updStream 0 (fun x => { x with draining := true }), stepMsg 0 0 12 0 0 [])
  | .sequence => (openLot, stepMsg 0 0 12 0 1 [])
  | .badTarget => (openLot, stepMsg 0 1 3 17 0 [])
  | .badProfile => (openLot, stepMsg 0 0 12 17 0 [])
  | .tooLong => (openLot, stepMsg 0 0 12 0 0 (List.replicate 1025 0#8))
  | .noEntry => (withFree 0, stepMsg 0 0 12 0 0 [])
  | .noSpace => ({ openLot with payload := { openLot.payload with free := [17] } },
      stepMsg 0 0 12 0 0 (List.replicate 257 0#8))
  | .nestBusy => (openLot.updPort 12 (fun p => { p with queue := List.replicate 8 (copyOf .queued) }),
      stepMsg 0 0 12 0 0 [])

/-- The case with its STEP at the head of the receive buffer. -/
def reasonState (r : RefusalReason) : State := withMsg (reasonCase r).1 (reasonCase r).2

/-- The ten reasons are met by the cases, and the reasons before each do not hold. -/
theorem witness_FirstReasonRefusesStep_reason (r q : RefusalReason) :
    (r = q → reasonHolds (reasonState r) (reasonCase r).2 q) ∧
    (q.index < r.index → ¬reasonHolds (reasonState r) (reasonCase r).2 q) := by
  constructor
  · rintro rfl
    cases r <;> (unfold reasonHolds; first | decide +kernel | (simp only [inTarget, isFull]; decide +kernel))
  · intro h
    cases r <;> cases q <;> first
      | exact absurd h (by decide)
      | (unfold reasonHolds; first | decide +kernel | (simp only [inTarget]; decide +kernel))

theorem witness_FirstReasonRefusesStep (r : RefusalReason) :
    AtDispatcher (reasonState r) { src := host, msg := (reasonCase r).2 } ∧ byteAt (reasonCase r).2 1 = 1#8 := by
  cases r <;> (unfold AtDispatcher; decide +kernel)

/-- A STEP to nest 12, which is CLEAR, and one to nest 5, which is not; the last FREE entry and the last block
suffice, and the payload may be empty; and nest 12 CLEAR with its phone gone, and with its link DOWN. -/
def acceptedCase (i : Fin 6) : State × List Byte :=
  #v[(openLot, stepMsg 0 0 12 0 0 (List.replicate 300 0#8)), (openLot, stepMsg 2 0 5 0 40 []),
    (withFree 1, stepMsg 0 0 12 0 0 []),
    ({ openLot with payload := { openLot.payload with free := [17] } },
      stepMsg 0 0 12 0 0 (List.replicate 256 0#8)),
    (openLot.updPort 12 (fun p => { p with presence := .empty }), stepMsg 0 0 12 0 0 []),
    (openLot.updPort 12 (fun p => { p with presence := .empty, link := .down }), stepMsg 0 0 12 0 0 [])][i.val]

/-- The case with its STEP at the head of the receive buffer. -/
def acceptedState (i : Fin 6) : State := withMsg (acceptedCase i).1 (acceptedCase i).2

theorem witness_AcceptedStep_dispatched :
    ∀ i : Fin 6, AtDispatcher (acceptedState i)
        { src := host, msg := (acceptedCase i).2 } ∧ byteAt (acceptedCase i).2 1 = 1#8 := by
  unfold AtDispatcher; decide +kernel
theorem witness_AcceptedStep_noReason (r : RefusalReason) :
    ∀ i : Fin 6, ¬reasonHolds (acceptedState i) (acceptedCase i).2 r := by
  cases r <;> simp only [reasonHolds, inTarget, isFull] <;> decide +kernel
theorem witness_AcceptedStep_ports : ∀ i : Fin 6, PortsOk (acceptedState i) := by
  unfold PortsOk; decide +kernel
theorem witness_AcceptedStep_targets :
    (inTarget (acceptedState 0) (acceptedCase 0).2 12 ∧ ((acceptedState 0).lotNest 12).standing = .clear ∧
      ((acceptedState 0).port 12).link = .up ∧ ((acceptedState 0).port 12).presence = .present) ∧
    (inTarget (acceptedState 1) (acceptedCase 1).2 5 ∧ ((acceptedState 1).lotNest 5).standing ≠ .clear) ∧
    (inTarget (acceptedState 4) (acceptedCase 4).2 12 ∧ ((acceptedState 4).lotNest 12).standing = .clear ∧
      ((acceptedState 4).port 12).presence ≠ .present) ∧
    (inTarget (acceptedState 5) (acceptedCase 5).2 12 ∧ ((acceptedState 5).port 12).link ≠ .up) ∧
    (acceptedState 4).retire.candidate = none ∧ (acceptedState 4).retire.progress = none ∧
    (∀ x : StreamId, completeHead (acceptedState 4) x = none ∧ (acceptedState 4).retireList x = []) := by
  simp only [inTarget]; decide +kernel

/-! ### Requests -/

theorem witness_readingRequests :
    Asked (asking idle .describe []) (askFrame .describe []) .describe [] ∧
    Asked (asking idle .getState []) (askFrame .getState []) .getState [] ∧
    Asked (asking idle .getCounters [0]) (askFrame .getCounters [0]) .getCounters [0] ∧
    Asked (asking idle .getCounters [1]) (askFrame .getCounters [1]) .getCounters [1] ∧
    Asked (asking idle .restart []) (askFrame .restart []) .restart [] := by
  unfold Asked AtDispatcher; decide +kernel

/-- R190, chapter 11: uplink fields are little-endian, the address 02-55-47-00-00-05 in DESCRIBE and the report address
02-00-00-00-00-01 in GET_STATE among them. -/
theorem test_addresses_are_little_endian :
    let s := { idle with uplink := { idle.uplink with mac := 0x025547000005, reportAddr := host } }
    ((describeResult s).drop 8).take 6 = [0x05, 0, 0, 0x47, 0x55, 0x02] ∧
    (uplinkPart s).drop 6 = [0x01, 0, 0, 0, 0, 0x02] := by decide +kernel

/-- GET_STATE with a candidate and a head in a retire list, and with a head copy in service. -/
theorem witness_GetStateAnswers :
    let t : State := { idle.updEntry 5 (fun e => { e with state := .complete }) with
      retire := { idle.retire with lists := upd idle.retire.lists 0 (fun _ => [5]), candidate := some 5 } }
    let u := serving (.waiting 6) [copyOf .inService]
    (Asked (asking t .getState []) (askFrame .getState []) .getState [] ∧ t.retireList 0 = [5] ∧
      t.retire.candidate = some 5) ∧
    (Asked (asking u .getState []) (askFrame .getState []) .getState [] ∧
      (u.port 3).queue = [copyOf .inService] ∧ (u.port 3).service = .waiting 6) := by
  unfold Asked AtDispatcher; decide +kernel

/-- Row 63 of the Group Table is inside it and row 64 is not; count 0, an empty request, table 7, and a table with
two bytes behind it missing. -/
theorem witness_GetRowsAnswers :
    (∀ args ∈ [[1#8, 63#8, 1#8], [1#8, 63#8, 2#8], [1#8, 0#8, 0#8], [2#8, 0#8, 1#8], [2#8, 1#8, 13#8], [],
        [7#8], [6#8, 0#8]],
      Asked (asking idle .getRows args) (askFrame .getRows args) .getRows args) ∧
    Table.group.code = 1 ∧ Table.group.lastRow = 63 ∧ Table.profile.code = 2 ∧ Table.profile.firstRow = 1 ∧
    Table.profile.maxRows = 12 := by
  unfold Asked AtDispatcher; decide +kernel

/-- Images of each of the four tables, at the first and the last row. -/
theorem witness_PutRowsReplacesOneRow :
    (∀ args ∈ [[1#8, 1#8, 0#8, 0, 1, 2, 3, 4], [1#8, 1#8, 63#8, 0, 1, 2, 3, 4],
        [5#8, 1#8, 3#8, 1, 2, 0, 0, 0, 0, 1], [5#8, 1#8, 0#8, 0, 1, 0, 0, 0, 0, 1],
        [6#8, 1#8, 0#8, 0, 0, 0, 0, 2, 0, 2, 0x7F, 0], 3#8 :: 1#8 :: 63#8 :: List.replicate 65 0xFF#8],
      Asked (asking idle .putRows args) (askFrame .putRows args) .putRows args) ∧
    (∀ p : Fin 64, (idle.profile p).pins = 0) ∧
    leAt [0#8, 0, 0, 0, 0, 2, 0, 2, 0x7F, 0] 4 2 = 512 ∧
    (byteAt [3#8, 1, 2, 0, 0, 0, 0, 1] 2).getLsbD 0 = false := by
  unfold Asked AtDispatcher; decide +kernel

/-- Profile images with every byte after the defined flag 0: four slots of mode OFF. -/
def profileImage (row defined : Byte) : List Byte := row :: defined :: List.replicate 106 0#8

/-- The bytes of a slot in a Profile image, by 11.4, mode AVG, with the fields of `currentSlot` and a width. -/
def slotBytes (width : Nat) : List Byte :=
  byte 3 ++ byte 4 ++ byte width ++ byte 1 ++ leBytes 2 5243 ++ byte 12 ++ byte 0 ++ byte 0 ++ byte 0 ++
    leBytes 4 4294967276 ++ leBytes 4 1500 ++ leBytes 4 1650 ++ leBytes 4 25

/-- An image of row 63 whose slot 2 is AVG with a width, the others OFF. -/
def avgImage (width : Nat) : List Byte :=
  byte 63 ++ byte 1 ++ byte 0 ++ byte 0 ++ List.replicate 52 0#8 ++ slotBytes width ++ List.replicate 26 0#8

/-- Slot `i` of `avgImage 2`. -/
def avgSlots : Vector MeasureSlot 4 := #v[.zero, .zero, currentSlot, .zero]

theorem witness_PutRowsProfileReplacesUnpinnedRow :
    (∀ img ∈ [profileImage 63 1, profileImage 1 0, avgImage 2, avgImage 3],
      Asked (asking idle .putRows (2#8 :: 1#8 :: img)) (askFrame .putRows (2#8 :: 1#8 :: img)) .putRows
        (2#8 :: 1#8 :: img) ∧ img.length = 108) ∧
    (idle.profile 63).pins = 0 ∧
    (∀ i : Fin 4, SlotImage (avgImage 2) i avgSlots[i.val] ∧ SlotPasses avgSlots[i.val]) ∧
    ((idle.updProfile 63 (fun r => { r with pins := 1 })).profile 63).pins ≠ 0 := by
  refine ⟨by unfold Asked AtDispatcher; decide +kernel, by decide +kernel, fun i => ?_, by decide +kernel⟩
  fin_cases i <;> (unfold SlotImage SlotPasses; dsimp only; decide +kernel)

/-- A width of 3 fails whatever else the slot holds. -/
theorem witness_PutRowsProfileReplacesUnpinnedRow_fails :
    ∃ i : Fin 4, ∀ m : MeasureSlot, SlotImage (avgImage 3) i m → ¬SlotPasses m := by
  refine ⟨2, fun m h k => ?_⟩
  have hm : m.mode = .avg := by
    have h1 := h.1
    have hb : (byteAt (avgImage 3) (4 + 26 * (2 : Fin 4).val)).toNat = 3 := by decide +kernel
    rw [hb] at h1
    exact (Option.some.inj h1).symm
  have hw : m.width = 3#8 := by rw [h.2.2.1]; decide +kernel
  have hk := (k (by rw [hm]; decide)).1
  rw [hw] at hk; revert hk; decide

/-- Two Group images of which the second names row 64; a row count of 0; a request cut short. -/
theorem witness_PutRowsWritesInOrder :
    (∀ args ∈ [[1#8, 2#8, 63#8, 0, 1, 2, 3, 4, 64#8, 0, 0, 0, 0, 0], [1#8, 0#8], [1#8], [1#8, 1#8, 0#8], [], [0#8],
        [7#8, 1#8]],
      Asked (asking idle .putRows args) (askFrame .putRows args) .putRows args) ∧
    (∀ row ∈ [63#8, 64#8], [row, 0, 1, 2, 3, 4].length = Table.group.imageSize) ∧
    (∃ u, writeRow .group [63#8, 0, 1, 2, 3, 4] idle = .written u) ∧
    writeRow .group [64#8, 0, 0, 0, 0, 0] idle = .refused .badRow := by
  refine ⟨by unfold Asked AtDispatcher; decide +kernel, by decide, ⟨_, rfl⟩, rfl⟩

/-- Nest 31 with grace 1000; enabled from clear to set, from set to clear with the link UP and with it DOWN, and
unchanged. -/
theorem witness_PutRowsNestConfigMovesLink :
    let on := idle.updPort 31 (fun p => { p with link := .up, config := { p.config with enabled := true } })
    let down := idle.updPort 31 (fun p => { p with config := { p.config with enabled := true } })
    (∀ x ∈ [(idle, 1#8), (idle, 0#8), (on, 0#8), (down, 0#8)],
      Asked (asking x.1 .putRows [4, 1, 31, x.2, 0xE8, 3]) (askFrame .putRows [4, 1, 31, x.2, 0xE8, 3]) .putRows
        [4, 1, 31, x.2, 0xE8, 3]) ∧
    leAt [31#8, 1, 0xE8, 3] 2 2 = 1000 ∧ (idle.port 31).config.enabled = false ∧
    (on.port 31).config.enabled = true ∧ (on.port 31).link ≠ .down ∧ (down.port 31).link = .down := by
  unfold Asked AtDispatcher; decide +kernel

/-- OPEN_LOT and CLOSE_LOT with the lot CLOSED, OPEN with every entry FREE, and with an entry in use. -/
theorem witness_lots :
    let busy := { idle with table := { idle.table with
      entries := upd idle.table.entries 63 (fun e => { e with state := .reporting }) } }
    let busyOpen := { busy with lot := { busy.lot with isOpen := true } }
    Asked (asking idle .openLot [1, 0, 0, 0]) (askFrame .openLot [1, 0, 0, 0]) .openLot [1, 0, 0, 0] ∧
    Asked (asking openLot .openLot [1, 0, 0, 0]) (askFrame .openLot [1, 0, 0, 0]) .openLot [1, 0, 0, 0] ∧
    Asked (asking busy .openLot [1, 0, 0, 0]) (askFrame .openLot [1, 0, 0, 0]) .openLot [1, 0, 0, 0] ∧
    Asked (asking idle .closeLot []) (askFrame .closeLot []) .closeLot [] ∧
    Asked (asking openLot .closeLot []) (askFrame .closeLot []) .closeLot [] ∧
    Asked (asking busyOpen .closeLot []) (askFrame .closeLot []) .closeLot [] ∧
    idle.lot.isOpen = false ∧ openLot.lot.isOpen = true ∧ busy.lot.isOpen = false ∧
    busyOpen.lot.isOpen = true ∧ (∀ e : EntryId, (idle.entry e).state = .free) ∧
    (∀ e : EntryId, (openLot.entry e).state = .free) ∧ (busy.entry 63).state ≠ .free := by
  unfold Asked AtDispatcher; decide +kernel

/-- Events waiting at a CLEAR and at a FAILED nest. -/
theorem witness_StopFailureStallAndOutcomeTaken :
    let f (l : LotNest) : LotNest :=
      { l with events := [.stopFailure 5, .stall], outcomes := [(5, .timeout)] }
    let s := (openLot.updLotNest 12 f).updLotNest 5 f
    let t := openLot.updLotNest 12 (fun l => { l with events := [.stall] })
    s.phase = .running ∧ (s.lotNest 12).events = [.stopFailure 5, .stall] ∧ (s.lotNest 12).standing = .clear ∧
    (s.lotNest 5).events = [.stopFailure 5, .stall] ∧ (s.lotNest 5).standing ≠ .clear ∧
    (t.lotNest 12).events = [.stall] ∧ (s.lotNest 12).outcomes = [(5, .timeout)] := by decide +kernel

/-- An absence with no RETRAIN waiting, with one of another nest, and with one of this nest waiting for it alone and
for two. -/
theorem witness_AbsenceLosesClearNest :
    let s := openLot.updLotNest 12 (fun l => { l with events := [.absence, .stall] })
    let r : Req := { dest := host, tag := 9, id := 77, code := 9 }
    let other := { s with dispatcher := { s.dispatcher with task := some (.retrain r 5 1 .down) } }
    let waits := { s with dispatcher := { s.dispatcher with task := some (.retrain r 12 1 .down) } }
    let two := { s with dispatcher := { s.dispatcher with task := some (.retrain r 12 2 .down) } }
    s.phase = .running ∧ (s.lotNest 12).events = [.absence, .stall] ∧ s.dispatcher.task = none ∧
    (other.lotNest 12).events = [.absence, .stall] ∧ other.dispatcher.task = some (.retrain r 5 1 .down) ∧
    (5 : Nest) ≠ 12 ∧
    (two.lotNest 12).events = [.absence, .stall] ∧ two.dispatcher.task = some (.retrain r 12 2 .down) ∧
    (waits.lotNest 12).events = [.absence, .stall] ∧
    waits.dispatcher.task = some (.retrain r 12 1 .down) := by decide +kernel

theorem witness_AbortDrainsAndMarks :
    Asked (asking idle .abortStream [3]) (askFrame .abortStream [3]) .abortStream [3] := by
  unfold Asked AtDispatcher; decide +kernel

/-- The request of an abort. -/
def abortReq : Req := { dest := host, tag := 9, id := 77, code := 8 }
/-- An abort of stream 0 that waits for the nests of `left`. -/
def aborting (left : NestSet) : State :=
  { idle with dispatcher := { idle.dispatcher with task := some (.abort abortReq 0 0 0 0 left) } }

/-- An abort that waits for nests 3 and 31, and for nest 3 alone. -/
theorem witness_NestTakesItsPartOfAbort :
    ((aborting 0x80000008).phase = .running ∧
      (aborting 0x80000008).dispatcher.task = some (.abort abortReq 0 0 0 0 0x80000008)) ∧
    NestSet.has 0x80000008 3 = true ∧ NestSet.erase 0x80000008 3 ≠ 0#32 ∧
    ((aborting 8).phase = .running ∧ (aborting 8).dispatcher.task = some (.abort abortReq 0 0 0 0 8)) ∧
    NestSet.has 8 3 = true ∧ NestSet.erase 8 3 = 0#32 :=
  ⟨⟨rfl, rfl⟩, by decide, by decide, ⟨rfl, rfl⟩, by decide, by decide⟩

/-- The five actions, asked of nests 0 and 31; RETRAIN with the link DOWN and UP, EXCLUDE with the lot CLOSED and
OPEN. -/
theorem witness_nestActions :
    (∀ a ∈ [0#8, 1, 2, 3, 4], ∀ n ∈ [0#8, 31#8],
      Asked (asking idle .nestAction [n, a]) (askFrame .nestAction [n, a]) .nestAction [n, a] ∧
      Asked (asking openLot .nestAction [n, a]) (askFrame .nestAction [n, a]) .nestAction [n, a]) ∧
    Asked (asking openLot .nestAction [12, 4]) (askFrame .nestAction [12, 4]) .nestAction [12, 4] ∧
    (openLot.port 12).link ≠ .down ∧ (idle.port 31).link = .down ∧ idle.lot.isOpen = false ∧
    openLot.lot.isOpen = true ∧ (openLot.lotNest 12).standing ≠ .excluded ∧ (openLot.lotNest 12).voids = [] ∧
    ((openLot.updLotNest 12 (fun l => { l with voids := [.stall] })).lotNest 12).voids ≠ [] ∧
    ((openLot.updLotNest 12 (fun l => { l with standing := .excluded })).lotNest 12).standing = .excluded := by
  unfold Asked AtDispatcher; decide +kernel

/-- Nest 3 CLEAR in an open lot with a stop failure to be taken and one copy QUEUED. -/
def failing : State :=
  let s := (serving .idle [copyOf .queued]).updLotNest 3 (fun l =>
    { l with standing := .clear, events := [.stopFailure 7] })
  { s.updPort 3 (fun p => { p with stopHold := true }) with lot := { s.lot with isOpen := true } }

/-- R32: with the stop failure taken first, the second void, that of the EXCLUDE, finds the queue empty, whether the
first was taken before it or not; the copy ends VOIDED, the stop hold is clear, and no void is left to be taken. -/
theorem test_exclude_after_stop_failure_finds_the_queue_empty :
    let s := go failing (.stopFailure 3)
    let t := go (asking s .nestAction [3, 2]) .nestActionExclude
    ((t.uplink.response.map (fun x => match x with
      | .response m => byteAt m.result 8
      | .refusal _ _ => 0xFF#8)) = [0#8]) ∧
    (t.lotNest 3).outcomes = [(5, .voided)] ∧ (t.lotNest 3).voids = [] ∧ (t.port 3).stopHold = false ∧
    (t.lotNest 3).standing = .excluded := by decide +kernel

/-- 11.5, R152: a HALT in WAITING and in IDLE, the halted copy of stream 2 and step 0x0102. -/
theorem test_halted_stream_and_step :
    let result (x : Service) (q : List Copy) : List (List Byte) :=
      let s := (serving x q).updEntry 5 (fun e => { e with stream := 2, stepNumber := 0x0102 })
      (go (asking s .nestAction [3, 0]) .nestActionHalt).uplink.response.map (fun f => f.bytes.drop 14)
    result (.waiting 6) [{ copyOf .inService with stream := 2, stepNumber := 0x0102 }] =
      [[3, 0, 1, 0, 2, 2, 2, 1, 0, 0]] ∧
    result .idle [copyOf .queued] = [[3, 0, 0, 0, 2, 0, 0, 0, 0, 0]] := by decide +kernel

theorem witness_RestartStopsDispatch :
    let s := { idle with dispatcher := { idle.dispatcher with restart := .waiting } }
    let due := { idle with dispatcher := { idle.dispatcher with restart := .due } }
    s.dispatcher.restart ≠ .none ∧ exec (.powerOn 0) s = .next (go s (.powerOn 0)) ∧
    (go s (.powerOn 0)).dispatcher.restart = .none ∧ due.dispatcher.restart ≠ .none ∧
    (go due .restartEvent).dispatcher.restart = .none :=
  ⟨by decide, rfl, rfl, by decide, by decide +kernel⟩

/-- A slot HELD, PENDING and EMPTY. -/
theorem witness_ReleaseAttentionEmptiesHeldSlot :
    let held : Slot := { state := .held, code := 0x0101, superseded := false, missed := true }
    let slots := upd (upd idle.notice.slots 31 (fun _ => held)) 0 (fun _ => { held with state := .pending })
    let s := { idle with notice := { idle.notice with slots := slots } }
    (∀ args ∈ [[0#8], [30#8], [31#8], [32#8], []],
      Asked (asking s .releaseAttention args) (askFrame .releaseAttention args) .releaseAttention args) ∧
    s.notice.slots[31] = held ∧ s.notice.slots[0].state ≠ .held ∧ s.notice.slots[30].state ≠ .held := by
  unfold Asked AtDispatcher; decide +kernel

/-! ### The lanes and the service machine -/

theorem witness_LaneSignalMovesLink :
    State.reset.phase ≠ .running ∧ idle.phase = .running ∧ (idle.port 3).link = .down ∧ openLot.phase = .running ∧
    (openLot.port 12).link ≠ .down := by decide +kernel

theorem witness_LaneFramesStartTimers :
    let training := idle.updPort 3 (fun p => { p with link := .training, greet := .running 50 })
    let greeting := idle.updPort 3 (fun p =>
      { p with link := .training, greet := .armed, backlog := [.greet 3] })
    let run := (serving (.waiting 6) [copyOf .inService]).updPort 3 (fun p =>
      { p with deadline := .armed, backlog := [.run 6 [1]] })
    let halt := (serving (.halting 6) [copyOf .closing]).updPort 3 (fun p =>
      { p with grace := .armed, backlog := [.halt 6] })
    let late := (serving (.waiting 7) [copyOf .inService]).updPort 3 (fun p => { p with backlog := [.run 6 [1]] })
    ((training.port 3).link = .training ∧ (training.port 3).greet = .running 50) ∧
    ((run.port 3).backlog = [.run 6 [1]] ∧ (run.port 3).service = .waiting 6 ∧
      (run.port 3).deadline = .armed) ∧
    ((halt.port 3).backlog = [.halt 6] ∧ (halt.port 3).service = .halting 6 ∧ (halt.port 3).grace = .armed) ∧
    ((late.port 3).backlog = [.run 6 [1]] ∧ (late.port 3).service ≠ .waiting 6) ∧
    (let old (f : LaneOut) := late.updPort 3 (fun p => { p with backlog := [f] });
      ((old (.halt 5)).port 3).backlog = [.halt 5] ∧ ((old (.halt 5)).port 3).service ≠ .halting 5 ∧
      ((old (.greet 3)).port 3).backlog = [.greet 3] ∧ ((old (.greet 3)).port 3).link ≠ .training ∧
      ((old .cycle).port 3).backlog = [.cycle]) ∧
    ((greeting.port 3).backlog = [.greet 3] ∧ (greeting.port 3).link = .training ∧
      (greeting.port 3).greet = .armed) := by decide +kernel

/-- A STOPPED with its last CRC byte changed is bad; a link that is not DOWN, and one that is. -/
theorem witness_BadFrameIsCounted :
    isBadFrame [0xC3, 0x83, 0, 6, 0, 0, 0, 0] = true ∧ (openLot.port 12).link ≠ .down ∧
    (idle.port 12).link = .down ∧
    ((idle.updPort 12 (fun p => { p with link := .training })).port 12).link ≠ .up ∧ (1#8).toNat ≤ 1 ∧
    (List.replicate 256 0#8).length ≤ 256 ∧ 256 < (List.replicate 257 0#8).length ∧ 1 < (2#8).toNat ∧
    (0x83#8 ≠ 0x82#8) ∧ 0#16 ≠ crc16 (laneCovered 0x83 0 6 [] []) ∧
    0#16 ≠ crc16 (laneCovered 0x82 0 6 [0] []) ∧ 1024 < 256 * (4#8).toNat + (1#8).toNat := by
  decide +kernel

/-- The other cases of R58, each at the lengths next to its own. -/
theorem witness_BadFrameIsCounted_cases :
    (∀ k ∈ [0x02#8, 0x80, 0x87], k ∉ [0x81#8, 0x83#8, 0x84#8, 0x85#8, 0x86#8]) ∧
    (∀ k ∈ [4, 6], (List.replicate k 0#8).length ≠ 5) ∧ 1 < (byteAt [0, 0, 0, 0, 2] 4).toNat ∧ [1#8].length ≠ 0 ∧
    (∀ k ∈ [0, 2], (List.replicate k 0#8).length ≠ 1) ∧ 1 < (byteAt [2] 0).toNat ∧
    (∀ k ∈ [1, 3], (List.replicate k 0#8).length ≠ 2) ∧ (List.replicate 1024 0#8).length ≤ 1024 := by
  decide +kernel

/-- R58: a RUN is no frame of an adapter, whatever its CRC. -/
theorem test_run_is_a_bad_frame : isBadFrame (LaneOut.run 6 [1, 2]).bytes = true := by decide +kernel

theorem witness_WelcomeAndPresence :
    let training := idle.updPort 3 (fun p => { p with link := .training })
    let empty := idle.updPort 3 (fun p => { p with link := .up })
    ((training.port 3).link = .training ∧ (training.port 3).presence = .empty) ∧
    ((empty.port 3).link = .up ∧ (empty.port 3).presence = .empty) ∧
    ((openLot.port 12).link = .up ∧ (openLot.port 12).presence = .present) ∧ (1#8).toNat ≤ 1 := by decide +kernel

theorem witness_NoteAndChatReception :
    let full := { openLot with uplink := { openLot.uplink with chatter := List.replicate 16 aChatter } }
    let chatty := openLot.updPort 12 (fun p => { p with config := { p.config with chatter := true } })
    let slot (x : SlotState) := { openLot with notice := { openLot.notice with
      slots := upd openLot.notice.slots 12 (fun y => { y with state := x }) } }
    (openLot.port 12).link = .up ∧ openLot.notice.slots[12].state = .empty ∧
    (slot .pending).notice.slots[12].state = .pending ∧ (slot .held).notice.slots[12].state = .held ∧
    ((chatty.port 12).config.chatter = true ∧ chatty.uplink.chatter.length < 16) ∧
    (openLot.port 12).config.chatter = false ∧ 16 ≤ full.uplink.chatter.length ∧
    (List.replicate 256 0#8).length ≤ 256 := by decide +kernel

/-- R76: a copy QUEUED in STALLED, its void not yet taken; and each of the conditions of R70 that does not hold. -/
theorem witness_RunsAreSent_none :
    let stalled := serving .stalled [copyOf .queued]
    (stalled.port 3).service = .stalled ∧ (stalled.port 3).queue = [copyOf .queued] ∧
    ((serving (.waiting 6) [copyOf .inService]).port 3).service ≠ .idle ∧ (idle.port 3).link ≠ .up ∧
    (idle.port 3).presence ≠ .present ∧ (copyOf .closing).state ≠ .queued := by decide +kernel

theorem witness_RunsAreSent :
    let start := serving .idle [copyOf .queued]
    let held := start.updPort 3 (fun p => { p with stopHold := true })
    let gap := (serving .gap [copyOf .inService]).updPort 3 (fun p => { p with gap := .running 7 })
    ((start.port 3).service = .idle ∧ (start.port 3).queue = [copyOf .queued] ∧ (start.port 3).link = .up ∧
      (start.port 3).presence = .present ∧ (start.port 3).stopHold = false) ∧ (held.port 3).stopHold = true ∧
    ((gap.port 3).service = .gap ∧ (gap.port 3).gap = .running 7 ∧
      (gap.port 3).queue = [copyOf .inService]) := by decide +kernel

/-- The first of two runs answered, and the second, and a first answered with status 3. -/
theorem witness_answers :
    let first := serving (.waiting 6) [copyOf .inService]
    let gap := first.updEntry 5 (fun e => { e with gap := 7 })
    let second := serving (.waiting 6) [{ copyOf .inService with runs := 1 }]
    ((first.port 3).link = .up ∧ (first.port 3).service = .waiting 6 ∧
      (first.port 3).queue = [copyOf .inService] ∧ 0 + 1 < (first.entry 5).reps ∧ (first.entry 5).gap = 0 ∧
      (first.entry 5).profile = 0) ∧ (gap.entry 5).gap ≠ 0 ∧
    ((first.updEntry 5 (fun e => { e with profile := 63 })).entry 5).profile ≠ 0 ∧
    ((second.port 3).service = .waiting 6 ∧ (second.entry 5).reps ≤ 1 + 1 ∧ (second.entry 5).capture = .none) ∧
    3#8 ≠ 0#8 := by decide +kernel

/-- The last run of a copy judged by `currentSlot`, with the raw value `x` or a payload too short. -/
def judged (payload : List Byte) : State :=
  let s := (serving (.waiting 6) [{ copyOf .inService with runs := 1 }]).updEntry 5 (fun e => { e with profile := 63 })
  go (s.updProfile 63 (fun p => { p with
    defined := true, slots := upd p.slots 1 (fun _ => currentSlot) })) (.answer 3 6 0 payload)

/-- Chapter 5: the raw values 1234, 1195 and 1000 are 1560, 1510 and 1260 against a band of 1500 to 1650 with guard
25; and a field that is not there is MISSING. -/
theorem witness_AnswerEndsCopy_outcomes :
    (∀ x ∈ [(leBytes 6 (1234 * 2 ^ 32), Verdict.pass, CopyOutcome.pass),
        (leBytes 6 (1195 * 2 ^ 32), .marginal, .marginal), (leBytes 6 (1000 * 2 ^ 32), .low, .fail),
        (leBytes 5 0, .missing, .fail)],
      usedVerdicts ((judged x.1).profile 63).slots ((judged x.1).record 5 3).slots = [x.2.1] ∧
      ((judged x.1).record 5 3).outcome = some x.2.2) := by decide +kernel

theorem witness_LateFramesAndHaltEnd :
    ((serving .idle []).port 3).link = .up ∧ ((serving .idle []).port 3).service ≠ .waiting 6 ∧
    ((serving .idle []).port 3).service ≠ .halting 6 ∧
    ((serving (.halting 6) [copyOf .closing]).port 3).service = .halting 6 := by decide +kernel

theorem witness_DeadlineExpiryTimesOut :
    let s := (serving (.waiting 6) [copyOf .inService]).updPort 3 (fun p => { p with deadline := .running 500 })
    s.phase = .running ∧ (s.port 3).service = .waiting 6 ∧ (s.port 3).queue = [copyOf .inService] ∧
    (s.port 3).deadline = .running 500 ∧ (s.entry 5).policy = .stop := by decide +kernel

theorem witness_GraceExpiryAndVoid :
    let s := (serving (.halting 6) [copyOf .closing]).updPort 3 (fun p => { p with grace := .running 100 })
    let v (x : VoidCause) := s.updLotNest 3 (fun l => { l with voids := [x] })
    (s.port 3).service = .halting 6 ∧ (s.port 3).grace = .running 100 ∧
    ((v .stopFailure).lotNest 3).voids = [.stopFailure] ∧ ((v .stall).lotNest 3).voids = [.stall] := by
  decide +kernel

/-! ### Retirement and notices -/

/-- Entry 5 COMPLETE, a candidate, with one variant, RESIDENT in way 0 of set 20, and its HALTED copy on nest 3
CLOSING. -/
def candidate : State :=
  { (serving (.halting 6) [copyOf .closing]).updEntry 5 (fun e => { e with
      state := .complete, pending := 0,
      variants := [{ digest := 0, length := 0, nests := 8, cell := none, truncated := false,
                     residence := .resident 20 0 }] }) with
    coalesce := { idle.coalesce with
      sets := upd idle.coalesce.sets 20 (fun x =>
        { x with ways := #v[some { entry := 5, digest := 0, length := 0, index := 0 }, none] }) },
    retire := { idle.retire with lists := upd idle.retire.lists 0 (fun _ => [5]), candidate := some 5 } }

/-- Room for both segments exactly, and for one of them alone. -/
theorem witness_RetirementStarts :
    let full (k : Nat) := { candidate with uplink := { candidate.uplink with
      report := List.replicate k aSegment } }
    (candidate.phase = .running ∧ candidate.retire.candidate = some 5 ∧ candidate.retire.progress = none ∧
      (candidate.entry 5).state = .complete ∧ segmentCount (candidate.entry 5) = 2) ∧
    (full 30).uplink.report.length + 2 ≤ 32 ∧ 32 < (full 31).uplink.report.length + 2 ∧
    (∀ n : Nest, ((full 30).lotNest n).outcomes = [] ∧ ((full 30).lotNest n).events = []) ∧
    (5, .halted) ∈ ((candidate.updLotNest 31 (fun l => { l with outcomes := [(5, .halted)] })).lotNest 31).outcomes ∧
    .stopFailure 5 ∈ ((candidate.updLotNest 0 (fun l => { l with events := [.stopFailure 5] })).lotNest 0).events := by
  decide +kernel

/-- The retirement of entry 5, before its first and before its last segment; and with entry 6 a COMPLETE head of
stream 3, which is the next candidate. -/
theorem witness_SegmentPlacedAndRetirementEnds :
    let s := go candidate .retirementStart
    let t := go s .segmentPlaced
    let u := { t.updEntry 6 (fun e => { e with state := .complete, stream := 3 }) with
      retire := { t.retire with lists := upd t.retire.lists 3 (fun _ => [6]) } }
    (go u .segmentPlaced).retire.candidate = some 6 ∧ t.retire.candidate = none ∧ s.phase = .running ∧
    s.retire.progress.any (fun r => r.next + 1 < r.header.segmentCount) = true ∧
    t.phase = .running ∧ t.retire.progress.any (fun r => r.next + 1 = r.header.segmentCount) = true := by
  decide +kernel

/-- R43: the CLOSING copy of an entry that has been freed is a copy of no entry, and keeps the head (R40). -/
theorem test_freed_entry_leaves_no_copy :
    let t := go (go (go candidate .retirementStart) .segmentPlaced) .segmentPlaced
    (t.entry 5).state = .free ∧ (t.port 3).queue = [{ copyOf .closing with freed := true }] ∧
    (go t (.stopped 3 6)).ports[3].queue = [] := by decide +kernel

/-- LINK alone set and unmasked with PRESENCE masked; and a throttle that runs. -/
theorem witness_NoticeCarriesUnmaskedCauses :
    let s := { idle with
      notice := { idle.notice with causes := 6, links := 8 },
      mgmt := { idle.mgmt with settings := { idle.mgmt.settings with mask := 4, throttle := 500 } } }
    let t := go s .noticeBuild
    (s.phase = .running ∧ s.notice.throttle = .stopped ∧
      s.notice.causes &&& ~~~s.mgmt.settings.mask ≠ 0#7 ∧ s.uplink.notice.length < 2) ∧
    t.phase = .running ∧ t.notice.throttle = .running 500 ∧ t.notice.causes = 4#7 ∧
    t.notice.causes &&& ~~~t.mgmt.settings.mask = 0#7 ∧
    2 ≤ ({ s.uplink with notice := [aNotice, aNotice] } : Uplink).notice.length := by decide +kernel

/-! ### Judgement, coalescing, encodings, invariants -/

/-- A slot in each mode, a payload that ends at its field and one that ends a byte short. -/
theorem witness_RunsAreGathered :
    ([(Verdict.pass, (3 : Int)), (.low, 1), (.low, 0)] ≠ [] ∧
      [(Verdict.pass, (3 : Int)), (.low, 1), (.low, 0)].foldl (fun h x => holdWorse h x.1 x.2) none =
        some (.low, 1)) ∧
    (∀ x ∈ [Mode.each, .last, .avg, .min, .max, .span], x ≠ .off ∧ x ≠ .code) ∧
    1 ≤ currentSlot.width.toNat ∧ [0#8, 0, 0, 0, 0].length < currentSlot.position.toNat + 2 ∧
    currentSlot.position.toNat + currentSlot.width.toNat ≤ [0#8, 0, 0, 0, 0, 0].length ∧
    [4095 % 4096, 4095 / 4 % 4096, 4095 / 8 % 4096, 4095 / 16][(3#8).toNat]? = some 255 ∧
    (63 : Fin 64).val = 8 * (7#8).toNat + 4095 / 512 ∧ roundedAverage 7 2 ≤ 2147483647 ∧
    min (2147483647 - (-2147483648)) 2147483647 = (2147483647 : Int) := by decide

/-- Of the offers of chapter 6, the third hits way 0 and the fourth misses; and an entry with capture EACH. -/
theorem witness_DigestAndSet :
    ([1, 65535].Perm [65535, 1] ∧ (∀ w ∈ [1, 65535], w < 65536) ∧
      (List.replicate 256 0#8).length ≤ 256 ∧ setIndex 63 255 = setIndex 63 255) ∧
    ((offers 2).entry 5).capture = .coalesce ∧ findHit (offers 2) 5 [0x4F, 0x4B, 0x31, 0x00] = some 0 ∧
    ((offers 2).variantSet 148).ways[0].isSome = true ∧
    findHit (offers 3) 5 [0x4F, 0x4B, 0x31, 0x02] = none ∧
    ((offers 0).updEntry 5 (fun e => { e with capture := .each })).entry 5 ≠ (offers 0).entry 5 ∧
    DisjointNests ((offers 2).entry 5).variants ∧
    ∀ v ∈ ((offers 2).entry 5).variants, NestSet.has v.nests 4 = false := by
  unfold DisjointNests; decide +kernel

/-- 32 variants of 256 bytes make eight segments, the most a report has. -/
theorem witness_ReportPacking :
    let v : Variant := { digest := 0, length := 256, nests := 1, cell := some 0, truncated := false,
                         residence := .uncached }
    (∀ x ∈ List.replicate 32 v, x.length ≤ 256) ∧
    (variantSegments (List.replicate 32 v)).map List.length = [5, 5, 5, 5, 5, 5, 2] := by decide +kernel

theorem witness_LaneFrameReadsBack :
    (LaneIn.answer 6 0 (List.replicate 256 0#8)).fits = true ∧ (LaneIn.note 7).fits = true ∧
    (6#16 = 0#8 ++ 6#8) ∧ (List.replicate 256 0#8).length ≤ 256 := by decide +kernel

/-- 11.8: GREET of nest 31, RUN of tag 0x0102 with two bytes, and CYCLE, up to their CRC. -/
theorem test_bridge_frames :
    (LaneOut.greet 31).bytes.take 7 = [0xC3, 0x01, 0, 0, 0, 1, 31] ∧
    (LaneOut.run 0x0102 [5, 6]).bytes.take 8 = [0xC3, 0x02, 1, 2, 0, 2, 5, 6] ∧
    LaneOut.cycle.bytes.take 6 = [0xC3, 0x04, 0, 0, 0, 0] := by decide +kernel

/-- `candidate` with its retirement commanded: a state that meets the eight invariants, and a step of it. -/
def sound : State := { candidate with pending := [.retirementStart] }

theorem witness_StepKeepsPorts : PortsOk sound := by unfold PortsOk; decide +kernel
theorem witness_StepKeepsTables : TablesOk sound := by unfold TablesOk; decide +kernel
theorem witness_StepKeepsNotices : NoticeOk sound := by unfold NoticeOk; decide +kernel
theorem witness_StepKeepsQueues : QueuesOk sound :=
  ⟨by decide, by decide, by decide, by decide, by decide, fun _ h => nomatch h⟩
theorem witness_StepKeepsStores : StoresOk sound := by
  refine ⟨?_, by decide +kernel, by decide +kernel, by decide +kernel, ?_, ?_, ?_⟩
  · have held : heldBlocks sound = [] := by decide +kernel
    have free : sound.payload.free = List.finRange 512 := by decide +kernel
    rw [held, free, List.append_nil]
  · intro e h; cases h; decide +kernel
  · intro r h; cases h
  · intro h; cases h
theorem witness_CopiesOk : CopiesOk sound := by unfold CopiesOk; decide +kernel
theorem witness_PinsOk : PinsOk sound := by unfold PinsOk; decide +kernel
theorem witness_VariantsOk : VariantsOk sound := by
  have held : heldCells sound = [] := by decide +kernel
  have free : sound.coalesce.free = List.finRange 512 := by decide +kernel
  have ways : ∀ (i : Fin 256) (w : Fin 2), (sound.variantSet i).ways[w.val] =
      if i = 20 ∧ w = 0 then some { entry := 5, digest := 0, length := 0, index := 0 } else none := by decide +kernel
  have variants : ∀ e : EntryId, (sound.entry e).variants = if e = 5 then
      [{ digest := 0, length := 0, nests := 8, cell := none, truncated := false, residence := .resident 20 0 }]
      else [] := by decide +kernel
  refine ⟨?_, by decide +kernel, ?_, ?_, ?_⟩
  · rw [held, free, List.append_nil]
  · intro r h; cases h
  · intro i w x h
    rw [ways] at h
    split at h
    · next hw =>
      obtain ⟨rfl, rfl⟩ := hw
      cases h
      exact ⟨by decide +kernel, by decide +kernel, _, by rw [variants]; rfl, rfl, rfl, rfl⟩
    · cases h
  · intro e k v i w _ h r
    rw [variants] at h
    split at h
    · next he =>
      subst he
      match k with
      | 0 => cases h; cases r; exact ways 20 0
      | k + 1 => cases h
    · cases h
theorem witness_step_of_sound : ∃ t, step sound = .next t ∧ (t.entry 5).state = .reporting :=
  ⟨_, rfl, by decide +kernel⟩

theorem witness_RowImageRewriteChangesNothing :
    Table.profile.firstRow ≤ 63 ∧ 63 ≤ Table.profile.lastRow ∧
    (∀ r : Fin 64, r.val = 63 → (sound.profile r).pins = 0) ∧ codeSetInUse sound (63 / 8) = false := by
  decide +kernel

/-- Log entry 2: with no command waiting the part idles. -/
theorem test_empty_queue_idles : step State.reset = .next State.reset := rfl

end Sys2Proof.Tests
end

section
/-! The stores in agreement: what a move of blocks, the choice of a candidate and the end of a copy keep (R18, R19,
R129, R130, R133). -/

namespace Sys2Proof.Machine

theorem toList_eq_map {α : Type} {k : Nat} (v : Vector α k) :
    v.toList = (List.finRange k).map (fun i => v[i.val]) := by
  apply List.ext_getElem <;> simp

/-- The entries of a pool are those free and those held, place by place: a move between the free list and the
place of `e` alone loses and doubles none. -/
theorem pool_perm {α : Type} {k : Nat} {free free' : List α} {f g : Fin k → List α} (e : Fin k)
    (hd : ∀ d, d ≠ e → g d = f d) (he : (free' ++ g e).Perm (free ++ f e)) :
    (free' ++ (List.finRange k).flatMap g).Perm (free ++ (List.finRange k).flatMap f) := by
  have split : ∀ h : Fin k → List α,
      ((List.finRange k).flatMap h).Perm (h e ++ ((List.finRange k).erase e).flatMap h) := fun h =>
    (List.perm_cons_erase (List.mem_finRange e)).flatMap_right h
  have rest : ((List.finRange k).erase e).flatMap g = ((List.finRange k).erase e).flatMap f :=
    List.flatMap_congr fun d hm => hd d fun h =>
      (List.nodup_finRange k).not_mem_erase (h ▸ hm)
  calc (free' ++ (List.finRange k).flatMap g).Perm (free' ++ (g e ++ ((List.finRange k).erase e).flatMap g)) :=
        (split g).append_left _
    _ = (free' ++ g e) ++ ((List.finRange k).erase e).flatMap f := by rw [rest, List.append_assoc]
    _ |>.Perm ((free ++ f e) ++ ((List.finRange k).erase e).flatMap f) := he.append_right _
    _ = free ++ (f e ++ ((List.finRange k).erase e).flatMap f) := List.append_assoc ..
    _ |>.Perm (free ++ (List.finRange k).flatMap f) := ((split f).symm).append_left _

end Sys2Proof.Machine

end

section
namespace Sys2Proof.Machine

/-- `StoresOk` but for its last clause, which the choice of a candidate restores (R133). -/
structure StoresCore (s : State) : Prop where
  blocks : (s.payload.free ++ heldBlocks s).Perm (List.finRange 512)
  entries : ∀ e : EntryId, entryOk (s.entry e) = true
  counts : ∀ e : EntryId, s.payload.refs[e.val] = (s.entry e).pending
  lists : ∀ (st : StreamId) (e : EntryId),
    e ∈ s.retireList st ↔ (s.entry e).state ≠ .free ∧ (s.entry e).stream = st
  nodup : ∀ st : StreamId, (s.retireList st).Nodup
  candidate : ∀ e, s.retire.candidate = some e →
    (s.entry e).state = .complete ∧ (s.retireList (s.entry e).stream).head? = some e ∧ s.retire.progress = none
  progress : ∀ r, s.retire.progress = some r →
    (s.entry r.entry).state = .reporting ∧ (s.retireList (s.entry r.entry).stream).head? = some r.entry

/-- No list has a COMPLETE head that waits for nothing (R133). -/
def HeadsChosen (s : State) : Prop :=
  s.retire.candidate = none → s.retire.progress = none → ∀ st : StreamId, completeHead s st = none

theorem storesOk_iff (s : State) : StoresOk s ↔ StoresCore s ∧ HeadsChosen s := by
  constructor
  · rintro ⟨blocks, entries, lists, nodup, candidate, progress, heads⟩
    exact ⟨⟨blocks, fun e => (entries e).1, fun e => (entries e).2, lists, nodup, candidate, progress⟩, heads⟩
  · rintro ⟨⟨blocks, entries, counts, lists, nodup, candidate, progress⟩, heads⟩
    exact ⟨blocks, fun e => ⟨entries e, counts e⟩, lists, nodup, candidate, progress, heads⟩

theorem heldBlocks_eq (s : State) : heldBlocks s = (List.finRange 64).flatMap (fun e => (s.entry e).blocks) := by
  rw [heldBlocks, toList_eq_map, List.flatMap_map]; rfl

theorem entryOk_iff (e : StepEntry) : entryOk e = true ↔
    (e.state = .live ∧ 0 < e.pending) ∨ (e.state ≠ .live ∧ e.pending = 0 ∧ e.blocks = []) := by
  simp [entryOk, and_assoc]

theorem entryOk_of_live {e : StepEntry} (h : entryOk e = true) (hl : e.state = .live) : 0 < e.pending := by
  rcases (entryOk_iff e).mp h with h | h
  · exact h.2
  · exact absurd hl h.1

theorem entryOk_of_not_live {e : StepEntry} (h : entryOk e = true) (hl : e.state ≠ .live) :
    e.pending = 0 ∧ e.blocks = [] := by
  rcases (entryOk_iff e).mp h with h | h
  · exact absurd h.1 hl
  · exact h.2

/-- The stores are in agreement in `t` when an entry differs from that of `s` at most in fields that no clause
reads. -/
theorem StoresOk.congr {s t : State} (h : StoresOk s)
    (he : ∀ e : EntryId, (t.entry e).state = (s.entry e).state ∧ (t.entry e).stream = (s.entry e).stream ∧
      (t.entry e).pending = (s.entry e).pending ∧ (t.entry e).blocks = (s.entry e).blocks)
    (hf : t.payload.free = s.payload.free) (hr : t.payload.refs = s.payload.refs) (ht : t.retire = s.retire) :
    StoresOk t := by
  have hl : ∀ st, t.retireList st = s.retireList st := fun st => by simp only [State.retireList, ht]
  have hc : ∀ st, completeHead t st = completeHead s st := fun st => by
    unfold completeHead; simp only [hl, (he _).1]
  obtain ⟨⟨blocks, entries, counts, lists, nodup, candidate, progress⟩, heads⟩ := (storesOk_iff s).mp h
  refine (storesOk_iff t).mpr ⟨⟨?_, ?_, ?_, ?_, ?_, ?_, ?_⟩, ?_⟩
  · simpa only [heldBlocks_eq, hf, (he _).2.2.2] using blocks
  · intro e
    obtain ⟨h1, _, h3, h4⟩ := he e
    have := (entryOk_iff _).mp (entries e)
    rw [entryOk_iff, h1, h3, h4]; exact this
  · intro e; simpa only [hr, (he e).2.2.1] using counts e
  · intro st e; rw [hl, (he e).1, (he e).2.1]; exact lists st e
  · intro st; rw [hl]; exact nodup st
  · intro e hce; rw [ht] at hce ⊢; rw [hl, (he e).1, (he e).2.1]; exact candidate e hce
  · intro r hp; rw [ht] at hp; rw [hl, (he _).1, (he _).2.1]; exact progress r hp
  · intro h1 h2 st; rw [ht] at h1 h2; rw [hc]; exact heads h1 h2 st

/-- The stores are in agreement in `t` as in `s` when the blocks that hold them are the same. -/
theorem StoresOk.of_eq {s t : State} (h : StoresOk s) (ht : t.table = s.table) (hp : t.payload = s.payload)
    (hr : t.retire = s.retire) : StoresOk t :=
  h.congr (fun e => by simp only [entry_congr ht, and_self]) (by rw [hp]) (by rw [hp]) hr

/-- What the first stream in rotation order with a COMPLETE head supplies is COMPLETE and heads a list (R133). -/
theorem findSome_completeHead (s : State) {r : StreamId} {e : EntryId}
    (h : (rotationOrder r).findSome? (completeHead s) = some e) :
    ∃ st : StreamId, (s.retireList st).head? = some e ∧ (s.entry e).state = .complete := by
  obtain ⟨_, st, _, _, hst, _⟩ := List.findSome?_eq_some_iff.mp h
  exact ⟨st, (completeHead_eq_some s).mp hst⟩

theorem findSome_completeHead_none (s : State) {r : StreamId}
    (h : (rotationOrder r).findSome? (completeHead s) = none) (st : StreamId) : completeHead s st = none :=
  List.findSome?_eq_none_iff.mp h st (mem_rotationOrder r st)

/-- The choice of a candidate restores the last clause (R133). -/
theorem StoresCore.chooseCandidate {s : State} (h : StoresCore s) : StoresOk (chooseCandidate s) := by
  have he : ∀ e, (Machine.chooseCandidate s).entry e = s.entry e := entry_congr (chooseCandidate_table s)
  have hl : ∀ st, (Machine.chooseCandidate s).retireList st = s.retireList st := fun st => by
    simp only [State.retireList, chooseCandidate_retire_lists]
  have hc : ∀ st, completeHead (Machine.chooseCandidate s) st = completeHead s st := fun st => by
    unfold completeHead; simp only [hl, he]
  obtain ⟨busy, idle⟩ := candidate_chooseCandidate s
  refine (storesOk_iff _).mpr ⟨⟨?_, ?_, ?_, ?_, ?_, ?_, ?_⟩, ?_⟩
  · simpa only [heldBlocks_eq, he, chooseCandidate_payload] using h.blocks
  · intro e; rw [he]; exact h.entries e
  · intro e; simpa only [he, chooseCandidate_payload] using h.counts e
  · intro st e; rw [hl, he]; exact h.lists st e
  · intro st; rw [hl]; exact h.nodup st
  · intro e hce
    rw [he, hl, chooseCandidate_retire_progress]
    by_cases hb : s.retire.candidate ≠ none ∨ s.retire.progress ≠ none
    · exact h.candidate e (busy hb ▸ hce)
    · obtain ⟨hcn, hpn⟩ : s.retire.candidate = none ∧ s.retire.progress = none := by tauto
      rw [idle hcn hpn] at hce
      obtain ⟨st, hhead, hstate⟩ := findSome_completeHead s hce
      have hst : (s.entry e).stream = st := ((h.lists st e).mp (List.mem_of_mem_head? hhead)).2
      exact ⟨hstate, hst ▸ hhead, hpn⟩
  · intro r hp
    rw [he, hl]; exact h.progress r (by simpa using hp)
  · intro hcn hpn st
    rw [hc]
    rw [chooseCandidate_retire_progress] at hpn
    by_cases hb : s.retire.candidate = none
    · rw [idle hb hpn] at hcn
      exact findSome_completeHead_none s hcn st
    · exact absurd (busy (.inl hb) ▸ hcn) hb

end Sys2Proof.Machine

end

section
namespace Sys2Proof.Machine

/-- The end of a copy before the Retire Unit hears of it (R46 items 1, 4 and 3). -/
def finishUnchosen (n : Nest) (e : EntryId) (r : Nat) (o : CopyOutcome) (s : State) : State :=
  { finishCopy n e r o s with retire := s.retire }

@[simp] theorem finishUnchosen_table (n : Nest) (e : EntryId) (r : Nat) (o : CopyOutcome) (s : State) :
    (finishUnchosen n e r o s).table = (finishCopy n e r o s).table := rfl
@[simp] theorem finishUnchosen_payload (n : Nest) (e : EntryId) (r : Nat) (o : CopyOutcome) (s : State) :
    (finishUnchosen n e r o s).payload = (finishCopy n e r o s).payload := rfl
@[simp] theorem finishUnchosen_retire (n : Nest) (e : EntryId) (r : Nat) (o : CopyOutcome) (s : State) :
    (finishUnchosen n e r o s).retire = s.retire := rfl

theorem completeHead_congr {s t : State} (ht : ∀ e, (t.entry e).state = (s.entry e).state)
    (hl : t.retire.lists = s.retire.lists) (st : StreamId) : completeHead t st = completeHead s st := by
  unfold completeHead State.retireList
  simp only [hl, ht]

theorem Retire.eq_of {a b : Retire} (h1 : a.lists = b.lists) (h2 : a.candidate = b.candidate)
    (h3 : a.rotation = b.rotation) (h4 : a.progress = b.progress) : a = b := by
  cases a; cases b; cases h1; cases h2; cases h3; cases h4; rfl

/-- The end of the last copy of a LIVE entry has the Retire Unit choose, and the end of another leaves it alone. -/
theorem retire_finishCopy (n : Nest) (e : EntryId) (r : Nat) (o : CopyOutcome) (s : State) :
    (finishCopy n e r o s).retire =
      if (s.entry e).state = .live ∧ (s.entry e).pending ≤ 1 then (chooseCandidate (finishUnchosen n e r o s)).retire
      else s.retire := by
  obtain ⟨busy, idle⟩ := candidate_finishCopy s n e r o
  obtain ⟨busy', idle'⟩ := candidate_chooseCandidate (finishUnchosen n e r o s)
  have hret : (finishUnchosen n e r o s).retire = s.retire := rfl
  rw [hret] at busy' idle'
  have hh : completeHead (finishUnchosen n e r o s) = completeHead (finishCopy n e r o s) := by
    funext st
    exact completeHead_congr (s := finishCopy n e r o s) (t := finishUnchosen n e r o s) (fun _ => rfl) (by simp) st
  have hcand : (finishCopy n e r o s).retire.candidate =
      if (s.entry e).state = .live ∧ (s.entry e).pending ≤ 1
      then (chooseCandidate (finishUnchosen n e r o s)).retire.candidate else s.retire.candidate := by
    by_cases hb : s.retire.candidate = none ∧ s.retire.progress = none
    · rw [idle hb.1 hb.2, idle' hb.1 hb.2, hh, hb.1]
    · rw [busy (by tauto), busy' (by tauto), ite_self]
  apply Retire.eq_of
  · rw [finishCopy_retire_lists]; split <;> simp
  · rw [hcand]; split <;> rfl
  · rw [finishCopy_retire_rotation]; split <;> simp
  · rw [finishCopy_retire_progress]; split <;> simp

/-- The end of a copy keeps the counts equal and returns the blocks with the last of them (R19, R46). -/
theorem StoresCore.finishUnchosen {s : State} (h : StoresCore s) (n : Nest) (e : EntryId) (r : Nat)
    (o : CopyOutcome) : StoresCore (finishUnchosen n e r o s) := by
  set t := Machine.finishUnchosen n e r o s with ht
  have hret : t.retire = s.retire := rfl
  have hlists : ∀ st, t.retireList st = s.retireList st := fun _ => rfl
  have hentry : ∀ d, t.entry d = (finishCopy n e r o s).entry d := fun _ => rfl
  have hother : ∀ d, d ≠ e → t.entry d = s.entry d := fun d hd => by
    rw [hentry, entry_finishCopy, if_neg hd]
  have hsame := entry_finishCopy s n e e r o
  rw [if_pos rfl, h.counts e, ← hentry] at hsame
  have hrefs : ∀ d : EntryId, t.payload.refs[d.val] =
      if d = e then s.payload.refs[e.val] - 1 else s.payload.refs[d.val] := fun d => refs_finishCopy s n e d r o
  have hfree : t.payload.free = _ := free_finishCopy s n e r o
  have hok := h.entries e
  have hstate : (s.entry e).state ≠ .live → t.entry e = s.entry e := fun hl => by
    obtain ⟨hp, hb⟩ := entryOk_of_not_live hok hl
    rw [hsame]; simp only [hl, hp, and_false, if_false, Nat.zero_sub, if_true]; rw [← hp, ← hb]
  have hstream : ∀ d, (t.entry d).stream = (s.entry d).stream := fun d => by
    by_cases hd : d = e
    · rw [hd, hsame]
    · rw [hother d hd]
  have hfreeState : ∀ d, (t.entry d).state = .free ↔ (s.entry d).state = .free := fun d => by
    by_cases hd : d = e
    · rw [hd, hsame]; dsimp only; split <;> simp_all
    · rw [hother d hd]
  have hkeep : ∀ d, (s.entry d).state ≠ .live → (t.entry d).state = (s.entry d).state := fun d hl => by
    by_cases hd : d = e
    · subst hd; rw [hstate hl]
    · rw [hother d hd]
  refine ⟨?_, ?_, ?_, ?_, h.nodup, ?_, ?_⟩
  · rw [heldBlocks_eq]
    refine (pool_perm e (fun d hd => by rw [hother d hd]) ?_).trans (heldBlocks_eq s ▸ h.blocks)
    rw [hfree, hsame, h.counts e]
    by_cases hp : (s.entry e).pending ≤ 1
    · simp [hp]
    · have : ¬(s.entry e).pending - 1 = 0 := by omega
      simp [hp, this]
  · intro d
    by_cases hd : d = e
    · rw [hd]
      by_cases hl : (s.entry e).state = .live
      · rw [hsame, entryOk_iff]
        have := entryOk_of_live hok hl
        by_cases hp : (s.entry e).pending - 1 = 0
        · simp [hp, hl]
        · simp [hp, hl]; omega
      · rw [hstate hl]; exact hok
    · rw [hother d hd]; exact h.entries d
  · intro d
    rw [hrefs]
    by_cases hd : d = e
    · rw [if_pos hd, hd, hsame, h.counts e]
    · rw [if_neg hd, hother d hd]; exact h.counts d
  · intro st d; rw [hlists, hstream, ne_eq, hfreeState]; exact h.lists st d
  · intro d hd
    obtain ⟨hst, hhead, hprog⟩ := h.candidate d hd
    rw [hlists, hstream, hkeep d (by simp [hst])]; exact ⟨hst, hhead, hprog⟩
  · intro x hx
    obtain ⟨hst, hhead⟩ := h.progress x hx
    rw [hlists, hstream, hkeep _ (by simp [hst])]; exact ⟨hst, hhead⟩

/-- The end of a copy keeps the stores in agreement (R19, R46, R129, R133). -/
theorem StoresOk.finishCopy {s : State} (h : StoresOk s) (n : Nest) (e : EntryId) (r : Nat) (o : CopyOutcome) :
    StoresOk (finishCopy n e r o s) := by
  obtain ⟨core, heads⟩ := (storesOk_iff s).mp h
  have core' := core.finishUnchosen n e r o
  have hret := retire_finishCopy n e r o s
  split at hret
  · exact core'.chooseCandidate.of_eq (by simp) (by simp) hret
  · next hlast =>
    have unchosen : StoresOk (Machine.finishUnchosen n e r o s) := by
      have state : ∀ d, ((Machine.finishUnchosen n e r o s).entry d).state = (s.entry d).state := fun d => by
        rw [entry_congr (finishUnchosen_table n e r o s), entry_finishCopy]
        split
        · next hd =>
          subst hd; dsimp only
          rw [if_neg (fun hk => hlast ⟨hk.2, by omega⟩)]
        · rfl
      refine (storesOk_iff _).mpr ⟨core', fun hc hp st => ?_⟩
      exact (completeHead_congr state rfl st).trans (heads hc hp st)
    exact unchosen.of_eq rfl rfl hret

end Sys2Proof.Machine

end

section
/-! What each command can do to the Step Table, the Payload Store, the Retire Unit and the Coalescing Unit, said once. -/

namespace Sys2Proof.Machine

/-- How most commands reach the stores, the lists and the variants: not at all, but for ABORTED marks, or by the end
of copies (R46). -/
inductive EndsCopies : State → State → Prop where
  | apart {s t : State} (entries : ∀ e, t.entry e = { s.entry e with aborted := (t.entry e).aborted })
      (payload : t.payload = s.payload) (retire : t.retire = s.retire) (coalesce : t.coalesce = s.coalesce) :
      EndsCopies s t
  | ended (n : Nest) (e : EntryId) (r : Nat) (o : CopyOutcome) (s : State) : EndsCopies s (finishCopy n e r o s)
  | trans {s t u : State} : EndsCopies s t → EndsCopies t u → EndsCopies s u

namespace EndsCopies

variable {s t : State}

theorem of_eq (ht : t.table = s.table) (hp : t.payload = s.payload) (hr : t.retire = s.retire)
    (hc : t.coalesce = s.coalesce) : EndsCopies s t :=
  .apart (fun e => by rw [entry_congr ht e]) hp hr hc

theorem refl (s : State) : EndsCopies s s := of_eq rfl rfl rfl rfl

/-- A relation that holds of each of two answers holds of the one chosen. -/
theorem ite {p : Prop} [Decidable p] {u : State} (h : p → EndsCopies s t) (k : ¬p → EndsCopies s u) :
    EndsCopies s (if p then t else u) := by
  split
  · exact h ‹_›
  · exact k ‹_›

theorem finishAll (n : Nest) (o : CopyOutcome) (cs : List Copy) (s : State) :
    EndsCopies s (finishAll n o cs s) := by
  unfold Machine.finishAll
  induction cs generalizing s with
  | nil => exact refl s
  | cons c cs ih => exact (ended n c.entry c.runs o s).trans (ih _)

theorem updPort (n : Nest) (f : NestPort → NestPort) (s : State) : EndsCopies s (s.updPort n f) :=
  of_eq rfl rfl rfl rfl

theorem updLotNest (n : Nest) (f : LotNest → LotNest) (s : State) : EndsCopies s (s.updLotNest n f) :=
  of_eq rfl rfl rfl rfl

theorem voidQueued (n : Nest) (p : Copy → Bool) (s : State) : EndsCopies s (voidQueued n p s) :=
  (updPort n _ s).trans (finishAll n _ _ _)

theorem haltHead (n : Nest) (p : Copy → Bool) (s : State) : EndsCopies s (haltHead n p s) := by
  unfold Machine.haltHead
  split
  · exact refl s
  · split
    · exact (updPort n _ s).trans (ended ..)
    · exact (updPort n _ s).trans (ended ..)
    all_goals exact refl s

theorem absenceRule (n : Nest) (s : State) : EndsCopies s (absenceRule n s) :=
  (updPort n _ s).trans (finishAll n _ _ _)

theorem presenceGone (n : Nest) (s : State) : EndsCopies s (presenceGone n s) := by
  unfold Machine.presenceGone
  exact ite (fun _ => of_eq rfl rfl rfl rfl) fun _ => refl s

theorem raiseLink (n : Nest) (s : State) : EndsCopies s (raiseLink n s) := of_eq rfl rfl rfl rfl

theorem raiseCause (c : Cause) (s : State) : EndsCopies s (raiseCause c s) := of_eq rfl rfl rfl rfl

theorem deliverEvent (n : Nest) (x : StandingEvent) (s : State) : EndsCopies s (deliverEvent n x s) :=
  updLotNest n _ s

theorem linkDown (n : Nest) (s : State) : EndsCopies s (linkDown n s) := by
  unfold Machine.linkDown
  refine ite (fun _ => refl s) fun _ => ?_
  exact (updPort n _ s).trans ((presenceGone n _).trans ((absenceRule n _).trans
    ((deliverEvent n .absence _).trans (raiseLink n _))))

theorem setPresence (n : Nest) (present : Bool) (s : State) : EndsCopies s (setPresence n present s) := by
  unfold Machine.setPresence
  refine ite (fun _ => ite (fun _ => (updPort n _ s).trans (raiseCause ..)) fun _ => refl s) fun _ =>
    ite (fun _ => ?_) fun _ => refl s
  exact (presenceGone n s).trans ((absenceRule n _).trans (deliverEvent n .absence _))

theorem trainIfReady (n : Nest) (s : State) : EndsCopies s (trainIfReady n s) := by
  unfold Machine.trainIfReady
  exact ite (fun _ => of_eq rfl rfl rfl rfl) fun _ => refl s

theorem trainAll (s : State) : EndsCopies s (trainAll s) := by
  obtain ⟨ht, -, -⟩ := trainAll_spec s
  rw [ht]; exact of_eq rfl rfl rfl rfl

theorem takeVoids (n : Nest) (taken rest : List VoidCause) (s : State) : EndsCopies s (takeVoids n taken rest s) :=
  (updLotNest n _ s).trans ((voidQueued n _ _).trans (updPort n _ _))

theorem takeWaitingVoids (n : Nest) (s : State) : EndsCopies s (takeWaitingVoids n s) := by
  unfold Machine.takeWaitingVoids
  exact ite (fun _ => refl s) fun _ => takeVoids n _ _ s

theorem haltAndVoid (n : Nest) (st : StreamId) (s : State) : EndsCopies s (haltAndVoid n st s) :=
  (haltHead n _ s).trans (voidQueued n _ _)

theorem loseIfClear (n : Nest) (s : State) : EndsCopies s (loseIfClear n s) :=
  of_eq (by simp) (by simp) (by simp) (by simp)

theorem deliverStopFailure (n : Nest) (e : EntryId) (o : CopyOutcome) (s : State) :
    EndsCopies s (deliverStopFailure n e o s) :=
  of_eq (by simp) (by simp) (by simp) (by simp)

theorem countBadFrame (n : Nest) (s : State) : EndsCopies s (countBadFrame n s) :=
  of_eq (by simp) (by simp) (by simp) (by simp)

theorem respond (r : Req) (x : Status) (result : List Byte) (s : State) : EndsCopies s (respond r x result s) :=
  of_eq rfl rfl rfl rfl

theorem judgeAnswer (e : EntryId) (n : Nest) (payload : List Byte) (final : Bool) (s : State) :
    EndsCopies s (judgeAnswer e n payload final s).1 := by
  obtain ⟨t, o, h, ht, -⟩ := judgeAnswer_spec s e n payload final
  rw [h]; dsimp only; rw [ht]; exact of_eq rfl rfl rfl rfl

/-! ### Table writes -/

theorem storeNestConfig (n : Nest) (c : NestConfig) (s : State) : EndsCopies s (storeNestConfig n c s) := by
  unfold Machine.storeNestConfig
  exact ite (fun _ => (updPort n _ s).trans (linkDown n _)) fun _ =>
    ite (fun _ => (updPort n _ s).trans (trainIfReady n _)) fun _ => updPort n _ s

theorem writeRow (x : Table) (img : List Byte) (h : writeRow x img s = .written t) : EndsCopies s t := by
  cases x <;> simp only [Machine.writeRow] at h
  case group =>
    unfold writeGroupRow at h; split at h <;> cases h
    exact of_eq rfl rfl rfl rfl
  case profile =>
    unfold writeProfileRow at h; dsimp only at h
    repeat' split at h
    all_goals cases h
    all_goals exact of_eq rfl rfl rfl rfl
  case codeSet =>
    unfold writeCodeSetRow at h
    repeat' split at h
    all_goals cases h
    exact of_eq rfl rfl rfl rfl
  case nestConfig =>
    unfold writeNestConfigRow at h; dsimp only at h
    repeat' split at h
    all_goals cases h
    exact storeNestConfig _ _ s
  case allowList =>
    unfold writeAllowRow at h; dsimp only at h
    repeat' split at h
    all_goals cases h
    all_goals exact of_eq rfl rfl rfl rfl
  case settings =>
    unfold writeSettingsRow at h; dsimp only at h
    split at h <;> cases h
    exact of_eq rfl rfl rfl rfl

theorem writeRows (x : Table) (r : Req) (imgs : List (List Byte)) (done : Nat) (s : State) :
    EndsCopies s (writeRows x r done imgs s) := by
  induction imgs generalizing done s with
  | nil => exact respond ..
  | cons img rest ih =>
    unfold Machine.writeRows
    cases hw : Machine.writeRow x img s with
    | written s1 => exact (writeRow x img hw).trans (ih _ s1)
    | refused status => exact respond ..

theorem putRowsOf (x : Table) (r : Req) (args : List Byte) (s : State) : EndsCopies s (putRowsOf x r args s) := by
  unfold Machine.putRowsOf
  exact ite (fun _ => respond ..) fun _ => writeRows ..

theorem withTable {act : Table → Req → List Byte → State → State}
    (h : ∀ x r args s, EndsCopies s (act x r args s)) (r : Req) (args : List Byte) (s : State) :
    EndsCopies s (withTable act r args s) := by
  unfold Machine.withTable
  split
  · exact respond ..
  · exact respond ..
  · exact h ..

theorem withoutArgs {act : Req → State → State} (h : ∀ r s, EndsCopies s (act r s)) (r : Req) (args : List Byte)
    (s : State) : EndsCopies s (withoutArgs act r args s) := by
  unfold Machine.withoutArgs
  exact ite (fun _ => h ..) fun _ => respond ..

end EndsCopies

/-! ### The shapes that the meanings of commands have -/

theorem takesPlace_cases {b : Bool} {s u t : State} (h : takesPlace b s u = .next t) : t = s ∨ t = u := by
  unfold takesPlace at h
  split at h <;> cases h
  · exact .inr rfl
  · exact .inl rfl

theorem runRequest_cases {p : List Byte → Bool} {act : Req → List Byte → State → State} {s t : State}
    (h : runRequest p act s = .next t) : t = s ∨ ∃ f, t = act (reqOf f) (argsOf f.msg) (passMessage f s) := by
  unfold runRequest at h
  split at h <;> cases h
  · exact .inr ⟨_, rfl⟩
  · exact .inl rfl

theorem EndsCopies.of_takesPlace {b : Bool} {s u t : State} (h : takesPlace b s u = .next t)
    (hu : EndsCopies s u) : EndsCopies s t := by
  rcases takesPlace_cases h with rfl | rfl
  · exact refl t
  · exact hu

theorem EndsCopies.of_runRequest {p : List Byte → Bool} {act : Req → List Byte → State → State} {s t : State}
    (h : runRequest p act s = .next t) (ha : ∀ r args u, EndsCopies u (act r args u)) : EndsCopies s t := by
  rcases runRequest_cases h with rfl | ⟨f, rfl⟩
  · exact refl t
  · exact (of_eq (s := s) (t := passMessage f s) rfl rfl rfl rfl).trans (ha ..)

end Sys2Proof.Machine

end

section
namespace Sys2Proof.Machine

namespace EndsCopies

variable {s t : State}

/-! ### Requests -/

theorem getRowsOf (x : Table) (r : Req) (args : List Byte) (s : State) : EndsCopies s (getRowsOf x r args s) := by
  unfold Machine.getRowsOf
  refine ite (fun _ => respond ..) fun _ => ?_
  split <;> exact respond ..

theorem clearCounters (s : State) : EndsCopies s (clearCounters s) := of_eq rfl rfl rfl rfl

theorem releaseSlot (n : Nest) (r : Req) (s : State) : EndsCopies s (releaseSlot n r s) := by
  unfold Machine.releaseSlot; dsimp only
  split
  · exact (of_eq rfl rfl rfl rfl : EndsCopies s (s.updNotice _)).trans (respond ..)
  all_goals exact respond ..

theorem openLot (id : Word32) (s : State) : EndsCopies s (openLot id s) := of_eq rfl rfl rfl rfl

theorem closeLot (s : State) : EndsCopies s (closeLot s) := of_eq rfl rfl rfl rfl

theorem drainStream (st : StreamId) (s : State) : EndsCopies s (drainStream st s) := by
  unfold Machine.drainStream
  exact ite (fun _ => refl s) fun _ => of_eq rfl rfl rfl rfl

theorem markEntries (st : StreamId) (s : State) : EndsCopies s (markEntries st s) :=
  .apart (fun e => by simp [Machine.markEntries, State.entry]) rfl rfl rfl

theorem abortProgress (n : Nest) (r : Req) (st : StreamId) (marked halted voided : Nat) (left : NestSet)
    (s : State) : EndsCopies s (abortProgress n r st marked halted voided left s) := by
  unfold Machine.abortProgress; dsimp only
  exact ite (fun _ => of_eq rfl rfl rfl rfl) fun _ => of_eq rfl rfl rfl rfl

theorem answerAction (r : Req) (n : Nest) (a : NestAction) (halted : Option (StreamId × Word16)) (sent : Bool)
    (voided : Nat) (s : State) : EndsCopies s (answerAction r n a halted sent voided s) := respond ..

theorem actHalt (r : Req) (n : Nest) (s : State) : EndsCopies s (actHalt r n s) :=
  (haltHead n anyCopy s).trans (answerAction ..)

theorem sendCycle (n : Nest) (s : State) : EndsCopies s (sendCycle n s) :=
  of_eq (by simp) (by simp) (by simp) (by simp)

theorem actCycle (r : Req) (n : Nest) (s : State) : EndsCopies s (actCycle r n s) := by
  unfold Machine.actCycle; dsimp only
  exact (loseIfClear n s).trans ((takeWaitingVoids n _).trans ((voidQueued n _ _).trans
    ((haltHead n _ _).trans ((sendCycle n _).trans (answerAction ..)))))

theorem excludeStanding (n : Nest) (s : State) : EndsCopies s (excludeStanding n s) :=
  of_eq (by simp) (by simp) (by simp) (by simp)

theorem actExclude (r : Req) (n : Nest) (s : State) : EndsCopies s (actExclude r n s) := by
  have hset : EndsCopies s (setExcluded n true s) := updPort n _ s
  unfold Machine.actExclude; dsimp only
  refine ite (fun _ => ?_) fun _ => hset.trans ((haltHead n _ _).trans (answerAction ..))
  exact hset.trans ((excludeStanding n _).trans ((takeWaitingVoids n _).trans ((voidQueued n _ _).trans
    ((haltHead n _ _).trans (answerAction ..)))))

theorem actInclude (r : Req) (n : Nest) (s : State) : EndsCopies s (actInclude r n s) :=
  (updPort n _ s).trans (answerAction ..)

theorem actRetrain (r : Req) (n : Nest) (s : State) : EndsCopies s (actRetrain r n s) := by
  have hlink := (linkDown n s).trans (trainIfReady n _)
  unfold Machine.actRetrain; dsimp only
  exact ite (fun _ => hlink.trans (answerAction ..)) fun _ => hlink.trans (of_eq rfl rfl rfl rfl)

theorem of_nestAction {a : NestAction} {act : Req → Nest → State → State}
    (h : nestAction a act s = .next t) (ha : ∀ r n u, EndsCopies u (act r n u)) : EndsCopies s t := by
  refine of_runRequest h fun r args u => ?_
  split
  · exact ha ..
  · exact respond ..

/-! ### Lots -/

theorem dropEvent (n : Nest) (s : State) : EndsCopies s (dropEvent n s) := updLotNest n _ s

theorem takeStopFailure (n : Nest) (s : State) : EndsCopies s (takeStopFailure n s) :=
  of_eq (by simp) (by simp) (by simp) (by simp)

theorem retrainProgress (n : Nest) (s : State) : EndsCopies s (retrainProgress n s) := by
  unfold Machine.retrainProgress
  split
  · exact ite (fun _ => ite (fun _ => of_eq rfl rfl rfl rfl) fun _ => of_eq rfl rfl rfl rfl) fun _ => refl s
  all_goals exact refl s

/-! ### Lanes -/

theorem takeWelcome (n : Nest) (id : Word32) (present : Bool) (s : State) :
    EndsCopies s (takeWelcome n id present s) := by
  unfold Machine.takeWelcome
  split
  · exact refl s
  · exact (updPort n _ s).trans ((setPresence n _ _).trans ((updPort n _ _).trans (raiseLink n _)))
  · exact (updPort n _ s).trans (setPresence n _ _)

theorem takeNote (n : Nest) (code : Word16) (s : State) : EndsCopies s (takeNote n code s) := by
  unfold Machine.takeNote; dsimp only
  exact ite (fun _ => of_eq rfl rfl rfl rfl) fun _ => of_eq rfl rfl rfl rfl

theorem takeChat (n : Nest) (payload : List Byte) (s : State) : EndsCopies s (takeChat n payload s) := by
  unfold Machine.takeChat
  exact ite (fun _ => of_eq rfl rfl rfl rfl) fun _ => of_eq rfl rfl rfl rfl

theorem applyEnable (mask : NestSet) (s : State) : EndsCopies s (applyEnable mask s) := by
  unfold Machine.applyEnable
  induction allNests generalizing s with
  | nil => exact refl s
  | cons n l ih => exact (updPort n _ s).trans (ih _)

theorem endLoading (c : Configuration) (s : State) : EndsCopies s (endLoading c s) := by
  unfold Machine.endLoading; dsimp only
  refine trans ?_ (trainAll _)
  have enabled := applyEnable c.enable s
  generalize Machine.applyEnable c.enable s = u at enabled ⊢
  exact enabled.trans (of_eq rfl rfl rfl rfl)

/-! ### The service machine -/

theorem setHead (n : Nest) (c : Copy) (s : State) : EndsCopies s (setHead n c s) := updPort n _ s

theorem sendRun (n : Nest) (c : Copy) (s : State) : EndsCopies s (sendRun n c s) := updPort n _ s

theorem nextRun (n : Nest) (c : Copy) (s : State) : EndsCopies s (nextRun n c s) := by
  unfold Machine.nextRun; dsimp only
  exact ite (fun _ => sendRun ..) fun _ => updPort n _ s

theorem expireDeadline (n : Nest) (c : Copy) (tag : Word16) (s : State) : EndsCopies s (expireDeadline n c tag s) :=
  (updPort n _ s).trans ((ended n c.entry c.runs .timeout _).trans (deliverStopFailure ..))

theorem endHalt (n : Nest) (s : State) : EndsCopies s (endHalt n s) := updPort n _ s

theorem countLate (n : Nest) (s : State) : EndsCopies s (countLate n s) := updPort n _ s

/-! ### The uplink -/

theorem takeFrame (frame : List Byte) (s : State) : EndsCopies s (takeFrame frame s) := by
  unfold Machine.takeFrame
  split
  · exact of_eq rfl rfl rfl rfl
  · exact of_eq rfl rfl rfl rfl
  · exact ite (fun _ => of_eq rfl rfl rfl rfl) fun _ => of_eq rfl rfl rfl rfl

theorem endSending (x : Sending) (s : State) : EndsCopies s (endSending x s) := of_eq rfl rfl rfl rfl

theorem uplinkDown (s : State) : EndsCopies s (uplinkDown s) := by
  unfold Machine.uplinkDown; dsimp only
  split <;> exact of_eq rfl rfl rfl rfl

theorem refuseStep (f : RxFrame) (reason : RefusalReason) (detail : Nat) (s : State) :
    EndsCopies s (refuseStep f reason detail s) := by
  unfold Machine.refuseStep; dsimp only
  exact ite (fun _ => of_eq rfl rfl rfl rfl) fun _ => of_eq rfl rfl rfl rfl

end EndsCopies

end Sys2Proof.Machine

end

section
namespace Sys2Proof.Machine

/-- What a command can do to the Step Table, the Payload Store, the Retire Unit and the Coalescing Unit: copies end;
everything is cleared; the answer of a head in service is offered once its copy has ended; a step is accepted; a
retirement starts; or a segment is placed. -/
inductive StoresStep (s : State) : State → Prop where
  | ended {t : State} : EndsCopies s t → StoresStep s t
  | cleared {t : State} : t.table = StepTable.initial → t.payload = PayloadStore.initial →
      t.retire = Retire.initial → t.coalesce = Coalescing.initial → StoresStep s t
  | answered {n : Nest} {tag : Word16} {c : Copy} {rest : List Copy} {u : State} (payload : List Byte) :
      (s.port n).service = .waiting tag → (s.port n).queue = c :: rest → EndsCopies s u →
      StoresStep s (offerAnswer c.entry n payload u)
  | accepted {f : RxFrame} {q : StepReq} {target : NestSet} {r : Fin 64} {e : EntryId} :
      chooseEntry (passMessage f s) = some e →
      StoresStep s (finishMessage (acceptInto e q target r (passMessage f s)))
  | started {e : EntryId} : retirable s = some e → StoresStep s (startRetirement e s)
  | placed {r : Retirement} : s.retire.progress = some r → StoresStep s (placeSegment r s)

variable {s t : State}

theorem StoresStep.refl (s : State) : StoresStep s s := .ended (.refl s)

theorem execStep_stores (h : execStep s = .next t) : StoresStep s t := by
  unfold execStep at h
  split at h <;> cases h
  case h_2 => exact .refl _
  next f _ =>
    unfold takeStep
    have pass : EndsCopies s (passMessage f s) := .of_eq rfl rfl rfl rfl
    split
    · exact .ended (pass.trans ((EndsCopies.refuseStep ..).trans (.of_eq rfl rfl rfl rfl)))
    · split
      · next he => exact .accepted he
      · exact .ended (pass.trans (.of_eq rfl rfl rfl rfl))

/-- The answer of a head in service ends copies, or ends the head's own copy and is offered. -/
theorem takeAnswer_stores {n : Nest} {tag : Word16} {c : Copy} {rest : List Copy} (status : Byte)
    (payload : List Byte) (hs : (s.port n).service = .waiting tag) (hq : (s.port n).queue = c :: rest) :
    StoresStep s (takeAnswer n c status payload s) := by
  have counted : EndsCopies s (setHead n { c with runs := c.runs + 1 } (s.updPort n (fun p =>
      { p with deadline := .stopped, counters := { p.counters with answers := satInc p.counters.answers } }))) :=
    (EndsCopies.updPort n _ s).trans (.setHead ..)
  have byAnswer : ∀ u o, EndsCopies s u → StoresStep s (endByAnswer n c (c.runs + 1) o payload u) := fun u o hu =>
    .answered payload hs hq (hu.trans ((EndsCopies.updPort n _ u).trans
      ((EndsCopies.ended n c.entry (c.runs + 1) o _).trans (.deliverStopFailure ..))))
  unfold takeAnswer; dsimp only
  split
  · exact byAnswer _ _ counted
  · split
    · exact .ended (counted.trans ((EndsCopies.judgeAnswer ..).trans (.nextRun ..)))
    · exact byAnswer _ _ (counted.trans (.judgeAnswer ..))

theorem execAnswer_stores {n : Nest} {tag : Word16} {status : Byte} {payload : List Byte}
    (h : execAnswer n tag status payload s = .next t) : StoresStep s t := by
  rcases takesPlace_cases h with rfl | rfl
  · exact .refl _
  split
  · exact .ended (.countBadFrame ..)
  split
  case isFalse => exact .refl s
  unfold classifyAnswer
  split
  · next hs =>
    split
    · split
      · next c rest hq => exact takeAnswer_stores status payload hs hq
      · exact .refl s
    · exact .ended (.countLate ..)
  · split
    · exact .ended ((EndsCopies.countLate ..).trans (.endHalt ..))
    · exact .ended (.countLate ..)
  all_goals exact .ended (.countLate ..)

theorem restartEvent_stores (h : execRestartEvent s = .next t) : StoresStep s t := by
  unfold execRestartEvent at h
  obtain ⟨ht, -, -⟩ := trainAll_spec (restartState s)
  rcases takesPlace_cases h with h | h <;> rw [h]
  · exact .refl _
  exact .cleared (congrArg State.table ht) (congrArg State.payload ht) (congrArg State.retire ht)
    (congrArg State.coalesce ht)

theorem abortStream_ends (h : execAbortStream s = .next t) : EndsCopies s t := by
  refine .of_runRequest h fun r args u => ?_
  split
  · exact .respond ..
  · exact (EndsCopies.drainStream ..).trans ((EndsCopies.markEntries ..).trans (.of_eq rfl rfl rfl rfl))

theorem streamHaltAndVoid_ends {n : Nest} (h : execStreamHaltAndVoid n s = .next t) : EndsCopies s t := by
  unfold execStreamHaltAndVoid at h
  split at h
  · exact .of_takesPlace h ((EndsCopies.haltAndVoid ..).trans (.abortProgress ..))
  all_goals cases h; exact .refl s

theorem frameLeavesLane_ends {n : Nest} (h : execFrameLeavesLane n s = .next t) : EndsCopies s t := by
  refine .of_takesPlace h ?_
  split
  · exact .refl s
  · exact .updPort ..

theorem welcome_ends {n : Nest} {id : Word32} {b : Byte} (h : execWelcome n id b s = .next t) : EndsCopies s t := by
  refine .of_takesPlace h ?_
  split
  · exact .takeWelcome ..
  · exact .countBadFrame ..

theorem presence_ends {n : Nest} {b : Byte} (h : execPresence n b s = .next t) : EndsCopies s t := by
  refine .of_takesPlace h ?_
  split
  · exact .ite (fun _ => .setPresence ..) fun _ => .refl s
  · exact .countBadFrame ..

theorem requestUnknownCode_ends (h : execRequestUnknownCode s = .next t) : EndsCopies s t :=
  .of_runRequest h fun _ _ _ => .respond ..

theorem releaseAttention_ends (h : execReleaseAttention s = .next t) : EndsCopies s t := by
  refine .of_runRequest h fun r args u => ?_
  split
  · exact .releaseSlot ..
  · exact .respond ..

theorem getCounters_ends (h : execGetCounters s = .next t) : EndsCopies s t := by
  refine .of_runRequest h fun r args u => ?_
  split <;> exact .respond ..

theorem getCountersClear_ends (h : execGetCountersClear s = .next t) : EndsCopies s t := by
  refine .of_runRequest h fun r args u => ?_
  split
  · exact (EndsCopies.clearCounters u).trans (.respond ..)
  · exact .respond ..

theorem openLot_ends (h : execOpenLot s = .next t) : EndsCopies s t := by
  refine .of_runRequest h fun r args u => ?_
  split
  · exact .respond ..
  · exact .ite (fun _ => .respond ..) fun _ => .ite (fun _ => .respond ..) fun _ =>
      (EndsCopies.openLot _ u).trans (.respond ..)

theorem closeLot_ends (h : execCloseLot s = .next t) : EndsCopies s t :=
  .of_runRequest h (EndsCopies.withoutArgs fun _ u =>
    .ite (fun _ => .respond ..) fun _ => .ite (fun _ => .respond ..) fun _ =>
      (EndsCopies.closeLot u).trans (.respond ..))

theorem restart_ends (h : execRestart s = .next t) : EndsCopies s t :=
  .of_runRequest h (EndsCopies.withoutArgs fun _ _ => .of_eq rfl rfl rfl rfl)

theorem putRows_ends {x : Table} (h : putRows x s = .next t) : EndsCopies s t :=
  .of_runRequest h (EndsCopies.withTable EndsCopies.putRowsOf)

theorem laneSignalPresent_ends {n : Nest} (h : execLaneSignalPresent n s = .next t) : EndsCopies s t := by
  cases h
  exact .trans (.of_eq (s := s) (t := { s with signal := upd s.signal n (fun _ => true) }) rfl rfl rfl rfl)
    (.ite (fun _ => .trainIfReady ..) fun _ => .refl _)

theorem laneSignalLost_ends {n : Nest} (h : execLaneSignalLost n s = .next t) : EndsCopies s t := by
  cases h
  exact .trans (.of_eq (s := s) (t := { s with signal := upd s.signal n (fun _ => false) }) rfl rfl rfl rfl)
    (.ite (fun _ => .linkDown ..) fun _ => .refl _)

theorem uplinkLinkChange_ends {up : Bool} (h : execUplinkLinkChange up s = .next t) : EndsCopies s t := by
  cases h
  exact .trans (.of_eq (s := s) (t := { s with phyUp := up }) rfl rfl rfl rfl)
    (.ite (fun _ => .ite (fun _ => .of_eq rfl rfl rfl rfl) fun _ => .uplinkDown _) fun _ => .refl _)

theorem startHead_ends {n : Nest} (h : execStartHead n s = .next t) : EndsCopies s t := by
  unfold execStartHead at h
  split at h <;> cases h
  · exact (EndsCopies.setHead ..).trans (.sendRun ..)
  · exact .refl _

theorem deadlineExpiry_ends {n : Nest} (h : execDeadlineExpiry n s = .next t) : EndsCopies s t := by
  unfold execDeadlineExpiry at h
  split at h <;> cases h
  · exact .expireDeadline ..
  · exact .refl _

theorem gapExpiry_ends {n : Nest} (h : execGapExpiry n s = .next t) : EndsCopies s t := by
  unfold execGapExpiry at h
  split at h <;> cases h
  · exact (EndsCopies.updPort ..).trans (.sendRun ..)
  · exact .refl _

theorem voidInstruction_ends {n : Nest} (h : execVoidInstruction n s = .next t) : EndsCopies s t := by
  unfold execVoidInstruction at h
  split at h
  · exact .of_takesPlace h (.takeVoids ..)
  · cases h; exact .refl _

theorem outcomeDelivered_ends {n : Nest} (h : execOutcomeDelivered n s = .next t) : EndsCopies s t := by
  unfold execOutcomeDelivered at h
  split at h
  · exact .of_takesPlace h (.updLotNest ..)
  · cases h; exact .refl _

theorem uplinkFrameSent_ends (h : execUplinkFrameSent s = .next t) : EndsCopies s t := by
  unfold execUplinkFrameSent at h
  split at h
  · exact .of_takesPlace h (.endSending ..)
  · cases h; exact .refl _

theorem retirementStart_stores (h : execRetirementStart s = .next t) : StoresStep s t := by
  unfold execRetirementStart at h
  split at h <;> cases h
  · exact .started ‹_›
  · exact .refl _

theorem segmentPlaced_stores (h : execSegmentPlaced s = .next t) : StoresStep s t := by
  unfold execSegmentPlaced at h
  split at h
  · rcases takesPlace_cases h with rfl | rfl
    · exact .refl _
    · exact .placed ‹_›
  · cases h; exact .refl _

/-- Every command does to the stores what `StoresStep` says, and no more. -/
theorem exec_stores (c : Instr) (s t : State) (h : exec c s = .next t) : StoresStep s t := by
  cases c with
  | powerOn strap => cases h; exact .cleared rfl rfl rfl rfl
  | resetPin strap => cases h; exact .cleared rfl rfl rfl rfl
  | restartEvent => exact restartEvent_stores h
  | step => exact execStep_stores h
  | answer n tag status payload => exact execAnswer_stores h
  | retirementStart => exact retirementStart_stores h
  | segmentPlaced => exact segmentPlaced_stores h
  | loadingEnd flash => exact .ended (.of_takesPlace h (.endLoading ..))
  | frameReceived frame => exact .ended (.of_takesPlace h (.takeFrame ..))
  | requestWaiting => exact .ended (.of_takesPlace h (.of_eq rfl rfl rfl rfl))
  | requestUnknownCode => exact .ended (requestUnknownCode_ends h)
  | describe => exact .ended (.of_runRequest h (EndsCopies.withoutArgs fun _ _ => .respond ..))
  | putRowsGroup => exact .ended (putRows_ends h)
  | putRowsProfile => exact .ended (putRows_ends h)
  | putRowsCodeSet => exact .ended (putRows_ends h)
  | putRowsNestConfig => exact .ended (putRows_ends h)
  | putRowsAllowList => exact .ended (putRows_ends h)
  | putRowsSettings => exact .ended (putRows_ends h)
  | getRows => exact .ended (.of_runRequest h (EndsCopies.withTable EndsCopies.getRowsOf))
  | getCounters => exact .ended (getCounters_ends h)
  | getCountersClear => exact .ended (getCountersClear_ends h)
  | getState => exact .ended (.of_runRequest h (EndsCopies.withoutArgs fun _ _ => .respond ..))
  | openLot => exact .ended (openLot_ends h)
  | closeLot => exact .ended (closeLot_ends h)
  | abortStream => exact .ended (abortStream_ends h)
  | streamHaltAndVoid n => exact .ended (streamHaltAndVoid_ends h)
  | nestActionHalt => exact .ended (.of_nestAction h .actHalt)
  | nestActionCycle => exact .ended (.of_nestAction h .actCycle)
  | nestActionExclude => exact .ended (.of_nestAction h .actExclude)
  | nestActionInclude => exact .ended (.of_nestAction h .actInclude)
  | nestActionRetrain => exact .ended (.of_nestAction h .actRetrain)
  | releaseAttention => exact .ended (releaseAttention_ends h)
  | restart => exact .ended (restart_ends h)
  | uplinkTransmitStart => exact .ended (.of_takesPlace h (.of_eq rfl rfl rfl rfl))
  | uplinkFrameSent => exact .ended (uplinkFrameSent_ends h)
  | uplinkLinkChange up => exact .ended (uplinkLinkChange_ends h)
  | laneSignalPresent n => exact .ended (laneSignalPresent_ends h)
  | laneSignalLost n => exact .ended (laneSignalLost_ends h)
  | greetRepeat n => exact .ended (.of_takesPlace h (.updPort ..))
  | frameLeavesLane n => exact .ended (frameLeavesLane_ends h)
  | badFrame n bytes => exact .ended (.of_takesPlace h (.countBadFrame ..))
  | welcome n id presence => exact .ended (welcome_ends h)
  | presence n presence => exact .ended (presence_ends h)
  | stopped n tag =>
    exact .ended (.of_takesPlace h (.ite (fun _ => .endHalt ..) fun _ => .countLate ..))
  | note n code => exact .ended (.of_takesPlace h (.takeNote ..))
  | chat n payload =>
    exact .ended (.of_takesPlace h (.ite (fun _ => .countBadFrame ..) fun _ =>
      .ite (fun _ => .takeChat ..) fun _ => .refl s))
  | startHead n => exact .ended (startHead_ends h)
  | deadlineExpiry n => exact .ended (deadlineExpiry_ends h)
  | gapExpiry n => exact .ended (gapExpiry_ends h)
  | graceExpiry n => exact .ended (.of_takesPlace h ((EndsCopies.updPort n _ s).trans (.deliverEvent ..)))
  | stopFailure n => exact .ended (.of_takesPlace h ((EndsCopies.dropEvent n s).trans (.takeStopFailure ..)))
  | absence n =>
    exact .ended (.of_takesPlace h ((EndsCopies.dropEvent n s).trans ((EndsCopies.loseIfClear ..).trans
      (.retrainProgress ..))))
  | stall n =>
    exact .ended (.of_takesPlace h ((EndsCopies.dropEvent n s).trans ((EndsCopies.loseIfClear ..).trans
      (.updLotNest ..))))
  | voidInstruction n => exact .ended (voidInstruction_ends h)
  | outcomeDelivered n => exact .ended (outcomeDelivered_ends h)
  | noticeBuild => exact .ended (.of_takesPlace h (.of_eq rfl rfl rfl rfl))
  | throttleExpiry => exact .ended (.of_takesPlace h (.of_eq rfl rfl rfl rfl))
  | timeSinceStartTick => exact .ended (.of_takesPlace h (.of_eq rfl rfl rfl rfl))
  | resetPinAssertion => cases h; exact .ended (.of_eq rfl rfl rfl rfl)

end Sys2Proof.Machine

end

section
/-! Acceptance, retirement and the stores: the entry filled, the entry given back (R12, R134, R136). -/

namespace Sys2Proof.Machine

variable {s t : State}

/-! ### Copies end, and an answer is offered -/

theorem EndsCopies.storesOk (h : EndsCopies s t) (hs : StoresOk s) : StoresOk t := by
  induction h with
  | apart entries payload retire _ =>
    exact hs.congr (fun e => by rw [entries e]; exact ⟨rfl, rfl, rfl, rfl⟩) (by rw [payload]) (by rw [payload]) retire
  | ended n e r o s => exact hs.finishCopy n e r o
  | trans _ _ ih₁ ih₂ => exact ih₂ (ih₁ hs)

theorem OfferedOnly.payload {e : EntryId} {n : Nest} (h : OfferedOnly e n s t) : t.payload = s.payload := by
  rw [h.1]

theorem OfferedOnly.retire {e : EntryId} {n : Nest} (h : OfferedOnly e n s t) : t.retire = s.retire := by
  rw [h.1]

theorem StoresOk.offerAnswer (h : StoresOk s) (e : EntryId) (n : Nest) (payload : List Byte) :
    StoresOk (offerAnswer e n payload s) := by
  have offered := (offerAnswer_spec s e n payload).1
  refine h.congr (fun d => ?_) (by rw [offered.payload]) (by rw [offered.payload]) offered.retire
  obtain ⟨-, entries, -⟩ := offered
  rw [entries d]; exact ⟨rfl, rfl, rfl, rfl⟩

/-! ### Everything cleared -/

theorem entry_of_initial (h : t.table = StepTable.initial) (e : EntryId) : t.entry e = StepEntry.free := by
  simp [State.entry, h, StepTable.initial]

theorem storesOk_of_initial (ht : t.table = StepTable.initial) (hp : t.payload = PayloadStore.initial)
    (hr : t.retire = Retire.initial) : StoresOk t := by
  have lists : ∀ st, t.retireList st = [] := fun st => by simp [State.retireList, hr, Retire.initial]
  have heads : ∀ st, completeHead t st = none := fun st => by unfold completeHead; rw [lists]
  have held : heldBlocks t = [] := by
    rw [heldBlocks_eq, List.flatMap_eq_nil_iff]
    intro e _; rw [entry_of_initial ht]; rfl
  refine (storesOk_iff t).mpr ⟨⟨?_, ?_, ?_, ?_, ?_, ?_, ?_⟩, fun _ _ => heads⟩
  · rw [held, hp, List.append_nil, PayloadStore.initial]
  · intro e; rw [entry_of_initial ht]; rfl
  · intro e; rw [entry_of_initial ht]; simp [hp, PayloadStore.initial, StepEntry.free]
  · intro st e; rw [lists, entry_of_initial ht]; simp [StepEntry.free]
  · intro st; rw [lists]; exact List.nodup_nil
  · intro e he; simp [hr, Retire.initial] at he
  · intro r h; simp [hr, Retire.initial] at h

/-! ### A step accepted -/

/-- A FREE entry filled, its blocks taken from the free list or given back, and put at the tail of its stream's list
(R12, R18, R130). -/
structure EntryFilled (e : EntryId) (x : StepEntry) (s u : State) : Prop where
  entry : u.entry e = x
  others : ∀ d : EntryId, d ≠ e → u.entry d = s.entry d
  refs : ∀ d : EntryId, u.payload.refs[d.val] = if d = e then x.pending else s.payload.refs[d.val]
  pool : (u.payload.free ++ x.blocks).Perm s.payload.free
  lists : ∀ st : StreamId, u.retireList st = s.retireList st ++ (if st = x.stream then [e] else [])
  candidate : u.retire.candidate = s.retire.candidate
  progress : u.retire.progress = s.retire.progress

theorem EntryFilled.storesCore {e : EntryId} {x : StepEntry} {s u : State} (f : EntryFilled e x s u)
    (h : StoresCore s) (hfree : (s.entry e).state = .free) (hx : entryOk x = true) (hstate : x.state ≠ .free) :
    StoresCore u := by
  have hblocks : (s.entry e).blocks = [] := (entryOk_of_not_live (h.entries e) (by simp [hfree])).2
  have hnot : ∀ st, e ∉ s.retireList st := fun st hm => ((h.lists st e).mp hm).1 hfree
  have hne : ∀ d, (s.entry d).state ≠ .free → d ≠ e := fun d hd hde => hd (hde ▸ hfree)
  have head : ∀ st d, (s.retireList st).head? = some d → (u.retireList st).head? = some d := fun st d hd => by
    rw [f.lists, List.head?_append, hd]; rfl
  refine ⟨?_, ?_, ?_, ?_, ?_, ?_, ?_⟩
  · rw [heldBlocks_eq]
    refine (pool_perm e (fun d hd => by rw [f.others d hd]) ?_).trans (heldBlocks_eq s ▸ h.blocks)
    rw [f.entry, hblocks, List.append_nil]; exact f.pool
  · intro d
    by_cases hd : d = e
    · rw [hd, f.entry]; exact hx
    · rw [f.others d hd]; exact h.entries d
  · intro d
    rw [f.refs]
    by_cases hd : d = e
    · rw [if_pos hd, hd, f.entry]
    · rw [if_neg hd, f.others d hd]; exact h.counts d
  · intro st d
    rw [f.lists, List.mem_append, h.lists]
    by_cases hd : d = e
    · subst hd
      rw [f.entry]
      by_cases hst : st = x.stream <;> simp [hst, hstate, hfree, eq_comm]
    · rw [f.others d hd]
      by_cases hst : st = x.stream <;> simp [hst, hd]
  · intro st
    rw [f.lists]
    split
    · exact List.nodup_append'.mpr ⟨h.nodup st, List.nodup_singleton e, by simpa using hnot st⟩
    · simpa using h.nodup st
  · intro d hd
    obtain ⟨h1, h2, h3⟩ := h.candidate d (f.candidate ▸ hd)
    rw [f.others d (hne d (by simp [h1])), f.progress]
    exact ⟨h1, head _ _ h2, h3⟩
  · intro r hr
    obtain ⟨h1, h2⟩ := h.progress r (f.progress ▸ hr)
    rw [f.others _ (hne _ (by simp [h1]))]
    exact ⟨h1, head _ _ h2⟩

/-- A LIVE entry at the tail of its list makes no head COMPLETE. -/
theorem EntryFilled.headsChosen {e : EntryId} {x : StepEntry} {s u : State} (f : EntryFilled e x s u)
    (h : HeadsChosen s) (hlive : x.state = .live) : HeadsChosen u := by
  intro hc hp st
  have hs := h (f.candidate ▸ hc) (f.progress ▸ hp) st
  rw [Option.eq_none_iff_forall_ne_some] at hs ⊢
  intro d hd
  obtain ⟨hhead, hstate⟩ := (completeHead_eq_some u).mp hd
  have hde : d ≠ e := by
    rintro rfl; rw [f.entry, hlive] at hstate; cases hstate
  rw [f.others d hde] at hstate
  refine hs d ((completeHead_eq_some s).mpr ⟨?_, hstate⟩)
  rw [f.lists, List.head?_append] at hhead
  cases hl : (s.retireList st).head? with
  | some a => rw [hl] at hhead; exact hhead
  | none =>
    rw [hl] at hhead
    split at hhead
    · exact absurd (Option.some.inj hhead).symm hde
    · cases hhead

end Sys2Proof.Machine

end

section
namespace Sys2Proof.Machine

variable {s t : State}

/-! ### The fan-out (R41) -/

/-- A copy as the fan-out appends it (R40, R41). -/
def queuedCopy (e : EntryId) (st : StreamId) (number : Word16) : Copy :=
  { entry := e, stream := st, stepNumber := number, state := .queued, runs := 0, freed := false }

/-- The record of a SKIPPED copy (R42, R106). -/
def skippedRecord (s : State) (e : EntryId) : Record :=
  { Record.cleared with outcome := some .skipped, slots := unjudgedSlots s e }

/-- What the fan-out of entry `e` to the nests of `l` changes: a QUEUED copy and a cleared record where the nest is
CLEAR, a SKIPPED record elsewhere (R41, R42). -/
structure FannedOut (e : EntryId) (st : StreamId) (number : Word16) (l : List Nest) (s t : State) : Prop where
  frame : t = { s with ports := t.ports, judge := { s.judge with records := t.judge.records } }
  port : ∀ n : Nest, t.port n = if n ∈ l ∧ isClear s n = true
    then { s.port n with queue := (s.port n).queue ++ [queuedCopy e st number] } else s.port n
  record : ∀ (d : EntryId) (n : Nest), t.record d n = if d = e ∧ n ∈ l
    then (if isClear s n = true then Record.cleared else skippedRecord s e) else s.record d n

theorem FannedOut.nil (e : EntryId) (st : StreamId) (number : Word16) (s : State) : FannedOut e st number [] s s :=
  ⟨rfl, by simp, by simp⟩

theorem fannedOut_one (e : EntryId) (st : StreamId) (number : Word16) (n : Nest) (s : State) :
    FannedOut e st number [n] s (fanOutNest e st number s n) := by
  unfold fanOutNest
  by_cases hc : isClear s n = true
  · rw [if_pos hc]
    refine ⟨rfl, fun m => ?_, fun d m => ?_⟩
    · refine (port_updPort s n m _).trans ?_
      by_cases hm : m = n
      · subst hm; simp [hc, queuedCopy]
      · simp [hm]
    · rw [record_updRecord, record_updPort]
      by_cases hm : m = n
      · subst hm; simp [hc]
      · simp [hm]
  · rw [if_neg hc]
    refine ⟨rfl, fun m => ?_, fun d m => ?_⟩
    · have : ¬(m ∈ [n] ∧ isClear s m = true) := by
        rintro ⟨hm, hmc⟩; exact hc (List.mem_singleton.mp hm ▸ hmc)
      rw [if_neg this]; rfl
    · rw [record_updRecord]
      by_cases hm : m = n
      · subst hm; simp [hc, skippedRecord]
      · simp [hm]

theorem FannedOut.cons {e : EntryId} {st : StreamId} {number : Word16} {n : Nest} {l : List Nest} {u : State}
    (hn : n ∉ l) (h : FannedOut e st number [n] s t) (k : FannedOut e st number l t u) :
    FannedOut e st number (n :: l) s u := by
  have clear : ∀ m, isClear t m = isClear s m := fun m => by rw [h.frame]; rfl
  have skipped : skippedRecord t e = skippedRecord s e := by rw [h.frame]; rfl
  refine ⟨?_, fun m => ?_, fun d m => ?_⟩
  · rw [k.frame, h.frame]
  · rw [k.port, h.port, clear]
    by_cases hm : m = n
    · subst hm; simp [hn]
    · simp [hm]
  · rw [k.record, h.record, clear, skipped]
    by_cases hm : m = n
    · subst hm; simp [hn]
    · simp [hm]

theorem fanOutList_spec (e : EntryId) (st : StreamId) (number : Word16) (l : List Nest) (hl : l.Nodup) (s : State) :
    FannedOut e st number l s (l.foldl (fanOutNest e st number) s) := by
  induction l generalizing s with
  | nil => exact .nil e st number s
  | cons n l ih =>
    obtain ⟨hn, hl⟩ := List.nodup_cons.mp hl
    exact .cons hn (fannedOut_one e st number n s) (ih hl _)

theorem fanOut_spec (e : EntryId) (st : StreamId) (number : Word16) (target : NestSet) (s : State) :
    FannedOut e st number (NestSet.toList target) s (fanOut e st number target s) :=
  fanOutList_spec e st number _ (NestSet.nodup_toList target) s

/-! ### Acceptance (R12), before the ABSENT copies of R45 end -/

/-- The target nests of standing CLEAR, in ascending order (R12). -/
def clearTargets (target : NestSet) (s : State) : List Nest := (NestSet.toList target).filter (isClear s)

/-- The entry as acceptance fills it, with `c` copies (R11, R12). -/
def filledEntry (q : StepReq) (target : NestSet) (r : Fin 64) (c : Nat) (s : State) : StepEntry :=
  { state := .live, stream := q.stream, stepNumber := q.number, target := target, profile := r,
    capture := q.capture, policy := q.policy, reps := clampReps q.reps, deadline := clampDeadline q.deadline,
    gap := q.gap, payloadLength := q.length, blocks := s.payload.free.take (blocksNeeded q.length), pending := c,
    clamped := clampReps q.reps ≠ q.reps || clampDeadline q.deadline ≠ q.deadline, aborted := false, variants := [] }

/-- The acceptance of a step up to its fan-out, its pin, its place in the retire list, the next number and the count
(R12 but for its last item). -/
def enlist (e : EntryId) (q : StepReq) (target : NestSet) (r : Fin 64) (s : State) : State :=
  let s1 := fanOut e q.stream q.number target (fillEntry e q target r (clearTargets target s).length s)
  let s2 := if r = 0 then s1 else s1.updProfile r (fun p => { p with pins := p.pins + 1 })
  let s3 := s2.updRetire (fun x => { x with lists := upd x.lists q.stream (fun l => l ++ [e]) })
  let s4 := s3.updStream q.stream (fun x => { x with expected := x.expected + 1 })
  s4.updCounters (fun c => { c with stepsAccepted := satInc c.stepsAccepted })

/-- Acceptance whole, but for the copies that end ABSENT (R12, R20). -/
def accepted (e : EntryId) (q : StepReq) (target : NestSet) (r : Fin 64) (s : State) : State :=
  let u := enlist e q target r s
  testPayloadLow s.payload.free.length (if (clearTargets target s).length = 0 then completeEmpty e u else u)

theorem acceptInto_eq (e : EntryId) (q : StepReq) (target : NestSet) (r : Fin 64) (s : State) :
    acceptInto e q target r s = ((clearTargets target s).filter (fun n => !serves s n)).foldl
      (fun t n => absenceRule n t) (accepted e q target r s) := rfl

/-- What `enlist` leaves, block by block. -/
structure Enlisted (e : EntryId) (q : StepReq) (target : NestSet) (r : Fin 64) (s u : State) : Prop where
  frame : u = { s with
    table := (fillEntry e q target r (clearTargets target s).length s).table,
    payload := (fillEntry e q target r (clearTargets target s).length s).payload,
    ports := u.ports,
    judge := { s.judge with
      profiles := if r = 0 then s.judge.profiles else upd s.judge.profiles r (fun p => { p with pins := p.pins + 1 }),
      records := u.judge.records },
    retire := { s.retire with lists := upd s.retire.lists q.stream (fun l => l ++ [e]) },
    streams := upd s.streams q.stream (fun x => { x with expected := x.expected + 1 }),
    mgmt := { s.mgmt with counters := { s.mgmt.counters with stepsAccepted := satInc s.mgmt.counters.stepsAccepted } } }
  port : ∀ n : Nest, u.port n = if n ∈ clearTargets target s
    then { s.port n with queue := (s.port n).queue ++ [queuedCopy e q.stream q.number] } else s.port n
  record : ∀ (d : EntryId) (n : Nest), u.record d n = if d = e ∧ n ∈ NestSet.toList target
    then (if isClear s n = true then Record.cleared
      else skippedRecord (fillEntry e q target r (clearTargets target s).length s) e) else s.record d n

theorem enlist_spec (e : EntryId) (q : StepReq) (target : NestSet) (r : Fin 64) (s : State) :
    Enlisted e q target r s (enlist e q target r s) := by
  have fan := fanOut_spec e q.stream q.number target (fillEntry e q target r (clearTargets target s).length s)
  have hports : (enlist e q target r s).ports = (fanOut e q.stream q.number target
      (fillEntry e q target r (clearTargets target s).length s)).ports := by
    unfold enlist; dsimp only; split <;> rfl
  have hrecords : (enlist e q target r s).judge.records = (fanOut e q.stream q.number target
      (fillEntry e q target r (clearTargets target s).length s)).judge.records := by
    unfold enlist; dsimp only; split <;> rfl
  have clear : ∀ n, isClear (fillEntry e q target r (clearTargets target s).length s) n = isClear s n := fun _ => rfl
  refine ⟨?_, fun n => ?_, fun d n => ?_⟩
  · rw [hports, hrecords]
    unfold enlist; dsimp only
    generalize fanOut e q.stream q.number target _ = v at fan ⊢
    rw [fan.frame]
    split <;> rfl
  · rw [port_congr hports, fan.port]
    simp only [clearTargets, List.mem_filter]; rfl
  · have hr : (enlist e q target r s).record d n = _ := congrArg (fun v => (v[d.val])[n.val]) hrecords
    rw [hr]; refine (fan.record d n).trans ?_
    simp only [clear]; rfl

end Sys2Proof.Machine

end

section
namespace Sys2Proof.Machine

variable {s t u : State} {e : EntryId} {q : StepReq} {target : NestSet} {r : Fin 64}

theorem entry_fillEntry (c : Nat) (d : EntryId) :
    (fillEntry e q target r c s).entry d = if d = e then filledEntry q target r c s else s.entry d :=
  upd_get s.table.entries e d _

theorem Enlisted.table (h : Enlisted e q target r s u) :
    u.table = (fillEntry e q target r (clearTargets target s).length s).table := by rw [h.frame]

theorem Enlisted.payload (h : Enlisted e q target r s u) :
    u.payload = (fillEntry e q target r (clearTargets target s).length s).payload := by rw [h.frame]

theorem Enlisted.retire (h : Enlisted e q target r s u) :
    u.retire = { s.retire with lists := upd s.retire.lists q.stream (fun l => l ++ [e]) } := by rw [h.frame]

theorem Enlisted.coalesce (h : Enlisted e q target r s u) : u.coalesce = s.coalesce := by rw [h.frame]

theorem Enlisted.entry (h : Enlisted e q target r s u) (d : EntryId) :
    u.entry d = if d = e then filledEntry q target r (clearTargets target s).length s else s.entry d :=
  (entry_congr h.table d).trans (entry_fillEntry _ d)

theorem Enlisted.refs (h : Enlisted e q target r s u) (d : EntryId) :
    u.payload.refs[d.val] = if d = e then (clearTargets target s).length else s.payload.refs[d.val] := by
  simp only [h.payload]; exact upd_get s.payload.refs e d _

theorem Enlisted.free (h : Enlisted e q target r s u) :
    u.payload.free = s.payload.free.drop (blocksNeeded q.length) := by rw [h.payload]; rfl

theorem Enlisted.retireList (h : Enlisted e q target r s u) (st : StreamId) :
    u.retireList st = s.retireList st ++ (if st = q.stream then [e] else []) := by
  have : u.retireList st = (upd s.retire.lists q.stream (fun l => l ++ [e]))[st.val] := by
    simp only [State.retireList, h.retire]
  rw [this, upd_get]
  split
  · next hst => subst hst; rfl
  · exact (List.append_nil _).symm

theorem Enlisted.entryFilled (h : Enlisted e q target r s u) :
    EntryFilled e (filledEntry q target r (clearTargets target s).length s) s u where
  entry := by rw [h.entry, if_pos rfl]
  others d hd := by rw [h.entry, if_neg hd]
  refs := h.refs
  pool := by
    rw [h.free]
    exact List.perm_append_comm.trans (by rw [filledEntry, List.take_append_drop])
  lists := h.retireList
  candidate := by rw [h.retire]
  progress := by rw [h.retire]

/-- A step with no copy, COMPLETE at once and its blocks given back, before the Retire Unit hears of it (R12, R19). -/
def completed (e : EntryId) (s : State) : State :=
  (freeBlocks e s).updEntry e (fun x => { x with state := .complete })

theorem entry_completed (e d : EntryId) (s : State) : (completed e s).entry d =
    if d = e then { s.entry e with state := .complete, blocks := [] } else s.entry d := by
  have freed : ∀ x, (freeBlocks e s).entry x = if x = e then { s.entry e with blocks := [] } else s.entry x :=
    fun x => entry_updEntry s e x _
  rw [completed, entry_updEntry, freed, freed, if_pos rfl]
  split <;> rfl

theorem Enlisted.completedFilled (h : Enlisted e q target r s u) :
    EntryFilled e { filledEntry q target r (clearTargets target s).length s with state := .complete, blocks := [] } s
      (completed e u) where
  entry := by rw [entry_completed, if_pos rfl, h.entry, if_pos rfl]
  others d hd := by rw [entry_completed, if_neg hd, h.entry, if_neg hd]
  refs := h.refs
  pool := by
    show ((u.payload.free ++ (u.entry e).blocks) ++ []).Perm _
    rw [List.append_nil, h.free, h.entry, if_pos rfl]
    exact List.perm_append_comm.trans (by rw [filledEntry, List.take_append_drop])
  lists := h.retireList
  candidate := by rw [← h.entryFilled.candidate]; rfl
  progress := by rw [← h.entryFilled.progress]; rfl

theorem chooseEntry_free (h : chooseEntry s = some e) : (s.entry e).state = .free := by
  simpa using List.find?_some h

theorem EndsCopies.testPayloadLow (before : Nat) (s : State) : EndsCopies s (testPayloadLow before s) := by
  unfold Machine.testPayloadLow; dsimp only
  exact .ite (fun _ => .raiseCause ..) fun _ => .refl s

theorem EndsCopies.absences (l : List Nest) (s : State) :
    EndsCopies s (l.foldl (fun t n => Machine.absenceRule n t) s) := by
  induction l generalizing s with
  | nil => exact .refl s
  | cons n l ih => exact (EndsCopies.absenceRule n s).trans (ih _)

/-- Acceptance keeps the stores in agreement (R12, R18, R19, R130, R133). -/
theorem StoresOk.acceptInto (h : StoresOk s) (hfree : (s.entry e).state = .free) :
    StoresOk (acceptInto e q target r s) := by
  obtain ⟨core, heads⟩ := (storesOk_iff s).mp h
  have enlisted := enlist_spec e q target r s
  rw [acceptInto_eq]
  refine (EndsCopies.absences _ _).storesOk ((EndsCopies.testPayloadLow _ _).storesOk ?_)
  split
  · next hc =>
    exact (enlisted.completedFilled.storesCore core hfree (by simp [entryOk_iff, filledEntry, hc])
      (by simp)).chooseCandidate
  · next hc =>
    exact (storesOk_iff _).mpr ⟨enlisted.entryFilled.storesCore core hfree
      ((entryOk_iff _).mpr (.inl ⟨rfl, Nat.pos_of_ne_zero hc⟩)) (by simp [filledEntry]),
      enlisted.entryFilled.headsChosen heads rfl⟩

/-! ### Retirement -/

theorem retireList_startRetirement (e : EntryId) (s : State) (st : StreamId) :
    (startRetirement e s).retireList st = s.retireList st := rfl

theorem entry_startRetirement (e : EntryId) (s : State) (d : EntryId) :
    (startRetirement e s).entry d = if d = e then { s.entry e with state := .reporting } else s.entry d :=
  entry_updEntry s e d _

/-- A retirement that begins keeps the stores in agreement (R133, R134). -/
theorem StoresOk.startRetirement (h : StoresOk s) (hcand : s.retire.candidate = some e) :
    StoresOk (startRetirement e s) := by
  obtain ⟨core, -⟩ := (storesOk_iff s).mp h
  obtain ⟨hstate, hhead, hprog⟩ := core.candidate e hcand
  have entry := entry_startRetirement e s
  obtain ⟨hp, hb⟩ := entryOk_of_not_live (core.entries e) (by simp [hstate])
  have stream : ∀ d, ((Machine.startRetirement e s).entry d).stream = (s.entry d).stream := fun d => by
    rw [entry]; split
    · next hd => rw [hd]
    · rfl
  have pending : ∀ d, ((Machine.startRetirement e s).entry d).pending = (s.entry d).pending := fun d => by
    rw [entry]; split
    · next hd => rw [hd]
    · rfl
  refine (storesOk_iff _).mpr ⟨⟨?_, ?_, ?_, ?_, ?_, ?_, ?_⟩, ?_⟩
  · rw [heldBlocks_eq]
    refine (pool_perm e (fun d hd => by rw [entry, if_neg hd]) ?_).trans (heldBlocks_eq s ▸ core.blocks)
    rw [entry, if_pos rfl]; exact .refl _
  · intro d
    rw [entry]; split
    · rw [entryOk_iff]; exact .inr ⟨by simp, hp, hb⟩
    · exact core.entries d
  · intro d; rw [pending]; exact core.counts d
  · intro st d
    rw [retireList_startRetirement, core.lists, stream, entry]
    split
    · next hd => subst hd; simp [hstate]
    · rfl
  · intro st; exact core.nodup st
  · intro d hd; cases hd
  · intro r hr
    cases hr
    refine ⟨by rw [entry, if_pos rfl], ?_⟩
    rw [retireList_startRetirement, stream]; exact hhead
  · intro _ hnone; cases hnone

end Sys2Proof.Machine

end

section
namespace Sys2Proof.Machine

variable {s t u : State} {e : EntryId}

/-- The entry of a retirement given back, its stream's state still as it was (R136). -/
def givenBack (e : EntryId) (s : State) : State :=
  let x := s.entry e
  let s1 := if x.profile = 0 then s else s.updProfile x.profile (fun p => { p with pins := p.pins - 1 })
  let s2 := s1.updRetire (fun r => { r with lists := upd r.lists x.stream List.tail })
  let s3 := releaseCopies e (s2.updEntry e (fun y =>
    { y with state := .free, variants := [], clamped := false, aborted := false }))
  let s4 := s3.updCounters (fun c => { c with reports := satInc c.reports })
  s4.updRetire (fun r => { r with rotation := x.stream + 1, progress := none })

/-- The end of a retirement before the Retire Unit chooses again (R136 but for its last item). -/
def retired (e : EntryId) (s : State) : State := reopenIfEmpty (s.entry e).stream (givenBack e s)

theorem endRetirement_eq (e : EntryId) (s : State) : endRetirement e s = chooseCandidate (retired e s) := rfl

theorem givenBack_eq (e : EntryId) (s : State) : givenBack e s = { s with
    judge := { s.judge with
      profiles := (if (s.entry e).profile = 0 then s.judge.profiles
        else upd s.judge.profiles (s.entry e).profile (fun p => { p with pins := p.pins - 1 })) },
    retire := { s.retire with
      lists := upd s.retire.lists (s.entry e).stream List.tail, rotation := (s.entry e).stream + 1, progress := none },
    table := { s.table with entries := upd s.table.entries e (fun y =>
      { y with state := .free, variants := [], clamped := false, aborted := false }) },
    ports := (releaseCopies e s).ports,
    mgmt := { s.mgmt with counters := { s.mgmt.counters with reports := satInc s.mgmt.counters.reports } } } := by
  simp only [givenBack, State.updRetire, State.updCounters, releaseCopies, State.updEntry]
  split <;> rfl

theorem reopenIfEmpty_eq (st : StreamId) (s : State) : reopenIfEmpty st s = { s with
    streams := (if s.retireList st = [] then upd s.streams st (fun x => { x with draining := false })
      else s.streams) } := by
  unfold reopenIfEmpty; split <;> rfl

theorem retireList_givenBack (e : EntryId) (s : State) (st : StreamId) : (givenBack e s).retireList st =
    if st = (s.entry e).stream then (s.retireList st).tail else s.retireList st := by
  rw [givenBack_eq]
  refine (upd_get s.retire.lists _ st _).trans ?_
  split
  · next h => subst h; rfl
  · rfl

theorem retired_eq (e : EntryId) (s : State) : retired e s = { givenBack e s with
    streams := (if (s.retireList (s.entry e).stream).tail = []
      then upd s.streams (s.entry e).stream (fun x => { x with draining := false }) else s.streams) } := by
  rw [retired, reopenIfEmpty_eq, retireList_givenBack, if_pos rfl, givenBack_eq]

theorem retired_payload (e : EntryId) (s : State) : (retired e s).payload = s.payload := by
  rw [retired_eq, givenBack_eq]

theorem retired_coalesce (e : EntryId) (s : State) : (retired e s).coalesce = s.coalesce := by
  rw [retired_eq, givenBack_eq]

theorem retired_candidate (e : EntryId) (s : State) : (retired e s).retire.candidate = s.retire.candidate := by
  rw [retired_eq, givenBack_eq]

theorem retired_progress (e : EntryId) (s : State) : (retired e s).retire.progress = none := by
  rw [retired_eq, givenBack_eq]

theorem retired_rotation (e : EntryId) (s : State) : (retired e s).retire.rotation = (s.entry e).stream + 1 := by
  rw [retired_eq, givenBack_eq]

theorem entry_retired (e : EntryId) (s : State) (d : EntryId) : (retired e s).entry d =
    if d = e then { s.entry e with state := .free, variants := [], clamped := false, aborted := false }
    else s.entry d := by
  rw [retired_eq, givenBack_eq]; exact entry_updEntry s e d _

theorem retireList_retired (e : EntryId) (s : State) (st : StreamId) : (retired e s).retireList st =
    if st = (s.entry e).stream then (s.retireList st).tail else s.retireList st := by
  rw [retired_eq]; exact retireList_givenBack e s st

/-- The end of a retirement keeps the stores in agreement (R133, R136). -/
theorem StoresOk.endRetirement (h : StoresOk s) {r : Retirement} (hr : s.retire.progress = some r) :
    StoresOk (endRetirement r.entry s) := by
  obtain ⟨core, -⟩ := (storesOk_iff s).mp h
  obtain ⟨hstate, hhead⟩ := core.progress r hr
  obtain ⟨hp, hb⟩ := entryOk_of_not_live (core.entries r.entry) (by simp [hstate])
  have hcand : s.retire.candidate = none := by
    by_contra hne
    obtain ⟨d, hd⟩ := Option.ne_none_iff_exists'.mp hne
    obtain ⟨-, -, hnone⟩ := core.candidate d hd
    rw [hr] at hnone; cases hnone
  have entry := entry_retired r.entry s
  rw [endRetirement_eq]
  refine StoresCore.chooseCandidate ⟨?_, ?_, ?_, ?_, ?_, ?_, ?_⟩
  · rw [heldBlocks_eq, retired_payload]
    refine (pool_perm r.entry (fun d hd => by rw [entry, if_neg hd]) ?_).trans (heldBlocks_eq s ▸ core.blocks)
    rw [entry, if_pos rfl]
  · intro d
    rw [entry]; split
    · rw [entryOk_iff]; exact .inr ⟨by simp, hp, hb⟩
    · exact core.entries d
  · intro d
    rw [entry, retired_payload]; split
    · next hd => rw [hd]; exact core.counts r.entry
    · exact core.counts d
  · intro st d
    have hmem := core.lists st d
    rw [retireList_retired, entry]
    by_cases hst : st = (s.entry r.entry).stream
    · obtain ⟨rest, hlist⟩ := List.head?_eq_some_iff.mp hhead
      have hnd := core.nodup (s.entry r.entry).stream
      rw [if_pos hst, hst, hlist, List.tail_cons]
      rw [hst, hlist, List.mem_cons] at hmem
      rw [hlist, List.nodup_cons] at hnd
      by_cases hd : d = r.entry
      · rw [if_pos hd, hd]; simp [hnd.1]
      · rw [if_neg hd, ← hmem]; simp [hd]
    · rw [if_neg hst, hmem]
      by_cases hd : d = r.entry
      · subst hd; rw [if_pos rfl]; simp [Ne.symm hst]
      · rw [if_neg hd]
  · intro st
    rw [retireList_retired]; split
    · exact (core.nodup st).tail
    · exact core.nodup st
  · intro d hd
    rw [retired_candidate, hcand] at hd; cases hd
  · intro x hx
    rw [retired_progress] at hx; cases hx

theorem StoresOk.placeSegment (h : StoresOk s) {r : Retirement} (hr : s.retire.progress = some r) :
    StoresOk (placeSegment r s) := by
  have placed : StoresOk (freeCells (nextVariants s r)
      { s with uplink := { s.uplink with report := s.uplink.report ++ [nextSegment s r] } }) :=
    h.of_eq rfl rfl rfl
  unfold Machine.placeSegment; dsimp only
  split
  · exact placed.endRetirement hr
  · obtain ⟨core, heads⟩ := (storesOk_iff s).mp h
    refine (storesOk_iff _).mpr ⟨⟨core.blocks, core.entries, core.counts, core.lists, core.nodup, ?_, ?_⟩, ?_⟩
    · intro d hd
      obtain ⟨-, -, hnone⟩ := core.candidate d hd
      rw [hr] at hnone; cases hnone
    · intro x hx
      cases hx
      exact core.progress r hr
    · intro _ hnone; cases hnone

/-- Every command keeps the stores, the lists and the candidate in agreement. -/
theorem StoresStep.storesOk (h : StoresStep s t) (hs : StoresOk s) : StoresOk t := by
  cases h with
  | ended h => exact h.storesOk hs
  | cleared ht hp hr _ => exact storesOk_of_initial ht hp hr
  | answered payload _ _ h => exact (h.storesOk hs).offerAnswer _ _ payload
  | @accepted f _ _ _ _ he =>
    have pass : StoresOk (passMessage f s) := hs.of_eq rfl rfl rfl
    exact (pass.acceptInto (chooseEntry_free he)).of_eq rfl rfl rfl
  | started he =>
    obtain ⟨-, hcand, -⟩ := retirable_eq_some s he
    exact hs.startRetirement hcand
  | placed hr => exact hs.placeSegment hr

end Sys2Proof.Machine

end

section
/-! The variants, the reply cells and the ways in agreement (R112, R116, R123, R124, R127), and statement O59. -/

namespace Sys2Proof.Machine

variable {s t u : State} {ways : Fin 256 → Fin 2 → Option Way}

/-- The entry's answers may still be offered, and its variants may stand in ways (R116, R127). -/
def Unreported (s : State) (e : EntryId) : Prop := (s.entry e).state = .live ∨ (s.entry e).state = .complete

/-- The cells of the variants that entry `e` still holds (R124). -/
def cellsOf (s : State) (e : EntryId) : List CellId := (holdingVariants s e).filterMap (fun v => v.cell)

/-- `ways` are the ways of a Variant Table that agrees with the variants of `s` (R112, R116, R117, R127). -/
structure WaysFit (s : State) (ways : Fin 256 → Fin 2 → Option Way) : Prop where
  named : ∀ i w x, ways i w = some x → Unreported s x.entry ∧ i = setIndex x.entry x.digest ∧
    ∃ v, (s.entry x.entry).variants[x.index]? = some v ∧ v.residence = .resident i w ∧ v.digest = x.digest ∧
      v.length = x.length
  resident : ∀ (e : EntryId) (k : Nat) (v : Variant) i w, Unreported s e → (s.entry e).variants[k]? = some v →
    v.residence = .resident i w → ways i w = some { entry := e, digest := v.digest, length := v.length, index := k }

/-- `VariantsOk` with the ways taken apart from the state, so that a way and its variant can change one after the
other. -/
structure VariantsFit (s : State) (ways : Fin 256 → Fin 2 → Option Way) : Prop where
  pool : (s.coalesce.free ++ (List.finRange 64).flatMap (cellsOf s)).Perm (List.finRange 512)
  free : ∀ e : EntryId, (s.entry e).state = .free → (s.entry e).variants = []
  segments : ∀ r, s.retire.progress = some r → r.header.segmentCount = segmentCount (s.entry r.entry)
  ways : WaysFit s ways

/-- The ways of the Variant Table. -/
def waysOf (s : State) (i : Fin 256) (w : Fin 2) : Option Way := (s.variantSet i).ways[w.val]

theorem variantsOk_iff (s : State) : VariantsOk s ↔ VariantsFit s (waysOf s) := by
  constructor
  · rintro ⟨pool, free, segments, named, resident⟩
    exact ⟨pool, free, segments, named, resident⟩
  · rintro ⟨pool, free, segments, named, resident⟩
    exact ⟨pool, free, segments, named, resident⟩

/-! ### Copies end -/

/-- What the end of copies leaves as it was for the Coalescing Unit. -/
structure KeepsVariants (s t : State) : Prop where
  variants : ∀ e, (t.entry e).variants = (s.entry e).variants
  free : ∀ e, (t.entry e).state = .free ↔ (s.entry e).state = .free
  unreported : ∀ e, Unreported t e ↔ Unreported s e
  progress : t.retire.progress = s.retire.progress
  coalesce : t.coalesce = s.coalesce

theorem KeepsVariants.finishCopy (n : Nest) (e : EntryId) (r : Nat) (o : CopyOutcome) (s : State) :
    KeepsVariants s (finishCopy n e r o s) where
  variants d := by
    rw [entry_finishCopy]; split
    · next hd => rw [hd]
    · rfl
  free d := by
    rw [entry_finishCopy]; split
    · next hd => rw [hd]; dsimp only; split <;> simp_all
    · rfl
  unreported d := by
    unfold Unreported
    rw [entry_finishCopy]; split
    · next hd => rw [hd]; dsimp only; split <;> simp_all
    · rfl
  progress := finishCopy_retire_progress ..
  coalesce := finishCopy_coalesce ..

theorem KeepsVariants.trans (h : KeepsVariants s t) (k : KeepsVariants t u) : KeepsVariants s u where
  variants e := (k.variants e).trans (h.variants e)
  free e := (k.free e).trans (h.free e)
  unreported e := (k.unreported e).trans (h.unreported e)
  progress := k.progress.trans h.progress
  coalesce := k.coalesce.trans h.coalesce

theorem EndsCopies.keepsVariants (h : EndsCopies s t) : KeepsVariants s t := by
  induction h with
  | apart entries _ retire coalesce =>
    exact ⟨fun e => by rw [entries], fun e => by rw [entries], fun e => by unfold Unreported; rw [entries],
      by rw [retire], coalesce⟩
  | ended n e r o s => exact .finishCopy n e r o s
  | trans _ _ ih₁ ih₂ => exact ih₁.trans ih₂

theorem KeepsVariants.cellsOf (h : KeepsVariants s t) (e : EntryId) : cellsOf t e = cellsOf s e := by
  unfold Machine.cellsOf holdingVariants
  simp only [h.progress, h.variants]

theorem KeepsVariants.variantsOk (h : KeepsVariants s t) (hs : VariantsOk s) : VariantsOk t := by
  obtain ⟨pool, free, segments, named, resident⟩ := (variantsOk_iff s).mp hs
  have ways : waysOf t = waysOf s := by
    funext i w; simp only [waysOf, State.variantSet, h.coalesce]
  rw [variantsOk_iff, ways]
  refine ⟨?_, ?_, ?_, ?_, ?_⟩
  · rw [h.coalesce, funext h.cellsOf]; exact pool
  · intro e he; rw [h.variants]; exact free e ((h.free e).mp he)
  · intro r hr
    rw [segments r (h.progress ▸ hr), segmentCount, segmentCount, h.variants]
  · intro i w x hx
    rw [h.unreported, h.variants]; exact named i w x hx
  · intro e k v i w he hv
    rw [h.variants] at hv; exact resident e k v i w ((h.unreported e).mp he) hv

/-! ### One entry's variants change -/

/-- The entry of a retirement in progress is REPORTING (R134). -/
def ReportsProgress (s : State) : Prop :=
  ∀ r, s.retire.progress = some r → (s.entry r.entry).state = .reporting

theorem StoresOk.reportsProgress (h : StoresOk s) : ReportsProgress s := fun r hr =>
  (((storesOk_iff s).mp h).1.progress r hr).1

theorem cellsOf_of_unreported {e : EntryId} (h : ReportsProgress s) (he : Unreported s e) :
    cellsOf s e = (s.entry e).variants.filterMap (fun v => v.cell) := by
  unfold cellsOf holdingVariants
  split
  · next r hr =>
    have hne : r.entry ≠ e := by
      rintro rfl
      have := h r hr
      rcases he with he | he <;> rw [he] at this <;> cases this
    rw [if_neg hne]
  · rfl

/-- Only the variants of entry `e` differ among the entries. -/
structure OnlyEntryVariants (e : EntryId) (s t : State) : Prop where
  entry : t.entry e = { s.entry e with variants := (t.entry e).variants }
  others : ∀ d, d ≠ e → t.entry d = s.entry d
  retire : t.retire = s.retire

variable {e : EntryId}

theorem OnlyEntryVariants.state (h : OnlyEntryVariants e s t) (d : EntryId) :
    (t.entry d).state = (s.entry d).state := by
  by_cases hd : d = e
  · rw [hd, h.entry]
  · rw [h.others d hd]

theorem OnlyEntryVariants.unreported (h : OnlyEntryVariants e s t) (d : EntryId) :
    Unreported t d ↔ Unreported s d := by
  unfold Unreported; rw [h.state]

theorem OnlyEntryVariants.reportsProgress (h : OnlyEntryVariants e s t) (hs : ReportsProgress s) :
    ReportsProgress t := fun r hr => by
  rw [h.state]; exact hs r (h.retire ▸ hr)

/-- Variants agree with `ways'` after those of one unreported entry changed, when its cells came from the free list
and its variants fit `ways'`. -/
theorem VariantsFit.change {ways' : Fin 256 → Fin 2 → Option Way} (h : VariantsFit s ways) (hr : ReportsProgress s)
    (he : Unreported s e) (c : OnlyEntryVariants e s t)
    (hpool : (t.coalesce.free ++ (t.entry e).variants.filterMap (fun v => v.cell)).Perm
      (s.coalesce.free ++ (s.entry e).variants.filterMap (fun v => v.cell)))
    (hways : WaysFit t ways') : VariantsFit t ways' := by
  refine ⟨?_, ?_, ?_, hways⟩
  · refine (pool_perm e (fun d hd => ?_) ?_).trans h.pool
    · unfold cellsOf holdingVariants; simp only [c.retire, c.others d hd]
    · rw [cellsOf_of_unreported hr he, cellsOf_of_unreported (c.reportsProgress hr) ((c.unreported e).mpr he)]
      exact hpool
  · intro d hd
    rw [c.state] at hd
    have hde : d ≠ e := by
      rintro rfl; rcases he with he | he <;> rw [he] at hd <;> cases hd
    rw [c.others d hde]; exact h.free d hd
  · intro r hp
    rw [c.retire] at hp
    have hde : r.entry ≠ e := by
      rintro rfl; have := hr r hp
      rcases he with he | he <;> rw [he] at this <;> cases this
    rw [c.others _ hde]; exact h.segments r hp

end Sys2Proof.Machine

end

section
namespace Sys2Proof.Machine

variable {s t u : State} {ways : Fin 256 → Fin 2 → Option Way} {e : EntryId}

theorem getElem?_modify_eq_some {α : Type} {l : List α} {f : α → α} {j k : Nat} {b : α} :
    (l.modify k f)[j]? = some b ↔ ∃ a, l[j]? = some a ∧ b = if k = j then f a else a := by
  rw [List.getElem?_modify]
  split <;> cases l[j]? <;> simp [eq_comm]

/-- Where the variant at `k` of an entry is found after a change of its variants that adds and moves none (R119,
R121). -/
structure VariantsModified (e : EntryId) (k : Nat) (f : Variant → Variant) (s t : State) : Prop where
  only : OnlyEntryVariants e s t
  variants : (t.entry e).variants = (s.entry e).variants.modify k f
  digest : ∀ v, (f v).digest = v.digest
  length : ∀ v, (f v).length = v.length

theorem VariantsModified.lookup {k : Nat} {f : Variant → Variant} (m : VariantsModified e k f s t) {d : EntryId}
    {j : Nat} {b : Variant} : (t.entry d).variants[j]? = some b ↔
      ∃ a, (s.entry d).variants[j]? = some a ∧ b = if d = e ∧ k = j then f a else a := by
  by_cases hd : d = e
  · subst hd
    rw [m.variants, getElem?_modify_eq_some]; simp
  · rw [m.only.others d hd]; simp [hd]

theorem VariantsModified.cells {k : Nat} {f : Variant → Variant} (m : VariantsModified e k f s t)
    (hf : ∀ v, (f v).cell = v.cell) : (t.entry e).variants.filterMap (fun v => v.cell) =
      (s.entry e).variants.filterMap (fun v => v.cell) := by
  have maps : ∀ vs : List Variant, vs.filterMap (fun v => v.cell) = (vs.map (fun v => v.cell)).filterMap id :=
    fun vs => by rw [List.filterMap_map]; rfl
  rw [m.variants, maps, maps]
  congr 1
  apply List.ext_getElem?
  intro j
  rw [List.getElem?_map, List.getElem?_map, List.getElem?_modify]
  split <;> cases (s.entry e).variants[j]? <;> simp [hf]

/-- A nest that joins a variant leaves the ways fitting (R119). -/
theorem WaysFit.modify {k : Nat} {f : Variant → Variant} (h : WaysFit s ways) (m : VariantsModified e k f s t)
    (hf : ∀ v, (f v).residence = v.residence) : WaysFit t ways := by
  have same : ∀ {d : EntryId} {j : Nat} (a : Variant), (if d = e ∧ k = j then f a else a).residence = a.residence ∧
      (if d = e ∧ k = j then f a else a).digest = a.digest ∧
      (if d = e ∧ k = j then f a else a).length = a.length := fun a => by
    split
    · exact ⟨hf a, m.digest a, m.length a⟩
    · exact ⟨rfl, rfl, rfl⟩
  constructor
  · intro i w x hx
    obtain ⟨open_, hi, v, hv, hr, hd, hl⟩ := h.named i w x hx
    obtain ⟨fr, fd, fl⟩ := same (d := x.entry) (j := x.index) v
    exact ⟨(m.only.unreported _).mpr open_, hi, _, m.lookup.mpr ⟨v, hv, rfl⟩, fr.trans hr, fd.trans hd, fl.trans hl⟩
  · intro d j b i w open_ hb hr
    obtain ⟨a, ha, rfl⟩ := m.lookup.mp hb
    obtain ⟨fr, fd, fl⟩ := same (d := d) (j := j) a
    rw [fd, fl]
    exact h.resident d j a i w ((m.only.unreported d).mp open_) ha (fr ▸ hr)

/-- A variant SETTLED and its way emptied leave the ways fitting (R121). -/
theorem WaysFit.settle {k : Nat} {f : Variant → Variant} (h : WaysFit s ways) (m : VariantsModified e k f s t)
    (hf : ∀ v, (f v).residence = .settled) {i₀ : Fin 256} {w₀ : Fin 2} {old : Way} (hold : ways i₀ w₀ = some old)
    (he : old.entry = e) (hk : old.index = k) :
    WaysFit t (fun i w => if i = i₀ ∧ w = w₀ then none else ways i w) := by
  subst he hk
  obtain ⟨-, -, v₀, hv₀, hr₀, -, -⟩ := h.named i₀ w₀ old hold
  constructor
  · intro i w x hx
    split at hx
    · cases hx
    · next hne =>
      obtain ⟨open_, hi, v, hv, hr, hd, hl⟩ := h.named i w x hx
      refine ⟨(m.only.unreported _).mpr open_, hi, v, m.lookup.mpr ⟨v, hv, ?_⟩, hr, hd, hl⟩
      rw [if_neg]
      rintro ⟨h1, h2⟩
      rw [h1, ← h2, hv₀] at hv
      cases hv
      rw [hr₀] at hr
      cases hr
      exact hne ⟨rfl, rfl⟩
  · intro d j b i w open_ hb hr
    obtain ⟨a, ha, rfl⟩ := m.lookup.mp hb
    split at hr
    · rw [hf] at hr; cases hr
    · next hne =>
      rw [if_neg hne]
      have hway := h.resident d j a i w ((m.only.unreported d).mp open_) ha hr
      rw [if_neg, hway]
      rintro ⟨rfl, rfl⟩
      rw [hold] at hway
      cases hway
      exact hne ⟨rfl, rfl⟩

/-- The way that a variant at place `k` of entry `e` takes. -/
def wayOf (e : EntryId) (k : Nat) (v : Variant) : Way := { entry := e, digest := v.digest, length := v.length, index := k }

/-- A variant created, and the way it is RESIDENT in, which held none, leave the ways fitting (R114, R120). -/
theorem WaysFit.append {v : Variant} (h : WaysFit s ways) (c : OnlyEntryVariants e s t) (he : Unreported s e)
    (hv : (t.entry e).variants = (s.entry e).variants ++ [v])
    (hplace : ∀ i w, v.residence = .resident i w → ways i w = none ∧ i = setIndex e v.digest) :
    WaysFit t (fun i w =>
      if v.residence = .resident i w then some (wayOf e (s.entry e).variants.length v) else ways i w) := by
  constructor
  · intro i w x hx
    split at hx
    · next hr =>
      cases hx
      exact ⟨(c.unreported e).mpr he, (hplace i w hr).2, v, by simp [wayOf, hv], hr, rfl, rfl⟩
    · obtain ⟨open_, hi, a, ha, hr, hd, hl⟩ := h.named i w x hx
      refine ⟨(c.unreported _).mpr open_, hi, a, ?_, hr, hd, hl⟩
      by_cases hxe : x.entry = e
      · rw [hxe] at ha ⊢
        rw [hv]; exact List.getElem?_append_left (List.getElem?_eq_some_iff.mp ha).1 ▸ ha
      · rw [c.others _ hxe]; exact ha
  · intro d j b i w open_ hb hr
    have old : (s.entry d).variants[j]? = some b →
        (if v.residence = .resident i w then some (wayOf e (s.entry e).variants.length v) else ways i w) =
          some { entry := d, digest := b.digest, length := b.length, index := j } := fun hb => by
      have hway := h.resident d j b i w ((c.unreported d).mp open_) hb hr
      rw [if_neg, hway]
      intro hvr
      rw [(hplace i w hvr).1] at hway; cases hway
    by_cases hd : d = e
    · subst hd
      rw [hv] at hb
      by_cases hj : j < (s.entry d).variants.length
      · exact old (List.getElem?_append_left hj ▸ hb)
      · obtain ⟨hlt, hget⟩ := List.getElem?_eq_some_iff.mp hb
        have hj' : j = (s.entry d).variants.length := by simp at hlt; omega
        subst hj'
        have hbv : v = b := by simpa using hget
        subst hbv
        exact if_pos hr
    · rw [c.others d hd] at hb; exact old hb

/-! ### An answer offered (R110 to R121) -/

theorem onlyEntryVariants_of {f : List Variant → List Variant} (hret : t.retire = s.retire)
    (h : ∀ d, t.entry d = if d = e then { s.entry e with variants := f (s.entry e).variants } else s.entry d) :
    OnlyEntryVariants e s t where
  entry := by rw [h, if_pos rfl]
  others d hd := by rw [h, if_neg hd]
  retire := hret

theorem VariantCreated.sets {n : Nest} {payload : List Byte} {place : Residence}
    (h : VariantCreated e n payload place s t) : t.coalesce.sets = s.coalesce.sets := by
  obtain ⟨-, -, v, -, -, -, -, -, hempty, hnone, hcell⟩ := h
  by_cases hp : payload = []
  · rw [(hempty hp).2.2.1]
  · cases hf : s.coalesce.free with
    | nil => rw [(hnone hp hf).2.2.1]
    | cons c rest => rw [(hcell c rest hp hf).2.2.1]

/-- A variant created keeps the variants, the cells and the ways in agreement (R114, R120, R123). -/
theorem VariantsFit.created {n : Nest} {payload : List Byte} {place : Residence} (h : VariantsFit s ways)
    (hr : ReportsProgress s) (he : Unreported s e) (c : VariantCreated e n payload place s t)
    (hplace : ∀ i w, place = .resident i w → ways i w = none ∧ i = setIndex e (digest payload)) :
    VariantsFit t (fun i w => if place = .resident i w then
      some { entry := e, digest := digest payload, length := payload.length, index := (s.entry e).variants.length }
      else ways i w) := by
  obtain ⟨frame, -, v, hdig, hlen, -, hres, entry, hempty, hnone, hcell⟩ := c
  have only : OnlyEntryVariants e s t := onlyEntryVariants_of (f := (· ++ [v])) (by rw [frame]) entry
  have hv : (t.entry e).variants = (s.entry e).variants ++ [v] := by rw [entry, if_pos rfl]
  subst hres
  have fit := h.ways.append only he hv (fun i w hi => by rw [hdig]; exact hplace i w hi)
  simp only [wayOf, hdig, hlen] at fit
  refine h.change hr he only ?_ fit
  rw [hv, List.filterMap_append]
  by_cases hp : payload = []
  · obtain ⟨hc, -, hco, -⟩ := hempty hp
    rw [hco]; simp [hc]
  · cases hf : s.coalesce.free with
    | nil =>
      obtain ⟨hc, -, hco, -⟩ := hnone hp hf
      rw [hco, hf]; simp [hc]
    | cons x rest =>
      obtain ⟨hc, -, hco, -⟩ := hcell x rest hp hf
      rw [hco]; simp only [List.filterMap_cons, hc, List.filterMap_nil]
      rw [← List.append_assoc]
      exact List.perm_append_comm

end Sys2Proof.Machine

end

section
namespace Sys2Proof.Machine

variable {s t u : State} {ways : Fin 256 → Fin 2 → Option Way} {e : EntryId}

/-- Variants agree with `ways` whatever the Variant Table itself holds. -/
theorem VariantsFit.updVariantSet (h : VariantsFit s ways) (i : Fin 256) (f : VariantSet → VariantSet) :
    VariantsFit (s.updVariantSet i f) ways :=
  ⟨h.pool, h.free, h.segments, ⟨h.ways.named, h.ways.resident⟩⟩

theorem variants_evicted {i : Fin 256} {w : Fin 2} (h : Evicted i w s t) (d : EntryId) :
    (t.entry d).variants.length = (s.entry d).variants.length := by
  simpa using congrArg List.length (nests_evict h d)

/-- An eviction keeps the variants in agreement with the ways, its own emptied (R121). -/
theorem VariantsFit.evicted {i : Fin 256} {w : Fin 2} (h : VariantsFit s (waysOf s)) (hr : ReportsProgress s)
    (ev : Evicted i w s t) : VariantsFit t (fun j x => if j = i ∧ x = w then none else waysOf s j x) ∧
      ReportsProgress t ∧ (∀ d, Unreported t d ↔ Unreported s d) ∧ t.coalesce = s.coalesce := by
  unfold Evicted at ev
  cases hw : (s.variantSet i).ways[w.val] with
  | none =>
    simp only [hw] at ev
    subst ev
    have : (fun j x => if j = i ∧ x = w then none else waysOf t j x) = waysOf t := by
      funext j x
      split
      · next hjx => rw [hjx.1, hjx.2]; exact hw.symm
      · rfl
    exact ⟨by rw [this]; exact h, hr, fun _ => Iff.rfl, rfl⟩
  | some old =>
    simp only [hw] at ev
    obtain ⟨frame, entry⟩ := ev
    have only : OnlyEntryVariants old.entry s t := by
      refine onlyEntryVariants_of (f := fun l => l.modify old.index (fun v => { v with residence := .settled }))
        (by rw [frame]) fun d => ?_
      rw [entry]; split
      · next hd => rw [hd]
      · rfl
    have modified : VariantsModified old.entry old.index (fun v => { v with residence := .settled }) s t :=
      ⟨only, by rw [entry, if_pos rfl], fun _ => rfl, fun _ => rfl⟩
    refine ⟨h.change hr (h.ways.named i w old hw).1 only ?_ (h.ways.settle modified (fun _ => rfl) hw rfl rfl),
      only.reportsProgress hr, only.unreported, by rw [frame]⟩
    rw [modified.cells fun _ => rfl, frame]

theorem waysOf_updVariantSet (s : State) (i j : Fin 256) (f : VariantSet → VariantSet) (w : Fin 2) :
    waysOf (s.updVariantSet i f) j w = if j = i then (f (s.variantSet i)).ways[w.val] else waysOf s j w := by
  unfold waysOf
  rw [variantSet_updVariantSet]
  split <;> rfl

/-- A way emptied by an eviction, and filled by the variant created for it, keeps the variants, the cells and the ways
in agreement (R120). -/
theorem VariantsOk.wayFilled {i : Fin 256} {w : Fin 2} {payload : List Byte} (h : VariantsOk s)
    (hr : ReportsProgress s) (he : Unreported s e) (hi : i = setIndex e (digest payload)) (ev : Evicted i w s t)
    (n : Nest) (lru : Fin 2) :
    VariantsOk ((createVariant e n payload (.resident i w) t).updVariantSet i (fun x =>
      { ways := upd x.ways w (fun _ => some { entry := e, digest := digest payload, length := payload.length,
                                              index := (s.entry e).variants.length }),
        lru := lru })) := by
  have index := variants_evicted ev e
  obtain ⟨emptied, hr, unreported, hco⟩ := ((variantsOk_iff s).mp h).evicted hr ev
  have created := createVariant_spec t e n payload (.resident i w)
  have filled := emptied.created hr ((unreported e).mpr he) created (fun j x hjx => by
    cases hjx; exact ⟨if_pos ⟨rfl, rfl⟩, hi⟩)
  have sets : ∀ j, (createVariant e n payload (.resident i w) t).variantSet j = s.variantSet j := fun j => by
    simp only [State.variantSet, created.sets, hco]
  rw [variantsOk_iff]
  refine cast (congrArg _ ?_) (filled.updVariantSet i _)
  funext j x
  rw [waysOf_updVariantSet, index, sets]
  by_cases hj : j = i
  · subst hj
    rw [if_pos rfl]; dsimp only
    rw [upd_get]
    by_cases hx : x = w
    · subst hx; simp
    · have : Residence.resident j w ≠ .resident j x := fun hh => hx (by cases hh; rfl)
      rw [if_neg this, if_neg (fun hh => hx hh.2), if_neg hx]; rfl
  · have : Residence.resident i w ≠ .resident j x := fun hh => hj (by cases hh; rfl)
    rw [if_neg this, if_neg (fun hh => hj hh.1), if_neg hj, waysOf, waysOf, sets]

/-- A miss keeps the variants, the cells and the ways in agreement (R120, R121). -/
theorem VariantsOk.coalesceMiss (h : VariantsOk s) (hr : ReportsProgress s) (he : Unreported s e) (n : Nest)
    (payload : List Byte) : VariantsOk (coalesceMiss e n payload s) :=
  h.wayFilled hr he rfl (evict_spec s _ _) n _

/-- A hit keeps the variants, the cells and the ways in agreement (R119). -/
theorem VariantsOk.coalesceHit (h : VariantsOk s) (hr : ReportsProgress s) (he : Unreported s e) (n : Nest)
    (payload : List Byte) (w : Fin 2) : VariantsOk (coalesceHit e n payload w s) := by
  unfold Machine.coalesceHit; dsimp only
  split
  case h_2 => exact h
  next way _ =>
    have fit := (variantsOk_iff s).mp h
    have entry : ∀ d, (joinVariant e n way.index s).entry d = if d = e then { s.entry e with
        variants := (s.entry e).variants.modify way.index (fun v => { v with nests := NestSet.insert v.nests n }) }
        else s.entry d := fun d => entry_updEntry s e d _
    have modified : VariantsModified e way.index (fun v => { v with nests := NestSet.insert v.nests n }) s
        (joinVariant e n way.index s) :=
      ⟨onlyEntryVariants_of rfl entry, by rw [entry, if_pos rfl], fun _ => rfl, fun _ => rfl⟩
    have joined : VariantsFit (joinVariant e n way.index s) (waysOf s) :=
      fit.change hr he modified.only (by rw [modified.cells fun _ => rfl]; rfl)
        (fit.ways.modify modified fun _ => rfl)
    rw [variantsOk_iff]
    have ways : waysOf ((joinVariant e n way.index s).updVariantSet (setIndex e (digest payload))
        (fun x => { x with lru := otherWay w })) = waysOf s := by
      funext j x
      rw [waysOf_updVariantSet]; split
      · next hj => rw [hj]; rfl
      · rfl
    rw [ways]; exact joined.updVariantSet _ _

/-- An answer offered by a copy of an entry not yet reported keeps the variants, the cells and the ways in agreement
(R110). -/
theorem VariantsOk.offerAnswer (h : VariantsOk s) (hr : ReportsProgress s) (he : Unreported s e) (n : Nest)
    (payload : List Byte) : VariantsOk (offerAnswer e n payload s) := by
  unfold Machine.offerAnswer
  split
  · exact h
  · have created := createVariant_spec s e n payload .uncached
    have fit := ((variantsOk_iff s).mp h).created hr he created (fun _ _ hh => nomatch hh)
    rw [variantsOk_iff]
    refine cast (congrArg _ ?_) fit
    funext i w
    rw [if_neg nofun, waysOf, waysOf, State.variantSet, State.variantSet, created.sets]
  · split
    · exact h.coalesceHit hr he n payload _
    · exact h.coalesceMiss hr he n payload

end Sys2Proof.Machine

end

section
namespace Sys2Proof.Machine

variable {s t u : State} {e : EntryId}

/-- The copy of a nest in WAITING is of a LIVE entry (R15, R40, R43, R46, R69). -/
theorem live_of_waiting {n : Nest} {tag : Word16} {c : Copy} {rest : List Copy} (hp : PortsOk s) (hs : StoresOk s)
    (hc : CopiesOk s) (hw : (s.port n).service = .waiting tag) (hq : (s.port n).queue = c :: rest) :
    (s.entry c.entry).state = .live := by
  obtain ⟨-, -, pending⟩ := hc
  have fits : serviceFits (s.port n) = true := by
    have := hp n
    simp only [portOk, Bool.and_eq_true] at this
    exact this.1.1.1.2
  have inService : c.state = .inService := by
    simp only [serviceFits, hw, hq, headIs, Bool.and_eq_true, decide_eq_true_eq] at fits
    exact fits.2.1
  have counted : 0 < copiesOf (unended (s.port n).queue) c.entry :=
    copiesOf_pos (by simp [unended, hq, inService])
  have total : 0 < (s.entry c.entry).pending := by
    rw [pending]
    exact lt_of_lt_of_le counted (List.le_sum_of_mem (List.mem_map.mpr ⟨n, mem_allNests n, rfl⟩))
  by_contra hl
  have := (entryOk_of_not_live (((storesOk_iff s).mp hs).1.entries c.entry) hl).1
  omega

theorem variantsOk_of_initial (ht : t.table = StepTable.initial) (hr : t.retire = Retire.initial)
    (hc : t.coalesce = Coalescing.initial) : VariantsOk t := by
  have entry := entry_of_initial ht
  have cells : ∀ e, cellsOf t e = [] := fun e => by
    rw [cellsOf, holdingVariants_of_none t e (by rw [hr]; rfl), entry]; rfl
  have closed : ∀ e, ¬Unreported t e := fun e => by rw [Unreported, entry]; simp [StepEntry.free]
  have ways : ∀ i w, waysOf t i w = none := fun i w => by
    simp [waysOf, State.variantSet, hc, Coalescing.initial, VariantSet.empty]
  rw [variantsOk_iff]
  refine ⟨?_, fun e _ => by rw [entry]; rfl, fun r h => ?_, fun i w x h => ?_, fun e k v i w h => absurd h (closed e)⟩
  · rw [List.flatMap_eq_nil_iff.mpr fun e _ => cells e, hc, Coalescing.initial, List.append_nil]
  · rw [hr] at h; cases h
  · rw [ways] at h; cases h

/-! ### Acceptance -/

theorem KeepsVariants.chooseCandidate (s : State) : KeepsVariants s (chooseCandidate s) where
  variants e := by rw [entry_congr (chooseCandidate_table s)]
  free e := by rw [entry_congr (chooseCandidate_table s)]
  unreported e := by unfold Unreported; rw [entry_congr (chooseCandidate_table s)]
  progress := chooseCandidate_retire_progress s
  coalesce := chooseCandidate_coalesce s

/-- A FREE entry filled with no variant keeps the variants, the cells and the ways in agreement (R12). -/
theorem VariantsOk.filled {x : StepEntry} (h : VariantsOk s) (hr : ReportsProgress s) (f : EntryFilled e x s u)
    (hco : u.coalesce = s.coalesce) (hfree : (s.entry e).state = .free) (hx : x.variants = []) :
    VariantsOk u := by
  obtain ⟨pool, free, segments, named, resident⟩ := (variantsOk_iff s).mp h
  have none_ := free e hfree
  have reporting : ∀ r, u.retire.progress = some r → r.entry ≠ e := fun r hp hre => by
    have := hr r (f.progress ▸ hp)
    rw [hre, hfree] at this; cases this
  have variants : ∀ d, (u.entry d).variants = (s.entry d).variants := fun d => by
    by_cases hd : d = e
    · rw [hd, f.entry, hx, none_]
    · rw [f.others d hd]
  have cells : cellsOf u = cellsOf s := by
    funext d; unfold cellsOf holdingVariants; simp only [f.progress, variants]
  have unreported : ∀ d, (s.entry d).variants ≠ [] → (Unreported u d ↔ Unreported s d) := fun d hd => by
    have hde : d ≠ e := fun hde => hd (hde ▸ none_)
    unfold Unreported; rw [f.others d hde]
  have ways : waysOf u = waysOf s := by funext i w; simp only [waysOf, State.variantSet, hco]
  rw [variantsOk_iff, ways]
  refine ⟨by rw [hco, cells]; exact pool, fun d hd => ?_, fun r hp => ?_, fun i w y hy => ?_,
    fun d k v i w hd hv => ?_⟩
  · rw [variants]
    by_cases hde : d = e
    · rw [hde, none_]
    · exact free d (f.others d hde ▸ hd)
  · rw [f.others _ (reporting r hp)]; exact segments r (f.progress ▸ hp)
  · obtain ⟨open_, hi, v, hv, rest⟩ := named i w y hy
    rw [variants, unreported _ (fun hn => by rw [hn] at hv; cases hv)]
    exact ⟨open_, hi, v, hv, rest⟩
  · rw [variants] at hv
    exact resident d k v i w ((unreported d (fun hn => by rw [hn] at hv; cases hv)).mp hd) hv

theorem VariantsOk.acceptInto {q : StepReq} {target : NestSet} {r : Fin 64} (h : VariantsOk s)
    (hr : ReportsProgress s) (hfree : (s.entry e).state = .free) : VariantsOk (acceptInto e q target r s) := by
  have enlisted := enlist_spec e q target r s
  rw [acceptInto_eq]
  refine (EndsCopies.absences _ _).keepsVariants.variantsOk
    ((EndsCopies.testPayloadLow _ _).keepsVariants.variantsOk ?_)
  split
  · exact (KeepsVariants.chooseCandidate _).variantsOk
      (h.filled hr enlisted.completedFilled enlisted.coalesce hfree rfl)
  · exact h.filled hr enlisted.entryFilled enlisted.coalesce hfree rfl

/-! ### Retirement -/

theorem waysOf_startRetirement (e : EntryId) (s : State) (i : Fin 256) (w : Fin 2) :
    waysOf (startRetirement e s) i w = (waysOf s i w).filter (fun x => x.entry ≠ e) := by
  unfold startRetirement waysOf State.variantSet invalidateWays
  simp only [updRetire_coalesce, mapTable_get, updEntry_coalesce]
  split
  · next x hx => rw [hx]; by_cases hxe : x.entry = e <;> simp [hxe, Option.filter]
  · next hx => rw [hx]; rfl

/-- A retirement that begins keeps the variants, the cells and the ways in agreement (R127, R134). -/
theorem VariantsOk.startRetirement (h : VariantsOk s)
    (hprog : s.retire.progress = none) : VariantsOk (startRetirement e s) := by
  obtain ⟨pool, free, segments, named, resident⟩ := (variantsOk_iff s).mp h
  have entry := entry_startRetirement e s
  have variants : ∀ d, ((Machine.startRetirement e s).entry d).variants = (s.entry d).variants := fun d => by
    rw [entry]; split
    · next hd => rw [hd]
    · rfl
  have cells : cellsOf (Machine.startRetirement e s) = cellsOf s := by
    funext d
    rw [cellsOf, cellsOf, holdingVariants_of_none s d hprog,
      holdingVariants_of_le_one (Machine.startRetirement e s) d _ rfl (Nat.zero_le 1), variants]
  have unreported : ∀ d, Unreported (Machine.startRetirement e s) d ↔ Unreported s d ∧ d ≠ e := fun d => by
    unfold Unreported
    rw [entry]; split
    · next hd => simp [hd]
    · next hd => simp [hd]
  rw [variantsOk_iff]
  refine ⟨by rw [cells]; exact pool, fun d hd => ?_, fun r hr => ?_, fun i w x hx => ?_, fun d k v i w hd hv hres => ?_⟩
  · rw [variants]
    refine free d ?_
    rw [entry] at hd; split at hd
    · cases hd
    · exact hd
  · cases hr
    show segmentCount ((s.updEntry e _).entry e) = _
    rw [segmentCount, segmentCount, variants, entry_updEntry_same]
  · rw [waysOf_startRetirement, Option.filter_eq_some_iff] at hx
    obtain ⟨open_, hi, v, hv, rest⟩ := named i w x hx.1
    rw [unreported, variants]
    exact ⟨⟨open_, by simpa using hx.2⟩, hi, v, hv, rest⟩
  · obtain ⟨open_, hde⟩ := (unreported d).mp hd
    rw [variants] at hv
    rw [waysOf_startRetirement, resident d k v i w open_ hv hres]
    simp [hde]

/-- The variants that a retirement holds are those of the next segment and those that follow (R135, R142). -/
theorem holding_next (s : State) (r : Retirement) :
    ((variantSegments (s.entry r.entry).variants).drop (r.next - 1)).flatten =
      nextVariants s r ++ ((variantSegments (s.entry r.entry).variants).drop r.next).flatten := by
  unfold nextVariants
  split
  · next h => rw [h]; rfl
  · next h => exact holding_succ _ _ (Nat.one_le_iff_ne_zero.mpr h)

theorem cellsOf_retiring {r : Retirement} (hr : s.retire.progress = some r) : cellsOf s r.entry =
    (nextVariants s r).filterMap (fun v => v.cell) ++
      ((variantSegments (s.entry r.entry).variants).drop r.next).flatten.filterMap (fun v => v.cell) := by
  rw [cellsOf, holdingVariants, hr]
  dsimp only
  rw [if_pos rfl, holding_next, List.filterMap_append]

theorem cellsOf_not_retiring {r : Retirement} (hr : s.retire.progress = some r) {d : EntryId} (hd : d ≠ r.entry) :
    cellsOf s d = (s.entry d).variants.filterMap (fun v => v.cell) := by
  rw [cellsOf, holdingVariants, hr]
  dsimp only
  rw [if_neg (Ne.symm hd)]

/-- A segment placed gives its cells back, and the retirement holds the others (R135). -/
theorem VariantsOk.nextSegment {r : Retirement} (h : VariantsOk s) (hr : s.retire.progress = some r) :
    VariantsOk ((freeCells (nextVariants s r) s).updRetire
      (fun x => { x with progress := some { r with next := r.next + 1 } })) := by
  obtain ⟨pool, free, segments, named, resident⟩ := (variantsOk_iff s).mp h
  rw [variantsOk_iff]
  refine ⟨?_, free, fun x hx => ?_, named, resident⟩
  · refine (pool_perm r.entry (fun d hd => ?_) ?_).trans pool
    · rw [cellsOf_not_retiring hr hd]
      exact cellsOf_not_retiring (r := { r with next := r.next + 1 }) rfl hd
    · rw [cellsOf_retiring hr, ← List.append_assoc]
      refine .of_eq (congrArg _ ?_)
      show (holdingVariants _ r.entry).filterMap _ = _
      unfold holdingVariants
      simp only [updRetire_retire, if_pos]
      rfl
  · cases hx; exact segments r hr

/-- The end of a retirement gives the last cells back (R124, R136). -/
theorem VariantsOk.endRetirement {r : Retirement} (h : VariantsOk s) (hrep : ReportsProgress s)
    (hr : s.retire.progress = some r) (hlast : isLastSegment r = true) :
    VariantsOk (endRetirement r.entry (freeCells (nextVariants s r) s)) := by
  obtain ⟨pool, free, segments, named, resident⟩ := (variantsOk_iff s).mp h
  set f := freeCells (nextVariants s r) s with hf
  have entry : ∀ d, (retired r.entry f).entry d = if d = r.entry
    then { s.entry r.entry with state := .free, variants := [], clamped := false, aborted := false }
    else s.entry d := entry_retired r.entry f
  have others : ∀ d, d ≠ r.entry → (retired r.entry f).entry d = s.entry d := fun d hd => by rw [entry, if_neg hd]
  have progress := retired_progress r.entry f
  have cells : ∀ d, cellsOf (retired r.entry f) d =
      ((retired r.entry f).entry d).variants.filterMap (fun v => v.cell) := fun d => by
    rw [cellsOf, holdingVariants_of_none _ d progress]
  have unreported : ∀ d, Unreported (retired r.entry f) d ↔ Unreported s d := fun d => by
    by_cases hd : d = r.entry
    · unfold Unreported; rw [hd, entry, if_pos rfl, hrep r hr]; simp
    · unfold Unreported; rw [others d hd]
  have notRetiring : ∀ d, Unreported s d → d ≠ r.entry := fun d hd hde => by
    rw [Unreported, hde, hrep r hr] at hd
    rcases hd with hd | hd <;> cases hd
  have rest : (variantSegments (s.entry r.entry).variants).drop r.next = [] := by
    rw [isLastSegment, segments r hr, segmentCount] at hlast
    have := of_decide_eq_true hlast
    exact List.drop_eq_nil_of_le (by omega)
  have ways : waysOf (retired r.entry f) = waysOf s := by
    funext i w; unfold waysOf State.variantSet; rw [retired_coalesce]; rfl
  rw [endRetirement_eq]
  refine (KeepsVariants.chooseCandidate _).variantsOk ?_
  rw [variantsOk_iff, ways]
  refine ⟨?_, fun d hd => ?_, fun x hx => ?_, fun i w x hx => ?_, fun d k v i w hd hv => ?_⟩
  · rw [retired_coalesce]
    refine (pool_perm r.entry (fun d hd => ?_) ?_).trans pool
    · rw [cells, others d hd, cellsOf_not_retiring hr hd]
    · rw [cells, entry, if_pos rfl, cellsOf_retiring hr, rest]
      simp [hf, freeCells]
  · by_cases hde : d = r.entry
    · rw [hde, entry, if_pos rfl]
    · rw [others d hde] at hd ⊢; exact free d hd
  · rw [progress] at hx; cases hx
  · obtain ⟨open_, hi, v, hv, tail⟩ := named i w x hx
    rw [unreported, others _ (notRetiring _ open_)]
    exact ⟨open_, hi, v, hv, tail⟩
  · rw [unreported] at hd
    rw [others d (notRetiring d hd)] at hv
    exact resident d k v i w hd hv

theorem VariantsOk.placeSegment {r : Retirement} (h : VariantsOk s) (hrep : ReportsProgress s)
    (hr : s.retire.progress = some r) : VariantsOk (placeSegment r s) := by
  set s1 : State := { s with uplink := { s.uplink with report := s.uplink.report ++ [Machine.nextSegment s r] } }
    with hs1
  have placed : VariantsOk s1 := h
  unfold Machine.placeSegment; dsimp only
  rw [← hs1]
  split
  · next hlast => exact placed.endRetirement hrep hr hlast
  · exact placed.nextSegment hr

theorem EndsCopies.finishMessage (s : State) : EndsCopies s (finishMessage s) := of_eq rfl rfl rfl rfl

/-- Every command keeps the variants, the cells and the ways in agreement. -/
theorem StoresStep.variantsOk (h : StoresStep s t) (hp : PortsOk s) (hs : StoresOk s) (hc : CopiesOk s)
    (hv : VariantsOk s) : VariantsOk t := by
  cases h with
  | ended h => exact h.keepsVariants.variantsOk hv
  | cleared ht _ hr hc => exact variantsOk_of_initial ht hr hc
  | answered payload hw hq h =>
    exact (h.keepsVariants.variantsOk hv).offerAnswer (h.storesOk hs).reportsProgress
      ((h.keepsVariants.unreported _).mpr (.inl (live_of_waiting hp hs hc hw hq))) _ payload
  | @accepted f _ _ _ _ he =>
    have pass : EndsCopies s (passMessage f s) := .of_eq rfl rfl rfl rfl
    exact (EndsCopies.finishMessage _).keepsVariants.variantsOk ((pass.keepsVariants.variantsOk hv).acceptInto
      (pass.storesOk hs).reportsProgress (chooseEntry_free he))
  | started he =>
    obtain ⟨-, -, hprog, -⟩ := retirable_eq_some s he
    exact hv.startRetirement hprog
  | placed hr => exact hv.placeSegment hs.reportsProgress hr

/-- A step on an empty queue changes nothing, and otherwise is the front command with the queue's rest. -/
theorem step_cases (h : step s = .next t) :
    t = s ∨ ∃ c rest, exec c { s with pending := rest } = .next t := by
  unfold step at h
  split at h
  · cases h; exact .inl rfl
  · exact .inr ⟨_, _, h⟩

/-- Settles O59: a step moves the stores by one of the six shapes of `StoresStep`, and each keeps them. -/
theorem stepKeepsStores : Obligations.StepKeepsStores := by
  refine ⟨fun s t hs h => ?_, fun s t hp hs hc hv h => ?_⟩
  · rcases step_cases h with rfl | ⟨c, rest, h⟩
    · exact hs
    · exact (exec_stores c _ t h).storesOk hs
  · rcases step_cases h with rfl | ⟨c, rest, h⟩
    · exact hv
    · exact (exec_stores c _ t h).variantsOk hp hs hc hv

end Sys2Proof.Machine

end

section
/-! The state right after reset: statement O60. -/

namespace Sys2Proof.Machine

theorem entry_reset (e : EntryId) : State.reset.entry e = StepEntry.free := entry_of_initial rfl e

theorem port_reset (n : Nest) : State.reset.port n = NestPort.initial (NestConfig.default false) :=
  Vector.getElem_replicate ..

theorem profile_reset (r : Fin 64) : State.reset.profile r = ProfileRow.empty := Vector.getElem_replicate ..

theorem portsOk_reset : PortsOk State.reset := fun n => by rw [port_reset]; decide

theorem queuesOk_reset : QueuesOk State.reset := by
  refine ⟨by decide, by decide, by decide, by decide, by decide, fun r h => nomatch h⟩

theorem noticeOk_reset : NoticeOk State.reset := by
  have slots : ∀ n : Nest, State.reset.notice.slots[n.val] = Slot.none := fun n => Vector.getElem_replicate ..
  have causes : ∀ c, CauseSet.has State.reset.notice.causes c = false := by
    intro c; cases c <;> decide
  refine ⟨?_, ?_, ?_, fun n => by rw [slots]; decide⟩
  · rw [causes]; exact ⟨nofun, fun h => absurd rfl h⟩
  · rw [causes]; exact ⟨nofun, fun h => absurd rfl h⟩
  · rw [causes]
    refine ⟨nofun, fun ⟨n, hn⟩ => ?_⟩
    rw [slots] at hn; cases hn

theorem tablesOk_reset : TablesOk State.reset := by
  refine ⟨fun r => by rw [profile_reset]; decide, by rw [profile_reset]; rfl, fun i => ?_, by decide⟩
  have : State.reset.uplink.allow[i.val] = { valid := false, addr := 0 } := Vector.getElem_replicate ..
  rw [this]; decide

theorem copiesOk_reset : CopiesOk State.reset := by
  have queue : ∀ n, (State.reset.port n).queue = [] := fun n => by rw [port_reset]; rfl
  refine ⟨fun n => by rw [queue]; exact List.nodup_nil, fun n c hc => by (rw [queue] at hc; cases hc), fun e => ?_⟩
  rw [entry_reset, List.map_congr_left (g := fun _ => 0) fun n _ => by rw [queue]; rfl]
  simp [StepEntry.free]

theorem pinsOk_reset : PinsOk State.reset := by
  intro r _
  rw [profile_reset, List.countP_eq_zero.mpr fun e _ => by rw [entry_reset]; simp [StepEntry.free]]
  rfl

/-- Settles O60, invariant by invariant. -/
theorem resetMeetsInvariants : Obligations.ResetMeetsInvariants :=
  ⟨portsOk_reset, queuesOk_reset, noticeOk_reset, tablesOk_reset, storesOk_of_initial rfl rfl rfl, copiesOk_reset,
    pinsOk_reset, variantsOk_of_initial rfl rfl rfl⟩

end Sys2Proof.Machine

end

section
/-! ABORT_STREAM (R3, R146, R147): statement O27. -/

namespace Sys2Proof.Machine

theorem abortArg_ofNat (st : StreamId) : abortArg [BitVec.ofNat 8 st.val] = some st := by
  revert st; decide

theorem stream_drainStream (st x : StreamId) (s : State) : (drainStream st s).stream x =
    { s.stream x with draining := (s.stream x).draining || (decide (x = st) && decide (s.retireList st ≠ [])) } := by
  unfold drainStream
  by_cases hl : s.retireList st = []
  · simp [hl]
  · rw [if_neg hl, stream_updStream]
    by_cases hx : x = st
    · subst hx; simp [hl]
    · simp [hx]

theorem drainStream_eq (st : StreamId) (s : State) : drainStream st s = { s with streams := (drainStream st s).streams } := by
  unfold drainStream; split <;> rfl

theorem entry_markEntries (st : StreamId) (e : EntryId) (s : State) :
    (markEntries st s).entry e = { s.entry e with aborted := (s.entry e).aborted || marks st (s.entry e) } :=
  mapTable_get ..

theorem markCount_eq (st : StreamId) (s : State) : markCount st s =
    (List.finRange 64).countP (fun e => (s.entry e).state = .live && (s.entry e).stream = st) := by
  rw [markCount, toList_eq_map, List.countP_map]; rfl

/-- The state with an abort of stream `st` under way, no nest having taken its part (R146). -/
def abortStarted (r : Req) (st : StreamId) (s : State) : State :=
  { markEntries st (drainStream st s) with
    dispatcher := { (drainStream st s).dispatcher with
      task := some (.abort r st (markCount st s) 0 0 (BitVec.allOnes 32)) } }

theorem execAbortStream_asked {s : State} {f : RxFrame} {st : StreamId}
    (h : Asked s f .abortStream [BitVec.ofNat 8 st.val]) :
    execAbortStream s = .next (abortStarted (reqOf f) st (passMessage f s)) := by
  unfold execAbortStream
  rw [runRequest_asked h, abortArg_ofNat]
  rfl

/-- Settles O27: the abort drains the stream, marks its LIVE entries and leaves every nest its part. -/
theorem abortDrainsAndMarks : Obligations.AbortDrainsAndMarks := by
  intro s f st h
  refine ⟨_, execAbortStream_asked h, ?_, fun x => ?_, fun e => ?_, ?_⟩
  · rw [abortStarted, drainStream_eq]; rfl
  · exact stream_drainStream st x (passMessage f s)
  · refine (entry_markEntries st e (drainStream st (passMessage f s))).trans ?_
    rw [drainStream_eq]; rfl
  · rw [abortStarted, markCount_eq]; rfl

end Sys2Proof.Machine

end

section
/-! SEGMENT_PLACED (R133, R135, R136): statement O47. -/

namespace Sys2Proof.Machine

variable {s t u : State}

/-! ### The segments of a report (R141, R142) -/

/-- An element of part `j` of a list of lists stands in their concatenation behind the parts before it. -/
theorem getElem?_flatten_of_part {α : Type} (parts : List (List α)) (j k : Nat) {v : α}
    (h : (parts.getD j [])[k]? = some v) : parts.flatten[((parts.take j).map List.length).sum + k]? = some v := by
  induction parts generalizing j with
  | nil => simp at h
  | cons p parts ih =>
    cases j with
    | zero =>
      rw [List.getD_cons_zero] at h
      rw [List.flatten_cons, List.take_zero, List.map_nil, List.sum_nil, Nat.zero_add]
      exact List.getElem?_append_left (List.getElem?_eq_some_iff.mp h).1 ▸ h
    | succ j =>
      rw [List.flatten_cons, List.take_succ_cons, List.map_cons, List.sum_cons, Nat.add_assoc,
        List.getElem?_append_right (by omega), Nat.add_sub_cancel_left]
      exact ih j h

/-- The variants of a later segment are the entry's, each at the index its record names (R141, R142). -/
theorem nextVariants_index {r : Retirement} (hr : r.next ≠ 0) {k : Nat} {v : Variant}
    (h : (nextVariants s r)[k]? = some v) :
    (s.entry r.entry).variants[firstIndex (variantSegments (s.entry r.entry).variants) (r.next - 1) + k]? = some v := by
  rw [nextVariants, if_neg hr] at h
  have := getElem?_flatten_of_part _ _ _ h
  rwa [variantSegments_flatten] at this

theorem nextBody_variants {r : Retirement} (hr : r.next ≠ 0) : ∃ vs : List VariantRecord,
    nextBody s r = .variants vs ∧ vs.length = (nextVariants s r).length ∧
    ∀ (k : Nat) (x : VariantRecord) (v : Variant), vs[k]? = some x → (nextVariants s r)[k]? = some v →
      (s.entry r.entry).variants[x.index]? = some v ∧ x.truncated = v.truncated ∧ x.digest = v.digest ∧
      x.length = v.length ∧ x.nests = v.nests ∧ (v.cell = none → x.payload = []) ∧
      ∀ c, v.cell = some c → x.payload = s.coalesce.cells[c.val] := by
  refine ⟨_, if_neg hr, List.length_mapIdx .., fun k x v hx hv => ?_⟩
  rw [List.getElem?_mapIdx, hv] at hx
  cases hx
  exact ⟨nextVariants_index hr hv, rfl, rfl, rfl, rfl, fun h => by simp only [variantRecord, h],
    fun c h => by simp only [variantRecord, h]⟩

/-! ### The end of a retirement (R136) -/

theorem chooseCandidate_eq (s : State) : chooseCandidate s = { s with retire := (chooseCandidate s).retire } := by
  unfold chooseCandidate; split <;> rfl

/-- The first stream in rotation order with something to supply supplies it (R133). -/
theorem findSome_rotationOrder {α : Type} (g : StreamId → Option α) (r : StreamId) (k : Fin 4) (hk : g (r + k) ≠ none)
    (hj : ∀ j : Fin 4, j < k → g (r + j) = none) : (rotationOrder r).findSome? g = g (r + k) := by
  obtain ⟨v, hv⟩ := Option.ne_none_iff_exists'.mp hk
  have order : rotationOrder r = [r + 0, r + 1, r + 2, r + 3] := by rw [add_zero]; rfl
  rw [order]
  match k with
  | 0 => simp only [List.findSome?_cons, hv]
  | 1 => simp only [List.findSome?_cons, hj 0 (by decide), hv]
  | 2 => simp only [List.findSome?_cons, hj 0 (by decide), hj 1 (by decide), hv]
  | 3 => simp only [List.findSome?_cons, hj 0 (by decide), hj 1 (by decide), hj 2 (by decide), hv]

theorem entry_endRetirement (e d : EntryId) (s : State) : (endRetirement e s).entry d = if d = e
    then { s.entry d with state := .free, variants := [], clamped := false, aborted := false } else s.entry d := by
  rw [endRetirement_eq, entry_congr (chooseCandidate_table _), entry_retired]
  split
  · next h => rw [h]
  · rfl

theorem port_endRetirement (e : EntryId) (n : Nest) (s : State) : (endRetirement e s).port n =
    { s.port n with queue := (s.port n).queue.map (Copy.release e) } := by
  rw [endRetirement_eq, port_congr (chooseCandidate_ports _), retired_eq, givenBack_eq]
  exact port_releaseCopies s e n

theorem profile_endRetirement (e : EntryId) (x : Fin 64) (s : State) : (endRetirement e s).profile x =
    if x = (s.entry e).profile ∧ x ≠ 0 then { s.profile x with pins := (s.profile x).pins - 1 } else s.profile x := by
  have h : (endRetirement e s).profile x = (if (s.entry e).profile = 0 then s.judge.profiles
      else upd s.judge.profiles (s.entry e).profile (fun p => { p with pins := p.pins - 1 }))[x.val] := by
    rw [endRetirement_eq, State.profile]
    simp only [chooseCandidate_judge, retired_eq, givenBack_eq]
  rw [h]
  by_cases hp : (s.entry e).profile = 0
  · simp only [if_pos hp]
    exact (if_neg fun ⟨hx, hne⟩ => hne (hx.trans hp)).symm
  · simp only [if_neg hp]
    rw [upd_get]
    by_cases hx : x = (s.entry e).profile
    · subst hx; rw [if_pos rfl, if_pos ⟨rfl, hp⟩]; rfl
    · rw [if_neg hx, if_neg (fun h => hx h.1)]; rfl

theorem retireList_endRetirement (e : EntryId) (x : StreamId) (s : State) : (endRetirement e s).retireList x =
    if x = (s.entry e).stream then (s.retireList x).tail else s.retireList x := by
  rw [endRetirement_eq, State.retireList, chooseCandidate_retire_lists]
  exact retireList_retired e s x

theorem stream_endRetirement (e : EntryId) (x : StreamId) (s : State) : (endRetirement e s).stream x =
    if x = (s.entry e).stream ∧ (s.retireList (s.entry e).stream).tail = []
    then { s.stream x with draining := false } else s.stream x := by
  have h : (endRetirement e s).stream x = (if (s.retireList (s.entry e).stream).tail = []
      then upd s.streams (s.entry e).stream (fun y => { y with draining := false }) else s.streams)[x.val] := by
    rw [endRetirement_eq, State.stream]
    simp only [chooseCandidate_streams, retired_eq]
  rw [h]
  by_cases hl : (s.retireList (s.entry e).stream).tail = []
  · simp only [if_pos hl]
    rw [upd_get]
    by_cases hx : x = (s.entry e).stream
    · subst hx; rw [if_pos rfl, if_pos ⟨rfl, hl⟩]; rfl
    · rw [if_neg hx, if_neg (fun h => hx h.1)]; rfl
  · simp only [if_neg hl]
    exact (if_neg fun ⟨_, htail⟩ => hl htail).symm

/-- The next candidate is that of the first stream with a COMPLETE head, from the one behind the entry's (R133). -/
theorem candidate_endRetirement (e : EntryId) (s : State) (hc : s.retire.candidate = none) :
    (endRetirement e s).retire.candidate =
      (rotationOrder ((s.entry e).stream + 1)).findSome? (completeHead (endRetirement e s)) := by
  have heads : completeHead (retired e s) = completeHead (endRetirement e s) := by
    funext st
    rw [endRetirement_eq]
    exact (completeHead_congr (fun d => by rw [entry_congr (chooseCandidate_table _)]) (by simp) st).symm
  rw [← heads, endRetirement_eq, (candidate_chooseCandidate (retired e s)).2 (by rw [retired_candidate, hc])
    (retired_progress e s), retired_rotation]

theorem candidate_endRetirement_of_some (e : EntryId) (s : State) (hc : s.retire.candidate ≠ none) :
    (endRetirement e s).retire.candidate = s.retire.candidate := by
  rw [endRetirement_eq, (candidate_chooseCandidate (retired e s)).1 (.inl (by rwa [retired_candidate])),
    retired_candidate]

/-- What the end of a retirement leaves as it was, block by block. -/
theorem endRetirement_frame (e : EntryId) (s : State) : endRetirement e s = { s with
    table := { s.table with entries := (endRetirement e s).table.entries }, ports := (endRetirement e s).ports,
    judge := { s.judge with profiles := (endRetirement e s).judge.profiles },
    retire := (endRetirement e s).retire, streams := (endRetirement e s).streams,
    mgmt := { s.mgmt with counters := { s.mgmt.counters with reports := satInc s.mgmt.counters.reports } } } := by
  have h := chooseCandidate_eq (retired e s)
  rw [← endRetirement_eq] at h
  generalize (endRetirement e s).retire = retire at h
  rw [h, retired_eq, givenBack_eq]

theorem execSegmentPlaced_eq {r : Retirement} (hrun : s.phase = .running) (hr : s.retire.progress = some r) :
    execSegmentPlaced s = .next (placeSegment r s) := by
  unfold execSegmentPlaced
  simp [hr, takesPlace, State.running, hrun]

/-- The next segment at the tail of the REPORT queue, and the cells of its variants given back (R135). -/
def segmentQueued (r : Retirement) (s : State) : State :=
  freeCells (nextVariants s r) { s with uplink := { s.uplink with report := s.uplink.report ++ [nextSegment s r] } }

theorem placeSegment_last {r : Retirement} (h : r.next + 1 = r.header.segmentCount) :
    placeSegment r s = endRetirement r.entry (segmentQueued r s) := by
  have hl : isLastSegment r = true := decide_eq_true h.ge
  unfold placeSegment; dsimp only
  rw [if_pos hl]; rfl

theorem placeSegment_not_last {r : Retirement} (h : r.next + 1 < r.header.segmentCount) : placeSegment r s =
    (segmentQueued r s).updRetire (fun x => { x with progress := some { r with next := r.next + 1 } }) := by
  have hl : isLastSegment r = false := decide_eq_false (Nat.not_le.mpr h)
  unfold placeSegment; dsimp only
  rw [if_neg (by simp [hl])]; rfl

/-- Settles O47: the segment placed, and with the last the retirement ended. -/
theorem segmentPlacedAndRetirementEnds : Obligations.SegmentPlacedAndRetirementEnds := by
  intro s r hrun hr
  have run : exec .segmentPlaced s = .next (placeSegment r s) := execSegmentPlaced_eq hrun hr
  refine ⟨nextBody s r, fun h => if_pos h, fun h => ?_, fun h => ?_, fun h => ?_⟩
  · exact nextBody_variants h
  · have hl : isLastSegment r = false := decide_eq_false (Nat.not_le.mpr h)
    rw [run, placeSegment_not_last h, segmentQueued, nextSegment, hl]; rfl
  · have hl : isLastSegment r = true := decide_eq_true h.ge
    refine ⟨_, _, run, rfl, ?_⟩
    rw [placeSegment_last h]
    refine ⟨?_, fun d => entry_endRetirement .., fun n => port_endRetirement .., fun x => profile_endRetirement ..,
      fun x => retireList_endRetirement .., ?_, ?_, candidate_endRetirement_of_some r.entry (segmentQueued r s), fun hc => ?_,
      fun x => stream_endRetirement ..⟩
    · have frame := endRetirement_frame r.entry (segmentQueued r s)
      generalize endRetirement r.entry (segmentQueued r s) = t at frame ⊢
      refine frame.trans ?_
      rw [segmentQueued, nextSegment, hl]; rfl
    · rw [endRetirement_eq, chooseCandidate_retire_rotation, retired_rotation]; rfl
    · rw [endRetirement_eq, chooseCandidate_retire_progress, retired_progress]
    · rw [candidate_endRetirement r.entry (segmentQueued r s) hc]
      exact ⟨fun heads => List.findSome?_eq_none_iff.mpr fun x _ => heads x,
        fun k hk hj => findSome_rotationOrder _ _ k hk hj⟩

end Sys2Proof.Machine

end

section
/-! The ten checks of R6 and the refusal (R9, R10): statement O12. -/

namespace Sys2Proof.Machine

variable {s : State} {msg : List Byte} {q : StepReq}

theorem leAt_two_lt (msg : List Byte) (i : Nat) : leAt msg i 2 < 65536 := by
  have := leNat_lt ((List.range 2).map (fun j => byteAt msg (i + j)))
  simpa [leAt] using this

/-! ### The form of a STEP (R4, R6 reason 1) -/

/-- The fields that a STEP of good form carries (11.3). -/
structure StepDecoded (msg : List Byte) (q : StepReq) : Prop where
  stream : (byteAt msg 6).toNat = q.stream.val
  kind : targetKindOf (byteAt msg 7).toNat = some q.kind
  capture : captureOf (byteAt msg 10).toNat = some q.capture
  policy : policyOf (byteAt msg 11).toNat = some q.policy
  long : msg.length = 22 + leAt msg 20 2
  fields : q.target = (byteAt msg 8).toNat ∧ q.profile = (byteAt msg 9).toNat ∧ q.reps = (byteAt msg 12).toNat ∧
    q.number = BitVec.ofNat 16 (leAt msg 14 2) ∧ q.deadline = leAt msg 16 2 ∧ q.gap = leAt msg 18 2 ∧
    q.length = leAt msg 20 2 ∧ q.payload = msg.drop 22

theorem decodeStep_some (h : decodeStep msg = some q) : StepDecoded msg q := by
  unfold decodeStep at h; dsimp only at h
  split at h
  · split at h
    · next hl =>
      split at h
      · next hk hc hp => cases h; exact ⟨rfl, hk, hc, hp, hl, rfl, rfl, rfl, rfl, rfl, rfl, rfl, rfl⟩
      all_goals cases h
    · cases h
  · cases h

theorem targetKindOf_eq_none {c : Nat} : targetKindOf c = none ↔ 2 < c := List.getElem?_eq_none_iff

theorem captureOf_eq_none {c : Nat} : captureOf c = none ↔ 2 < c := List.getElem?_eq_none_iff

theorem policyOf_eq_none {c : Nat} : policyOf c = none ↔ 1 < c := List.getElem?_eq_none_iff

theorem decodeStep_none (h : decodeStep msg = none) : reasonHolds s msg .badForm := by
  unfold decodeStep at h; dsimp only at h
  split at h
  · split at h
    · split at h
      · cases h
      · next hk => exact .inr (.inl (targetKindOf_eq_none.mp hk))
      · next hc _ => exact .inr (.inr (.inl (captureOf_eq_none.mp hc)))
      · next hp _ _ => exact .inr (.inr (.inr (.inl (policyOf_eq_none.mp hp))))
    · next hl => exact .inr (.inr (.inr (.inr hl)))
  · next hs => exact .inl (Nat.not_lt.mp hs)

theorem StepDecoded.goodForm (d : StepDecoded msg q) : ¬reasonHolds s msg .badForm := by
  have kind : ¬2 < (byteAt msg 7).toNat := fun h => by
    have := d.kind; rw [targetKindOf_eq_none.mpr h] at this; cases this
  have capture : ¬2 < (byteAt msg 10).toNat := fun h => by
    have := d.capture; rw [captureOf_eq_none.mpr h] at this; cases this
  have policy : ¬1 < (byteAt msg 11).toNat := fun h => by
    have := d.policy; rw [policyOf_eq_none.mpr h] at this; cases this
  have stream : ¬3 < (byteAt msg 6).toNat := by rw [d.stream]; exact Nat.not_lt.mpr (Fin.is_le q.stream)
  rintro (h | h | h | h | h)
  · exact stream h
  · exact kind h
  · exact capture h
  · exact policy h
  · exact h d.long

theorem StepDecoded.stream_unique (d : StepDecoded msg q) {st : StreamId} (h : (byteAt msg 6).toNat = st.val) :
    st = q.stream := Fin.ext (h.symm.trans d.stream)

/-! ### The target set (R39) -/

theorem NestSet_has_single (n m : Nest) : NestSet.has (NestSet.single n) m = decide (m = n) := by
  have h := NestSet.has_insert 0#32 n m
  have hz : NestSet.has 0#32 m = false := by simp [NestSet.has]
  rw [hz, Bool.false_or] at h
  rw [← h, NestSet.single, NestSet.insert, BitVec.zero_or]

theorem NestSet_has_allOnes (n : Nest) : NestSet.has (BitVec.allOnes 32) n = true := by
  rw [NestSet.has, BitVec.getLsbD_allOnes]; exact decide_eq_true n.isLt

/-- A nest set is empty when it holds no nest. -/
theorem NestSet_eq_zero_iff (S : NestSet) : S = 0#32 ↔ ∀ n : Nest, NestSet.has S n = false := by
  constructor
  · rintro rfl n; simp [NestSet.has]
  · intro h
    apply BitVec.eq_of_getLsbD_eq
    intro i hi
    rw [BitVec.getLsbD_zero]; exact h ⟨i, hi⟩

theorem code_of_targetKind {c : Nat} {k : TargetKind} (h : targetKindOf c = some k) :
    c = codeIn [.nest, .group, .all] k := by
  match c with
  | 0 => cases h; rfl
  | 1 => cases h; rfl
  | 2 => cases h; rfl
  | c + 3 => cases h

theorem inTarget_nest (h : (byteAt msg 7).toNat = 0) (n : Nest) : inTarget s msg n ↔ (byteAt msg 8).toNat = n.val := by
  simp [inTarget, h]

theorem inTarget_group (h : (byteAt msg 7).toNat = 1) (n : Nest) :
    inTarget s msg n ↔ ∃ g : Fin 64, (byteAt msg 8).toNat = g.val ∧ s.groups[g.val].getLsbD n.val = true := by
  simp [inTarget, h]

theorem inTarget_all (h : (byteAt msg 7).toNat = 2) (n : Nest) : inTarget s msg n := .inr (.inr h)

/-- What the target of a STEP resolves to (R6 reason 5, R39). -/
def TargetFits (s : State) (msg : List Byte) : Option NestSet → Prop
  | some target => (∀ n : Nest, NestSet.has target n = true ↔ inTarget s msg n) ∧ ∃ n : Nest, inTarget s msg n
  | none => ∀ n : Nest, ¬inTarget s msg n

/-- The target set is that of the STEP, and a target set that holds no nest is refused (R6 reason 5, R39). -/
theorem resolveTarget_fits (d : StepDecoded msg q) : TargetFits s msg (resolveTarget s q.kind q.target) := by
  have code := code_of_targetKind d.kind
  obtain ⟨htarget, -⟩ := d.fields
  unfold resolveTarget
  rw [htarget]
  cases hk : q.kind <;> rw [hk] at code <;> dsimp only
  case nest =>
    have mem := inTarget_nest (s := s) code
    split
    · next hv =>
      refine ⟨fun n => ?_, ⟨_, hv⟩, (mem _).mpr rfl⟩
      rw [mem, NestSet_has_single, decide_eq_true_iff, Fin.ext_iff, eq_comm]
    · next hv => exact fun n hn => hv ((mem n).mp hn ▸ n.isLt)
  case group =>
    have mem := inTarget_group (s := s) code
    split
    · next hv =>
      have mem' : ∀ n, inTarget s msg n ↔ NestSet.has s.groups[(byteAt msg 8).toNat] n = true := fun n => by
        rw [mem]
        constructor
        · rintro ⟨g, hg, hn⟩; simp only [hg]; exact hn
        · exact fun hn => ⟨⟨_, hv⟩, rfl, hn⟩
      split
      · next hz =>
        intro n hn
        rw [mem', hz] at hn; simp [NestSet.has] at hn
      · next hz =>
        refine ⟨fun n => (mem' n).symm, ?_⟩
        by_contra hne
        refine hz ((NestSet_eq_zero_iff _).mpr fun n => ?_)
        exact Bool.eq_false_iff.mpr fun hn => hne ⟨n, (mem' n).mpr hn⟩
    · next hv =>
      intro n hn
      obtain ⟨g, hg, -⟩ := (mem n).mp hn
      exact hv (hg ▸ g.isLt)
  case all =>
    exact ⟨fun n => ⟨fun _ => inTarget_all code n, fun _ => NestSet_has_allOnes n⟩, 0, inTarget_all code 0⟩

/-! ### The profile row and the room (R6 reasons 6 to 10) -/

/-- A row found is the STEP's, and judges it; without one BAD_PROFILE holds (R6 reason 6). -/
theorem profileRow_some {r : Fin 64} (h : profileRow s (byteAt msg 9).toNat = some r) :
    (byteAt msg 9).toNat = r.val ∧ ¬reasonHolds s msg .badProfile := by
  unfold profileRow at h
  split at h
  · next hv =>
    split at h
    · next hd =>
      cases h
      refine ⟨rfl, fun ⟨hne, hno⟩ => ?_⟩
      rcases hd with hz | hd
      · exact hne (BitVec.eq_of_toNat_eq hz)
      · exact hno ⟨_, rfl, hd⟩
    · cases h
  · cases h

theorem profileRow_none (h : profileRow s (byteAt msg 9).toNat = none) : reasonHolds s msg .badProfile := by
  unfold profileRow at h
  refine ⟨fun hz => ?_, fun ⟨r, hr, hd⟩ => ?_⟩
  · rw [hz] at h; simp at h
  · rw [dif_pos (hr ▸ r.isLt)] at h
    simp only [hr, Fin.eta, hd, or_true, if_true] at h
    cases h

theorem freeEntries_eq_zero_iff : freeEntries s = 0 ↔ reasonHolds s msg .noEntry := by
  rw [freeEntries, toList_eq_map, List.countP_map, List.countP_eq_zero]
  exact ⟨fun h e he => h e (List.mem_finRange e) (decide_eq_true he), fun h e _ he => h e (of_decide_eq_true he)⟩

/-- The first place at which a predicate holds, in a list of all places. -/
theorem find?_finRange_eq_some {k : Nat} {p : Fin k → Bool} {n : Fin k} :
    (List.finRange k).find? p = some n ↔ p n = true ∧ ∀ m, m < n → p m = false := by
  rw [List.find?_eq_some_iff_append]
  constructor
  · rintro ⟨hn, as, bs, heq, hno⟩
    refine ⟨hn, fun m hm => ?_⟩
    have sorted := List.pairwise_lt_finRange k
    have hmem := List.mem_finRange m
    rw [heq] at sorted hmem
    obtain ⟨-, hbs, -⟩ := List.pairwise_append.mp sorted
    rcases List.mem_append.mp hmem with hin | hin
    · simpa using hno m hin
    · rcases List.mem_cons.mp hin with rfl | hin
      · exact absurd hm (lt_irrefl _)
      · exact absurd hm (lt_asymm ((List.pairwise_cons.mp hbs).1 m hin))
  · rintro ⟨hn, hno⟩
    obtain ⟨as, bs, heq⟩ := List.append_of_mem (List.mem_finRange n)
    refine ⟨hn, as, bs, heq, fun m hm => ?_⟩
    have sorted := List.pairwise_lt_finRange k
    rw [heq] at sorted
    obtain ⟨-, -, hlt⟩ := List.pairwise_append.mp sorted
    simp [hno m (hlt m hm n (List.mem_cons_self ..))]

/-- The nest that a step finds busy is the first full one (R6 reason 10). -/
theorem fullNest_eq (s : State) (target : NestSet) : fullNest s target =
    allNests.find? (fun n => NestSet.has target n && (isClear s n && Config.queueCapacity ≤ (s.port n).queue.length)) :=
  (List.find?_filter ..).trans (by simp only [Bool.decide_and, Bool.decide_eq_true])

theorem isFull_iff {target : NestSet} (ht : ∀ n : Nest, NestSet.has target n = true ↔ inTarget s msg n) (n : Nest) :
    (NestSet.has target n && (isClear s n && Config.queueCapacity ≤ (s.port n).queue.length)) = true ↔
      isFull s msg n := by
  rw [Bool.and_eq_true, Bool.and_eq_true, ht, isClear, decide_eq_true_iff, decide_eq_true_iff]
  exact Iff.rfl

/-! ### The ten checks, in order (R6) -/

theorem RefusalReason.index_injective {a b : RefusalReason} (h : a.index = b.index) : a = b := by
  revert a b
  have all : ∀ i : Fin 10, ∀ a : RefusalReason, a.index = i → a = [RefusalReason.badForm, .lotClosed, .draining,
      .sequence, .badTarget, .badProfile, .tooLong, .noEntry, .noSpace, .nestBusy][i] := by
    intro i a h; subst h; cases a <;> rfl
  intro a b h
  rw [all _ a rfl, all _ b h.symm]

/-- No reason before the `k`-th holds. -/
def NoneBefore (s : State) (msg : List Byte) (k : Nat) : Prop :=
  ∀ q : RefusalReason, q.index.val < k → ¬reasonHolds s msg q

theorem NoneBefore.zero (s : State) (msg : List Byte) : NoneBefore s msg 0 := fun _ h => absurd h (Nat.not_lt_zero _)

/-- One more check passed. -/
theorem NoneBefore.pass {s : State} {msg : List Byte} (q : RefusalReason) (h : NoneBefore s msg q.index.val)
    (hq : ¬reasonHolds s msg q) : NoneBefore s msg (q.index.val + 1) := fun p hp => by
  rcases Nat.lt_succ_iff_lt_or_eq.mp hp with hlt | heq
  · exact h p hlt
  · exact RefusalReason.index_injective (Fin.ext heq) ▸ hq

/-- What the checks make of a STEP (R6): the first reason that holds, with its detail, or the fields, the target set
and the row of a STEP for which none does. -/
def CheckFits (s : State) (msg : List Byte) : IntakeResult → Prop
  | .refuse r detail => reasonHolds s msg r ∧ NoneBefore s msg r.index.val ∧ (r ≠ .nestBusy → detail = 0) ∧
      (r = .nestBusy → ∃ n : Nest, detail = n.val ∧ isFull s msg n ∧ ∀ m : Nest, m < n → ¬isFull s msg m)
  | .accept q target row => NoneBefore s msg 10 ∧ StepDecoded msg q ∧ (byteAt msg 9).toNat = row.val ∧
      ∀ n : Nest, NestSet.has target n = true ↔ inTarget s msg n

theorem checkRoom_fits (d : StepDecoded msg q) {target : NestSet} {row : Fin 64}
    (ht : ∀ n : Nest, NestSet.has target n = true ↔ inTarget s msg n) (hrow : (byteAt msg 9).toNat = row.val)
    (before : NoneBefore s msg 6) : CheckFits s msg (checkRoom s q target row) := by
  obtain ⟨-, -, -, -, -, -, hlen, -⟩ := d.fields
  unfold checkRoom
  rw [hlen]
  split
  · next h => exact ⟨h, before, fun _ => rfl, nofun⟩
  · next h =>
    have before := before.pass .tooLong h
    split
    · next h => exact ⟨freeEntries_eq_zero_iff.mp h, before, fun _ => rfl, nofun⟩
    · next h =>
      have before := before.pass .noEntry (fun hh => h (freeEntries_eq_zero_iff.mpr hh))
      split
      · next h => exact ⟨h, before, fun _ => rfl, nofun⟩
      · next h =>
        have before := before.pass .noSpace h
        rw [fullNest_eq]
        split
        · next n hn =>
          obtain ⟨hfull, hfirst⟩ := find?_finRange_eq_some.mp hn
          have full := (isFull_iff ht n).mp hfull
          refine ⟨⟨n, full⟩, before, fun hne => absurd rfl hne, fun _ => ⟨n, rfl, full, fun m hm hm' => ?_⟩⟩
          exact Bool.eq_false_iff.mp (hfirst m hm) ((isFull_iff ht m).mpr hm')
        · next hn =>
          refine ⟨before.pass .nestBusy ?_, d, hrow, ht⟩
          rintro ⟨n, hn'⟩
          exact List.find?_eq_none.mp hn n (mem_allNests n) ((isFull_iff ht n).mpr hn')

/-- The ten checks find the first reason that holds, or none (R6). -/
theorem checkStep_fits (s : State) (msg : List Byte) : CheckFits s msg (checkStep s msg) := by
  unfold checkStep
  split
  · next h => exact ⟨decodeStep_none h, .zero s msg, fun _ => rfl, nofun⟩
  next q hq =>
  have d := decodeStep_some hq
  obtain ⟨-, hprofile, -, hnumber, -⟩ := d.fields
  have before := (NoneBefore.zero s msg).pass .badForm d.goodForm
  split
  · next h => exact ⟨h, before, fun _ => rfl, nofun⟩
  next h =>
  have before := before.pass .lotClosed h
  split
  · next h => exact ⟨⟨q.stream, d.stream, h⟩, before, fun _ => rfl, nofun⟩
  next h =>
  have before := before.pass .draining fun ⟨st, hst, hd⟩ => h (d.stream_unique hst ▸ hd)
  have number : q.number = (s.stream q.stream).expected ↔ leAt msg 14 2 = (s.stream q.stream).expected.toNat := by
    rw [hnumber, ← BitVec.toNat_inj, BitVec.toNat_ofNat, Nat.mod_eq_of_lt (leAt_two_lt msg 14)]
  split
  · next h => exact ⟨⟨q.stream, d.stream, fun hn => h (number.mpr hn)⟩, before, fun _ => rfl, nofun⟩
  next h =>
  have before := before.pass .sequence fun ⟨st, hst, hd⟩ =>
    h fun hn => hd (d.stream_unique hst ▸ number.mp hn)
  have target := resolveTarget_fits (s := s) d
  split
  · next ht =>
    rw [ht] at target
    exact ⟨fun ⟨n, hn⟩ => target n hn, before, fun _ => rfl, nofun⟩
  next ht =>
  rw [ht] at target
  obtain ⟨mem, some_⟩ := target
  have before := before.pass .badTarget fun hno => hno some_
  rw [hprofile]
  split
  · next hr => exact ⟨profileRow_none hr, before, fun _ => rfl, nofun⟩
  next hr =>
  obtain ⟨hrow, hgood⟩ := profileRow_some hr
  exact checkRoom_fits d mem hrow (before.pass .badProfile hgood)

end Sys2Proof.Machine

end

section
namespace Sys2Proof.Machine

variable {s : State} {f : RxFrame}

/-- A STEP at the Dispatcher is taken whole (R6, R177). -/
theorem execStep_eq (h : AtDispatcher s f) (hc : byteAt f.msg 1 = 1#8) :
    execStep s = .next (finishMessage (takeStep f (passMessage f s))) := by
  have : headStep s = some f := by
    simp [headStep, h.headMessage, classOf, classStep, hc]
  unfold execStep; rw [this]

theorem checkStep_passMessage (s : State) (f : RxFrame) (msg : List Byte) :
    checkStep (passMessage f s) msg = checkStep s msg := rfl

/-- The checks refuse a STEP with its first reason (R6). -/
theorem checkStep_of_first {msg : List Byte} {r : RefusalReason} (hr : reasonHolds s msg r)
    (hfirst : ∀ q : RefusalReason, q.index < r.index → ¬reasonHolds s msg q) : ∃ detail,
    checkStep s msg = .refuse r detail ∧ (r ≠ .nestBusy → detail = 0) ∧
    (r = .nestBusy → ∃ n : Nest, detail = n.val ∧ isFull s msg n ∧ ∀ m : Nest, m < n → ¬isFull s msg m) := by
  have fits := checkStep_fits s msg
  cases h : checkStep s msg with
  | refuse r' detail =>
    rw [h] at fits
    obtain ⟨holds, before, zero, busy⟩ := fits
    have : r' = r := by
      apply RefusalReason.index_injective
      rcases lt_trichotomy r'.index r.index with hlt | heq | hgt
      · exact absurd holds (hfirst r' hlt)
      · exact heq
      · exact absurd hr (before r hgt)
    subst this
    exact ⟨detail, rfl, zero, busy⟩
  | accept q target row =>
    rw [h] at fits
    exact absurd hr (fits.1 r r.index.isLt)

theorem refusalExpected_of_stream {stream : Byte} {st : StreamId} (h : stream.toNat = st.val) :
    refusalExpected s stream = (s.stream st).expected := by
  unfold refusalExpected
  rw [dif_pos (h ▸ st.isLt)]
  simp only [h]

/-- Settles O12: the ten checks find the first reason that holds, and the refusal is what that reason leaves. -/
theorem firstReasonRefusesStep : Obligations.FirstReasonRefusesStep := by
  intro s f r hat hc hr hfirst
  obtain ⟨detail, hcheck, zero, busy⟩ := checkStep_of_first hr hfirst
  refine ⟨detail, refusalExpected s (byteAt f.msg 6), zero, busy, fun st => refusalExpected_of_stream,
    fun h => dif_neg (by omega), ?_⟩
  have run : exec .step s = _ := execStep_eq hat hc
  rw [run, takeStep, checkStep_passMessage, hcheck]
  dsimp only
  unfold refuseStep
  by_cases hroom : s.uplink.response.length < 8
  · simp only [if_pos hroom]
    rw [if_pos (by exact hroom)]; rfl
  · simp only [if_neg hroom]
    rw [if_neg (by exact hroom)]; rfl

end Sys2Proof.Machine

end

section
/-! Acceptance whole, its fan-out and the copies that end ABSENT within it (R12, R41, R45): statements O13 and O14. -/

namespace Sys2Proof.Machine

variable {s t u : State} {e : EntryId}

/-! ### The absence rule on a nest that holds one copy alone (R45, R79) -/

/-- A port as the absence rule leaves it (R79). -/
def idledPort (p : NestPort) : NestPort :=
  { p with queue := [], deadline := .stopped, gap := .stopped, grace := .stopped, service := .idle }

/-- The nests of `l` hold one copy each, QUEUED and of entry `e`, whose runs have not begun. -/
def HoldOneCopy (e : EntryId) (l : List Nest) (s : State) : Prop :=
  ∀ n ∈ l, ∃ c : Copy, (s.port n).queue = [c] ∧ c.entry = e ∧ c.runs = 0 ∧ c.state = .queued

/-- The record of a copy that ends ABSENT before a run (R46, R106). -/
def absentRecord (s : State) (e : EntryId) (n : Nest) : Record :=
  { s.record e n with outcome := some .absent, runs := 0, slots := unjudgedSlots s e }

/-- An entry of which `k` copies have ended (R19, R129). -/
def endedEntry (k : Nat) (s : State) (e : EntryId) : StepEntry :=
  { s.entry e with
    pending := (s.entry e).pending - k,
    state := if 0 < k ∧ (s.entry e).pending ≤ k ∧ (s.entry e).state = .live then .complete else (s.entry e).state,
    blocks := if 0 < k ∧ s.payload.refs[e.val] ≤ k then [] else (s.entry e).blocks }

/-- Entry `e` is at the head of a retire list. -/
def Heads (s : State) (e : EntryId) : Prop := ∃ st : StreamId, (s.retireList st).head? = some e

/-- The one copy of entry `e` on each nest of `l` has ended ABSENT (R45): what that leaves, part by part. -/
structure EndedAbsent (e : EntryId) (l : List Nest) (s t : State) : Prop where
  frame : t = { s with
    ports := t.ports, lot := { s.lot with nests := t.lot.nests },
    judge := { s.judge with records := t.judge.records },
    payload := { s.payload with free := t.payload.free, refs := t.payload.refs },
    table := { s.table with entries := t.table.entries },
    retire := { s.retire with candidate := t.retire.candidate } }
  port : ∀ n : Nest, t.port n = if n ∈ l then idledPort (s.port n) else s.port n
  lotNest : ∀ n : Nest, t.lotNest n =
    if n ∈ l then { s.lotNest n with outcomes := (s.lotNest n).outcomes ++ [(e, .absent)] } else s.lotNest n
  record : ∀ (d : EntryId) (n : Nest), t.record d n = if d = e ∧ n ∈ l then absentRecord s e n else s.record d n
  entry : ∀ d : EntryId, t.entry d = if d = e then endedEntry l.length s e else s.entry d
  refs : ∀ d : EntryId, t.payload.refs[d.val] =
    if d = e then s.payload.refs[e.val] - l.length else s.payload.refs[d.val]
  free : t.payload.free =
    s.payload.free ++ (if 0 < l.length ∧ s.payload.refs[e.val] ≤ l.length then (s.entry e).blocks else [])
  kept : s.retire.candidate ≠ none ∨ s.retire.progress ≠ none → t.retire.candidate = s.retire.candidate
  chosen : s.retire.candidate = none → s.retire.progress = none → (∀ st : StreamId, completeHead s st = none) →
    ∀ d : EntryId, t.retire.candidate = some d ↔
      d = e ∧ 0 < l.length ∧ (s.entry e).state = .live ∧ (s.entry e).pending ≤ l.length ∧ Heads s e

theorem EndedAbsent.nil (e : EntryId) (s : State) : EndedAbsent e [] s s where
  frame := rfl
  port := by simp
  lotNest := by simp
  record := by simp
  entry d := by
    split
    · next hd => subst hd; simp [endedEntry]
    · rfl
  refs d := by split <;> simp_all
  free := by simp
  kept _ := rfl
  chosen h _ _ d := by simp [h]

theorem endsHead_iff {c : Copy} : endsHead s c = true ↔
    (s.entry c.entry).state = .live ∧ (s.entry c.entry).pending ≤ 1 ∧ Heads s c.entry := by
  simp [endsHead, Heads, and_assoc]

/-- The absence rule on a nest that holds one copy alone ends that copy and nothing else. -/
theorem absenceRule_of_single {n : Nest} {c : Copy} (hq : (s.port n).queue = [c]) (hc : c.state = .queued) :
    absenceRule n s = finishCopy n c.entry c.runs .absent (s.updPort n idledPort) := by
  unfold absenceRule
  simp only [hq]
  rw [List.filter_cons_of_pos (by simp [hc])]; rfl

theorem endedAbsent_one (n : Nest) (h : HoldOneCopy e [n] s) : EndedAbsent e [n] s (absenceRule n s) := by
  obtain ⟨c, hq, rfl, hr, hc⟩ := h n (List.mem_singleton_self n)
  obtain ⟨⟨frame, -, -⟩, notice, -⟩ := absenceRule_spec s n
  have ended := absenceRule_of_single hq hc
  rw [notice] at frame
  have port : ∀ m, (s.updPort n idledPort).port m = if m = n then idledPort (s.port m) else s.port m := fun m => by
    rw [port_updPort]
    by_cases hm : m = n
    · subst hm; simp
    · simp [hm]
  have record : ∀ d m, (s.updPort n idledPort).record d m = s.record d m := fun _ _ => rfl
  have slots : unjudgedSlots (s.updPort n idledPort) c.entry = unjudgedSlots s c.entry := rfl
  have entry : ∀ d, (s.updPort n idledPort).entry d = s.entry d := fun _ => rfl
  have payload : (s.updPort n idledPort).payload = s.payload := rfl
  have retire : (s.updPort n idledPort).retire = s.retire := rfl
  have lotNest : ∀ m, (s.updPort n idledPort).lotNest m = s.lotNest m := fun _ => rfl
  have head : ∀ st, completeHead (s.updPort n idledPort) st = completeHead s st := fun _ => rfl
  have ends : endsHead (s.updPort n idledPort) c = endsHead s c := rfl
  generalize s.updPort n idledPort = v at ended port record slots entry payload retire lotNest head ends
  refine ⟨frame, fun m => ?_, fun m => ?_, fun d m => ?_, fun d => ?_, fun d => ?_, ?_, ?_, ?_⟩
  · rw [ended, port_finishCopy, port]; simp only [List.mem_singleton]
  · rw [ended, lotNest_finishCopy, lotNest, lotNest]
    simp only [List.mem_singleton]
    split
    · next hm => rw [hm]
    · rfl
  · rw [ended, record_finishCopy, record, record, hr, slots]
    simp only [List.mem_singleton]
    split
    · next hm => rw [hm.2]; rfl
    · rfl
  · rw [ended, entry_finishCopy, entry, entry, payload]
    split
    · simp only [endedEntry, List.length_singleton, Nat.sub_eq_zero_iff_le, Nat.zero_lt_one, true_and]
    · rfl
  · rw [ended, refs_finishCopy, payload]; rfl
  · rw [ended, free_finishCopy, payload, entry]; simp
  · rw [ended, ← retire]; exact (candidate_finishCopy v n _ _ _).1
  · intro hcand hprog hheads d
    rw [ended, hr]
    have := (candidate_endsHead v n c .absent (by rw [retire, hcand]) (by rw [retire, hprog])
      (fun st => (head st).trans (hheads st))).1
    rw [hr] at this
    rw [this, ends, Option.ite_none_right_eq_some, endsHead_iff]
    rw [Option.some.injEq, and_comm, @eq_comm _ d]
    simp

theorem EndedAbsent.holdOneCopy {n : Nest} {l : List Nest} (k : EndedAbsent e [n] s t) (hn : n ∉ l)
    (h : HoldOneCopy e (n :: l) s) : HoldOneCopy e l t := fun m hm => by
  rw [k.port, if_neg (by rintro hmn; exact hn (List.mem_singleton.mp hmn ▸ hm))]
  exact h m (List.mem_cons_of_mem n hm)

theorem EndedAbsent.retireList {l : List Nest} (k : EndedAbsent e l s t) (st : StreamId) :
    t.retireList st = s.retireList st := by rw [k.frame]; rfl

/-- A count lowered by `k` and then by `j` has reached 0 exactly when it reaches 0 lowered by both at once. -/
theorem ite_lowered_twice {α : Type} (j k m : Nat) (a b : α) :
    (if 0 < j ∧ m - k ≤ j then a else if 0 < k ∧ m ≤ k then a else b) = if 0 < k + j ∧ m ≤ k + j then a else b := by
  split_ifs <;> first | rfl | omega

/-- `k` copies of an entry ended, and then `j` more. -/
theorem endedEntry_add (j k : Nat) (h : t.entry e = endedEntry k s e)
    (hrefs : t.payload.refs[e.val] = s.payload.refs[e.val] - k) : endedEntry j t e = endedEntry (k + j) s e := by
  have blocks := ite_lowered_twice j k s.payload.refs[e.val] [] (s.entry e).blocks
  have state := ite_lowered_twice j k (s.entry e).pending EntryState.complete (s.entry e).state
  unfold endedEntry
  rw [h, hrefs]
  unfold endedEntry
  dsimp only
  rw [blocks, Nat.sub_sub]
  congr 1
  by_cases hl : (s.entry e).state = .live
  · simp only [hl, and_true] at state ⊢
    rw [← state]
    by_cases hk : 0 < k ∧ (s.entry e).pending ≤ k
    · simp [hk]
    · simp [hk]
  · simp [hl]

/-- A head that one copy's end made COMPLETE is the candidate. -/
theorem EndedAbsent.completeHead_none {n : Nest} (h : EndedAbsent e [n] s t) (hs : ∀ st, completeHead s st = none)
    (hno : ¬((s.entry e).state = .live ∧ (s.entry e).pending ≤ 1 ∧ Heads s e)) (st : StreamId) :
    completeHead t st = none := by
  rw [Option.eq_none_iff_forall_ne_some]
  intro d hd
  obtain ⟨hhead, hstate⟩ := (completeHead_eq_some t).mp hd
  rw [h.retireList] at hhead
  have before : (s.entry d).state = .complete := by
    rw [h.entry] at hstate
    by_cases hde : d = e
    · subst hde
      rw [if_pos rfl] at hstate
      dsimp only [endedEntry] at hstate
      split at hstate
      · next hl => exact absurd ⟨hl.2.2, hl.2.1, st, hhead⟩ hno
      · exact hstate
    · rwa [if_neg hde] at hstate
  have := (completeHead_eq_some s).mpr ⟨hhead, before⟩
  rw [hs] at this; cases this

theorem EndedAbsent.cons {n : Nest} {l : List Nest} (hn : n ∉ l) (h : EndedAbsent e [n] s t)
    (k : EndedAbsent e l t u) : EndedAbsent e (n :: l) s u := by
  have slots : unjudgedSlots t e = unjudgedSlots s e := by
    have profile : (t.entry e).profile = (s.entry e).profile := by rw [h.entry, if_pos rfl]; rfl
    have row : ∀ r, t.profile r = s.profile r := fun r => by rw [h.frame]; rfl
    unfold unjudgedSlots
    dsimp only
    rw [profile, row]
  have refs := h.refs e
  rw [if_pos rfl] at refs
  have entry := h.entry e
  rw [if_pos rfl] at entry
  refine ⟨?_, fun m => ?_, fun m => ?_, fun d m => ?_, fun d => ?_, fun d => ?_, ?_, ?_, ?_⟩
  · rw [k.frame, h.frame]
  · rw [k.port, h.port]
    by_cases hm : m = n
    · subst hm; simp [hn]
    · simp [hm]
  · rw [k.lotNest, h.lotNest]
    by_cases hm : m = n
    · subst hm; simp [hn]
    · simp [hm]
  · rw [k.record, absentRecord, slots, h.record, h.record]
    by_cases hm : m = n
    · subst hm; simp [hn]
    · simp [hm]; rfl
  · rw [k.entry, h.entry]
    split
    · rw [endedEntry_add l.length 1 entry refs, List.length_cons, Nat.add_comm]
    · rfl
  · rw [k.refs, h.refs, h.refs, if_pos rfl, List.length_cons]
    split
    · simp; omega
    · rfl
  · rw [k.free, h.free, refs, entry, List.append_assoc]
    simp only [endedEntry, List.length_cons, List.length_nil, Nat.zero_add, Nat.succ_pos, true_and]
    by_cases hr : s.payload.refs[e.val] ≤ 1
    · have : s.payload.refs[e.val] ≤ l.length + 1 := by omega
      simp [hr, this]
    · have : (0 < l.length ∧ s.payload.refs[e.val] - 1 ≤ l.length) ↔
          s.payload.refs[e.val] ≤ l.length + 1 := by omega
      rw [if_neg hr, if_neg hr, List.nil_append]
      simp only [this]
  · intro hc
    rw [k.kept, h.kept hc]
    rw [h.kept hc, h.frame]; exact hc
  · intro hcand hprog hheads d
    have prog : t.retire.progress = none := by rw [h.frame]; exact hprog
    have one := h.chosen hcand hprog hheads
    have heads : Heads t e ↔ Heads s e := by simp only [Heads, h.retireList]
    by_cases hends : (s.entry e).state = .live ∧ (s.entry e).pending ≤ 1 ∧ Heads s e
    · have : t.retire.candidate = some e := (one e).mpr ⟨rfl, Nat.zero_lt_one, hends⟩
      obtain ⟨hlive, hp, hhead⟩ := hends
      rw [k.kept (.inl (by rw [this]; nofun)), one]
      simp only [List.length_cons, List.length_nil, hlive, hhead]
      have : (s.entry e).pending ≤ l.length + 1 := by omega
      simp [hp, this]
    · have none_ : t.retire.candidate = none :=
        Option.eq_none_iff_forall_ne_some.mpr fun d hd => hends ((one d).mp hd).2.2
      rw [k.chosen none_ prog (h.completeHead_none hheads hends), heads, entry]
      dsimp only [endedEntry]
      by_cases hhead : Heads s e
      · by_cases hlive : (s.entry e).state = .live
        · have hp : ¬(s.entry e).pending ≤ 1 := fun hp => hends ⟨hlive, hp, hhead⟩
          simp only [hhead, hlive, List.length_cons, List.length_nil, hp]
          simp
          omega
        · simp [hlive]
      · simp [hhead]

/-- Nests that hold one copy of `e` each, all ended by the absence rule (R45). -/
theorem endedAbsent_foldl (l : List Nest) (hl : l.Nodup) (h : HoldOneCopy e l s) :
    EndedAbsent e l s (l.foldl (fun t n => absenceRule n t) s) := by
  induction l generalizing s with
  | nil => exact .nil e s
  | cons n l ih =>
    obtain ⟨hn, hl⟩ := List.nodup_cons.mp hl
    have one := endedAbsent_one n (fun m hm => h m (List.mem_singleton.mp hm ▸ List.mem_cons_self))
    exact .cons hn one (ih hl (one.holdOneCopy hn h))

end Sys2Proof.Machine

end

section
namespace Sys2Proof.Machine

variable {s t u v : State} {e : EntryId} {q : StepReq} {target : NestSet} {r : Fin 64}

/-! ### Acceptance whole (R12, R45): what it leaves, part by part -/

/-- The copies left of a step with `k` of its copies ended (R12, R45). -/
def copiesLeft (target : NestSet) (s : State) (k : Nat) : Nat := (clearTargets target s).length - k

/-- The entry as acceptance leaves it, with `k` copies left of it: COMPLETE and without blocks if there is none
(R12, R19). -/
def acceptedEntry (q : StepReq) (target : NestSet) (r : Fin 64) (k : Nat) (s : State) : StepEntry :=
  { filledEntry q target r k s with
    state := if k = 0 then .complete else .live,
    blocks := if k = 0 then [] else s.payload.free.take (blocksNeeded q.length) }

/-- The record of a target nest after acceptance, the copies of the nests of `absent` having ended (R41, R42, R45). -/
def acceptedRecord (e : EntryId) (q : StepReq) (target : NestSet) (r : Fin 64) (s : State) (absent : List Nest)
    (n : Nest) : Record :=
  let slots := unjudgedSlots (fillEntry e q target r (clearTargets target s).length s) e
  if n ∈ absent then { Record.cleared with outcome := some .absent, slots := slots }
  else if isClear s n = true then Record.cleared
  else { Record.cleared with outcome := some .skipped, slots := slots }

/-- The causes set after acceptance: PAYLOAD_LOW with them if it takes blocks across the threshold (R20). -/
def acceptedCauses (q : StepReq) (target : NestSet) (s : State) : CauseSet :=
  if (clearTargets target s).length ≠ 0 ∧ s.mgmt.settings.payloadLow ≤ s.payload.free.length ∧
      (s.payload.free.drop (blocksNeeded q.length)).length < s.mgmt.settings.payloadLow
  then s.notice.causes ||| 16#7 else s.notice.causes

/-- What acceptance changes: the parts of `t` named here, and of `s` the rest (R2, R12, R16, R18, R20). -/
def acceptedFrame (e : EntryId) (q : StepReq) (target : NestSet) (r : Fin 64) (s t : State) : State :=
  { s with
    table := { entries := t.table.entries, alloc := e + 1 },
    payload := { blocks := writeBlocks (s.payload.free.take (blocksNeeded q.length)) q.payload s.payload.blocks,
                 free := t.payload.free, refs := t.payload.refs },
    ports := t.ports, lot := { s.lot with nests := t.lot.nests },
    judge := { s.judge with
      profiles := if r = 0 then s.judge.profiles else upd s.judge.profiles r (fun p => { p with pins := p.pins + 1 }),
      records := t.judge.records },
    retire := { s.retire with lists := upd s.retire.lists q.stream (fun l => l ++ [e]),
                              candidate := t.retire.candidate },
    streams := upd s.streams q.stream (fun x => { x with expected := x.expected + 1 }),
    mgmt := { s.mgmt with counters := { s.mgmt.counters with stepsAccepted := satInc s.mgmt.counters.stepsAccepted } },
    notice := { s.notice with causes := acceptedCauses q target s } }

/-- Acceptance (R12), with the copies of the nests of `absent` ended (R45). -/
structure Acceptance (e : EntryId) (q : StepReq) (target : NestSet) (r : Fin 64) (absent : List Nest)
    (s t : State) : Prop where
  frame : t = acceptedFrame e q target r s t
  port : ∀ n : Nest, t.port n = if n ∈ clearTargets target s ∧ n ∉ absent
    then { s.port n with queue := (s.port n).queue ++ [queuedCopy e q.stream q.number] } else s.port n
  lotNest : ∀ n : Nest, t.lotNest n = if n ∈ absent
    then { s.lotNest n with outcomes := (s.lotNest n).outcomes ++ [(e, .absent)] } else s.lotNest n
  record : ∀ (d : EntryId) (n : Nest), t.record d n = if d = e ∧ n ∈ NestSet.toList target
    then acceptedRecord e q target r s absent n else s.record d n
  entry : ∀ d : EntryId, t.entry d =
    if d = e then acceptedEntry q target r (copiesLeft target s absent.length) s else s.entry d
  refs : ∀ d : EntryId, t.payload.refs[d.val] =
    if d = e then copiesLeft target s absent.length else s.payload.refs[d.val]
  free : t.payload.free = s.payload.free.drop (blocksNeeded q.length) ++
    (if copiesLeft target s absent.length = 0 then s.payload.free.take (blocksNeeded q.length) else [])
  kept : s.retire.candidate ≠ none ∨ s.retire.progress ≠ none → t.retire.candidate = s.retire.candidate
  chosen : s.retire.candidate = none → s.retire.progress = none → (∀ st : StreamId, completeHead s st = none) →
    ¬Heads s e → ∀ d : EntryId, t.retire.candidate = some d ↔
      d = e ∧ copiesLeft target s absent.length = 0 ∧ s.retireList q.stream = []

/-- Entry `e` filled as `x` and put at the tail of its stream's list, and no other entry changed (R12, R130). -/
structure Joined (e : EntryId) (x : StepEntry) (s u : State) : Prop where
  entry : u.entry e = x
  others : ∀ d : EntryId, d ≠ e → u.entry d = s.entry d
  lists : ∀ st : StreamId, u.retireList st = s.retireList st ++ (if st = x.stream then [e] else [])

theorem EntryFilled.joined {x : StepEntry} (f : EntryFilled e x s u) : Joined e x s u := ⟨f.entry, f.others, f.lists⟩

/-- The head that an entry filled gives: itself, if it is COMPLETE and alone in its list (R129, R133). -/
theorem Joined.completeHead_iff {x : StepEntry} (f : Joined e x s u)
    (hs : ∀ st : StreamId, completeHead s st = none) (he : ¬Heads s e) {st : StreamId} {d : EntryId} :
    completeHead u st = some d ↔ d = e ∧ x.state = .complete ∧ st = x.stream ∧ s.retireList x.stream = [] := by
  rw [completeHead_eq_some, f.lists]
  cases hl : s.retireList st with
  | nil =>
    by_cases hst : st = x.stream
    · subst hst
      rw [hl, if_pos rfl]
      simp only [List.nil_append, List.head?_cons, Option.some.injEq, and_true]
      constructor
      · rintro ⟨rfl, h⟩; exact ⟨rfl, f.entry ▸ h⟩
      · rintro ⟨rfl, h⟩; exact ⟨rfl, f.entry ▸ h⟩
    · simp [hst]
  | cons a l =>
    have ha : (s.retireList st).head? = some a := by rw [hl]; rfl
    have hae : a ≠ e := fun h => he ⟨st, h ▸ ha⟩
    constructor
    · rintro ⟨hd, hstate⟩
      have hda : a = d := Option.some.inj hd
      subst hda
      rw [f.others a hae] at hstate
      have := (completeHead_eq_some s).mpr ⟨ha, hstate⟩
      rw [hs] at this; cases this
    · rintro ⟨rfl, -, rfl, hnil⟩
      rw [hl] at hnil; cases hnil

theorem Joined.heads_iff {x : StepEntry} (f : Joined e x s u) (he : ¬Heads s e) :
    Heads u e ↔ s.retireList x.stream = [] := by
  constructor
  · rintro ⟨st, hst⟩
    rw [f.lists] at hst
    cases hl : s.retireList st with
    | nil =>
      rw [hl] at hst
      split at hst
      · next h => exact h ▸ hl
      · cases hst
    | cons a l => rw [hl] at hst; exact absurd ⟨st, by rw [hl]; exact hst⟩ he
  · intro hl
    exact ⟨x.stream, by rw [f.lists, hl, if_pos rfl]; rfl⟩

theorem testPayloadLow_eq_self {before : Nat} (h : s.payload.free.length = before) : testPayloadLow before s = s := by
  unfold testPayloadLow
  dsimp only
  rw [if_neg (by omega)]

theorem testPayloadLow_eq (before : Nat) (s : State) : testPayloadLow before s = { s with
    notice := { s.notice with causes :=
      (if s.mgmt.settings.payloadLow ≤ before ∧ s.payload.free.length < s.mgmt.settings.payloadLow
        then s.notice.causes ||| 16#7 else s.notice.causes) } } := by
  unfold testPayloadLow
  dsimp only
  split <;> rfl

theorem free_completed (h : Enlisted e q target r s u) : (completed e u).payload.free =
    s.payload.free.drop (blocksNeeded q.length) ++ s.payload.free.take (blocksNeeded q.length) := by
  show u.payload.free ++ (u.entry e).blocks = _
  rw [h.free, h.entry, if_pos rfl]; rfl

/-- A step with no copy is COMPLETE within its acceptance (R12, R19). -/
theorem accepted_of_no_copy (hc : (clearTargets target s).length = 0) :
    accepted e q target r s = chooseCandidate (completed e (enlist e q target r s)) := by
  unfold accepted
  dsimp only
  rw [if_pos hc]
  refine testPayloadLow_eq_self ?_
  show (chooseCandidate (completed e _)).payload.free.length = _
  rw [chooseCandidate_payload, free_completed (enlist_spec e q target r s), List.length_append, Nat.add_comm,
    ← List.length_append, List.take_append_drop]

/-- What acceptance leaves outside the stores, from what `enlist` leaves. -/
theorem Enlisted.frame_of (h : Enlisted e q target r s u)
    (ht : t = { u with table := t.table, payload := t.payload, retire := t.retire,
                       notice := { u.notice with causes := acceptedCauses q target s } })
    (halloc : t.table.alloc = u.table.alloc) (hblocks : t.payload.blocks = u.payload.blocks)
    (hlists : t.retire.lists = u.retire.lists) (hrotation : t.retire.rotation = u.retire.rotation)
    (hprogress : t.retire.progress = u.retire.progress) : t = acceptedFrame e q target r s t := by
  rw [h.table] at halloc
  rw [h.payload] at hblocks
  rw [h.retire] at hlists hrotation hprogress
  obtain ⟨_, _, _, _, _, _, ⟨_, _⟩, ⟨_, _, _⟩, _, _, _, _, ⟨_, _, _, _⟩, _, _, _, _⟩ := t
  dsimp only at halloc hblocks hlists hrotation hprogress
  subst halloc hblocks hlists hrotation hprogress
  rw [h.frame] at ht
  cases ht
  rfl

/-- The nests whose copies have not ended: the records as `enlist` leaves them. -/
theorem Enlisted.record_eq (h : Enlisted e q target r s u) (d : EntryId) (n : Nest) : u.record d n =
    if d = e ∧ n ∈ NestSet.toList target then acceptedRecord e q target r s [] n else s.record d n := by
  rw [h.record, acceptedRecord, if_neg List.not_mem_nil]; rfl

theorem acceptance_of_no_copy (hc : (clearTargets target s).length = 0) :
    Acceptance e q target r [] s (accepted e q target r s) := by
  rw [accepted_of_no_copy hc]
  have enlisted := enlist_spec e q target r s
  generalize enlist e q target r s = u at enlisted
  have filled := enlisted.completedFilled
  have left : copiesLeft target s ([] : List Nest).length = 0 := by simp [copiesLeft, hc]
  have causes : acceptedCauses q target s = u.notice.causes := by rw [enlisted.frame]; simp [acceptedCauses, hc]
  have entries := entry_congr (chooseCandidate_table (completed e u))
  obtain ⟨busy, idle⟩ := candidate_chooseCandidate (completed e u)
  rw [filled.candidate, filled.progress] at busy idle
  refine ⟨?_, fun n => ?_, fun n => ?_, fun d n => ?_, fun d => ?_, fun d => ?_, ?_, busy, ?_⟩
  · refine enlisted.frame_of ?_ (by simp; rfl) (by simp; rfl) (by simp; rfl) (by simp; rfl) (by simp; rfl)
    rw [chooseCandidate_table, chooseCandidate_payload, causes]
    exact chooseCandidate_eq _
  · rw [port_congr (chooseCandidate_ports _)]
    exact (enlisted.port n).trans (by simp)
  · rw [lotNest_congr (chooseCandidate_lot _), if_neg List.not_mem_nil]
    show u.lotNest n = _
    rw [enlisted.frame]; rfl
  · rw [record_congr (chooseCandidate_judge _)]
    exact enlisted.record_eq d n
  · rw [entries, left]
    split
    · next hd => rw [hd, filled.entry, hc]; rfl
    · next hd => exact filled.others d hd
  · rw [chooseCandidate_payload, left]
    exact (filled.refs d).trans (by rw [hc]; rfl)
  · rw [chooseCandidate_payload, left, if_pos rfl, free_completed enlisted]
  · intro hcand hprog hheads hno d
    have head := fun st d => filled.joined.completeHead_iff hheads hno (st := st) (d := d)
    have only : ∀ d, (rotationOrder s.retire.rotation).findSome? (completeHead (completed e u)) = some d →
        d = e ∧ s.retireList q.stream = [] := fun d hd => by
      obtain ⟨st, hst⟩ := findSome_completeHead _ hd
      obtain ⟨hde, -, -, hnil⟩ := (head st d).mp ((completeHead_eq_some _).mpr hst)
      exact ⟨hde, hnil⟩
    have rotation : (completed e u).retire.rotation = s.retire.rotation := by
      show u.retire.rotation = _
      rw [enlisted.retire]
    rw [idle hcand hprog, left, rotation]
    constructor
    · intro hd
      obtain ⟨hde, hnil⟩ := only d hd
      exact ⟨hde, rfl, hnil⟩
    · rintro ⟨rfl, -, hnil⟩
      have hsome : completeHead (completed d u) q.stream = some d := (head q.stream d).mpr ⟨rfl, rfl, rfl, hnil⟩
      cases hf : (rotationOrder s.retire.rotation).findSome? (completeHead (completed d u)) with
      | none => rw [findSome_completeHead_none _ hf] at hsome; cases hsome
      | some x => rw [(only x hf).1]

theorem acceptance_of_copies (hc : (clearTargets target s).length ≠ 0) :
    Acceptance e q target r [] s (accepted e q target r s) := by
  have run : accepted e q target r s = testPayloadLow s.payload.free.length (enlist e q target r s) := by
    unfold accepted; dsimp only; rw [if_neg hc]
  rw [run, testPayloadLow_eq]
  have enlisted := enlist_spec e q target r s
  generalize enlist e q target r s = u at enlisted
  have filled := enlisted.entryFilled
  have left : copiesLeft target s ([] : List Nest).length = (clearTargets target s).length := rfl
  have causes : (if u.mgmt.settings.payloadLow ≤ s.payload.free.length ∧
      u.payload.free.length < u.mgmt.settings.payloadLow then u.notice.causes ||| 16#7 else u.notice.causes) =
      acceptedCauses q target s := by
    rw [acceptedCauses, enlisted.free, enlisted.frame]; simp [hc]
  rw [causes]
  refine ⟨?_, fun n => ?_, fun n => ?_, fun d n => ?_, fun d => ?_, fun d => ?_, ?_, fun _ => filled.candidate, ?_⟩
  · exact enlisted.frame_of rfl rfl rfl rfl rfl rfl
  · exact (enlisted.port n).trans (by simp)
  · rw [if_neg List.not_mem_nil]
    show u.lotNest n = _
    rw [enlisted.frame]; rfl
  · exact enlisted.record_eq d n
  · rw [left]
    show u.entry d = _
    rw [enlisted.entry, acceptedEntry, if_neg hc, if_neg hc]; rfl
  · rw [left]; exact filled.refs d
  · rw [left, if_neg hc, List.append_nil]; exact enlisted.free
  · intro hcand hprog hheads hno d
    rw [left]
    show u.retire.candidate = _ ↔ _
    rw [filled.candidate, hcand]; simp [hc]

theorem acceptance_accepted (e : EntryId) (q : StepReq) (target : NestSet) (r : Fin 64) (s : State) :
    Acceptance e q target r [] s (accepted e q target r s) := by
  by_cases hc : (clearTargets target s).length = 0
  · exact acceptance_of_no_copy hc
  · exact acceptance_of_copies hc

end Sys2Proof.Machine

end

section
namespace Sys2Proof.Machine

variable {s t u v : State} {e : EntryId} {q : StepReq} {target : NestSet} {r : Fin 64} {l : List Nest}

/-! ### The copies that end ABSENT within the acceptance (R45) -/

/-- A nest that does not serve holds no copy, and the absence rule finds nothing to stop there (R63, R69, R70). -/
theorem PortsOk.idle (h : PortsOk s) {n : Nest} (hn : serves s n = false) :
    (s.port n).queue = [] ∧ idledPort (s.port n) = s.port n := by
  have ok := h n
  unfold portOk linkFits timersFit at ok
  simp only [Bool.and_eq_true] at ok
  obtain ⟨⟨⟨⟨-, -⟩, timers⟩, ⟨⟨idle, -⟩, -⟩, -⟩, -⟩ := ok
  have off : ¬((s.port n).link = .up ∧ (s.port n).presence = .present) := by simpa [serves] using hn
  have idle : (s.port n).queue = [] ∧ (s.port n).service = .idle := by
    rw [Bool.or_eq_true, Bool.and_eq_true, Bool.and_eq_true] at idle
    simpa using idle.resolve_left (by simpa using off)
  obtain ⟨queue, service⟩ := idle
  rw [service] at timers
  simp only [Bool.and_eq_true, decide_eq_true_eq] at timers
  obtain ⟨⟨deadline, gap⟩, grace⟩ := timers
  refine ⟨queue, ?_⟩
  unfold idledPort
  generalize s.port n = p at queue service deadline gap grace
  cases p
  cases queue; cases service; cases deadline; cases gap; cases grace
  rfl

theorem Acceptance.retireList (h : Acceptance e q target r l s t) (st : StreamId) :
    t.retireList st = s.retireList st ++ (if st = q.stream then [e] else []) := by
  have lists : t.retireList st = (upd s.retire.lists q.stream (fun l => l ++ [e]))[st.val] := by rw [h.frame]; rfl
  rw [lists, upd_get]
  split
  · next hst => subst hst; rfl
  · exact (List.append_nil _).symm

theorem Acceptance.joined (h : Acceptance e q target r l s t) :
    Joined e (acceptedEntry q target r (copiesLeft target s l.length) s) s t where
  entry := by rw [h.entry, if_pos rfl]
  others d hd := by rw [h.entry, if_neg hd]
  lists := h.retireList

theorem unjudgedSlots_congr (hrow : (t.entry e).profile = (s.entry e).profile)
    (hslots : ∀ x : Fin 64, (t.profile x).slots = (s.profile x).slots) : unjudgedSlots t e = unjudgedSlots s e := by
  unfold unjudgedSlots
  dsimp only
  rw [hrow, hslots]

/-- A step with a Profile row pins it (R87). -/
theorem Acceptance.profile (h : Acceptance e q target r l s t) (x : Fin 64) : t.profile x =
    if x = r ∧ r ≠ 0 then { s.profile x with pins := (s.profile x).pins + 1 } else s.profile x := by
  have rows : t.profile x = (if r = 0 then s.judge.profiles
      else upd s.judge.profiles r (fun p => { p with pins := p.pins + 1 }))[x.val] := by rw [h.frame]; rfl
  rw [rows]
  unfold State.profile
  by_cases hr : r = 0
  · simp [hr]
  · simp only [hr, if_false]
    rw [upd_get]
    by_cases hx : x = r
    · subst hx; simp [hr]
    · simp [hx]

theorem Acceptance.slots (h : Acceptance e q target r l s t) (x : Fin 64) :
    (t.profile x).slots = (s.profile x).slots := by
  rw [h.profile]
  split <;> rfl

theorem Acceptance.unjudgedSlots (h : Acceptance e q target r l s t) :
    unjudgedSlots t e = unjudgedSlots (fillEntry e q target r (clearTargets target s).length s) e :=
  unjudgedSlots_congr (by rw [h.entry, if_pos rfl, entry_fillEntry, if_pos rfl]; rfl) h.slots

/-- The copies of a step accepted, `k` of its `c` ended. -/
theorem endedEntry_accepted {c k : Nat} (hk : k ≤ c) (entry : v.entry e = acceptedEntry q target r c s)
    (refs : v.payload.refs[e.val] = c) : endedEntry k v e = acceptedEntry q target r (c - k) s := by
  have state : (if 0 < k ∧ c ≤ k ∧ (if c = 0 then EntryState.complete else .live) = .live then EntryState.complete
      else if c = 0 then .complete else .live) = if c - k = 0 then .complete else .live := by
    by_cases hc : c = 0
    · simp [hc]
    · have : c - k = 0 ↔ 0 < k ∧ c ≤ k := by omega
      simp only [hc, if_false, and_true, this]
  have blocks : (if 0 < k ∧ c ≤ k then [] else if c = 0 then [] else s.payload.free.take (blocksNeeded q.length)) =
      if c - k = 0 then [] else s.payload.free.take (blocksNeeded q.length) := by
    split_ifs <;> first | rfl | omega
  unfold endedEntry
  rw [entry, refs]
  unfold acceptedEntry filledEntry
  dsimp only
  rw [state, blocks]

/-- The candidate after the copies of a step accepted have ended: the step itself, if none is left and it heads its
list (R129, R133). -/
theorem Acceptance.chosen_absences (h : Acceptance e q target r [] s v) (k : EndedAbsent e l v t)
    (hlen : l.length ≤ (clearTargets target s).length) (hcand : s.retire.candidate = none)
    (hprog : s.retire.progress = none) (hheads : ∀ st : StreamId, completeHead s st = none) (hno : ¬Heads s e)
    (d : EntryId) : t.retire.candidate = some d ↔
      d = e ∧ copiesLeft target s l.length = 0 ∧ s.retireList q.stream = [] := by
  have first := h.chosen hcand hprog hheads hno
  have joined := h.joined
  unfold copiesLeft at first joined ⊢
  generalize (clearTargets target s).length = c at hlen first joined ⊢
  simp only [List.length_nil, Nat.sub_zero] at first joined
  by_cases hnow : c = 0 ∧ s.retireList q.stream = []
  · obtain ⟨rfl, hnil⟩ := hnow
    have now : v.retire.candidate = some e := (first e).mpr ⟨rfl, rfl, hnil⟩
    rw [k.kept (.inl (by rw [now]; nofun)), first, Nat.zero_sub]
  · have none_ : v.retire.candidate = none :=
      Option.eq_none_iff_forall_ne_some.mpr fun x hx => hnow ((first x).mp hx).2
    have prog : v.retire.progress = none := by rw [h.frame]; exact hprog
    have heads : ∀ st, completeHead v st = none := fun st => Option.eq_none_iff_forall_ne_some.mpr fun x hx => by
      obtain ⟨-, hstate, -, hnil⟩ := (joined.completeHead_iff hheads hno).mp hx
      refine hnow ⟨?_, hnil⟩
      by_contra hc
      simp [acceptedEntry, hc] at hstate
    rw [k.chosen none_ prog heads, joined.heads_iff hno, joined.entry]
    show d = e ∧ 0 < l.length ∧ (if c = 0 then EntryState.complete else .live) = .live ∧ c ≤ l.length ∧
      s.retireList q.stream = [] ↔ _
    by_cases hnil : s.retireList q.stream = []
    · have hc : c ≠ 0 := fun hc => hnow ⟨hc, hnil⟩
      simp only [hnil, hc, if_false, true_and, and_true, and_congr_right_iff]
      omega
    · simp [hnil]

/-- Acceptance, and then the copies of the nests of `l` ended: they end at nests that hold no other. -/
theorem Acceptance.absences (h : Acceptance e q target r [] s v) (k : EndedAbsent e l v t)
    (hl : l ⊆ clearTargets target s) (hlen : l.length ≤ (clearTargets target s).length)
    (hidle : ∀ n ∈ l, (s.port n).queue = [] ∧ idledPort (s.port n) = s.port n) :
    Acceptance e q target r l s t := by
  have entry := h.entry e
  rw [if_pos rfl] at entry
  have refs := h.refs e
  rw [if_pos rfl] at refs
  refine ⟨?_, fun n => ?_, fun n => ?_, fun d n => ?_, fun d => ?_, fun d => ?_, ?_, ?_, ?_⟩
  · rw [k.frame, h.frame]; rfl
  · rw [k.port, h.port]
    by_cases hn : n ∈ l
    · obtain ⟨-, idle⟩ := hidle n hn
      simp only [hn, hl hn, if_true, List.not_mem_nil, not_false_eq_true, not_true, and_false, if_false, and_true]
      exact idle
    · simp [hn]
  · rw [k.lotNest, h.lotNest, if_neg List.not_mem_nil]
  · rw [k.record]
    by_cases hn : d = e ∧ n ∈ l
    · obtain ⟨rfl, hn⟩ := hn
      have hclear := hl hn
      obtain ⟨hmem, hc⟩ := List.mem_filter.mp hclear
      rw [if_pos ⟨rfl, hn⟩, if_pos ⟨rfl, hmem⟩, absentRecord, h.unjudgedSlots, h.record, if_pos ⟨rfl, hmem⟩]
      simp [acceptedRecord, hn, hc]; rfl
    · rw [if_neg hn, h.record]
      split
      · next hd => simp [acceptedRecord, show n ∉ l from fun hm => hn ⟨hd.1, hm⟩]
      · rfl
  · rw [k.entry]
    split
    · exact endedEntry_accepted hlen entry refs
    · next hd => rw [h.entry, if_neg hd]
  · rw [k.refs, refs]
    split
    · simp [copiesLeft]
    · next hd => rw [h.refs, if_neg hd]
  · rw [k.free, h.free, refs, entry, List.append_assoc]
    congr 1
    unfold copiesLeft acceptedEntry
    dsimp only
    split_ifs <;> first | rfl | omega | simp_all
  · intro hc
    rw [k.kept, h.kept hc]
    rw [h.kept hc, h.frame]; exact hc
  · exact h.chosen_absences k hlen

/-- The target nests whose copy ends ABSENT at once (R45). -/
def absentTargets (target : NestSet) (s : State) : List Nest :=
  (clearTargets target s).filter (fun n => !serves s n)

theorem mem_clearTargets {n : Nest} :
    n ∈ clearTargets target s ↔ NestSet.has target n = true ∧ (s.lotNest n).standing = .clear := by
  simp [clearTargets, NestSet.mem_toList, isClear]

theorem mem_absentTargets {n : Nest} : n ∈ absentTargets target s ↔ n ∈ clearTargets target s ∧
    ¬((s.port n).link = .up ∧ (s.port n).presence = .present) := by
  rw [absentTargets, List.mem_filter, Bool.not_eq_true', ← Bool.not_eq_true, serves, Bool.and_eq_true,
    decide_eq_true_iff, decide_eq_true_iff]

theorem nodup_absentTargets (target : NestSet) (s : State) : (absentTargets target s).Nodup :=
  ((NestSet.nodup_toList target).filter _).filter _

/-- Acceptance whole (R12, R45). -/
theorem acceptance_acceptInto (hports : PortsOk s) (e : EntryId) (q : StepReq) (target : NestSet) (r : Fin 64) :
    Acceptance e q target r (absentTargets target s) s (acceptInto e q target r s) := by
  have first := acceptance_accepted e q target r s
  have idle : ∀ n ∈ absentTargets target s, (s.port n).queue = [] ∧ idledPort (s.port n) = s.port n := fun n hn =>
    hports.idle (by simpa using (List.mem_filter.mp hn).2)
  have hold : HoldOneCopy e (absentTargets target s) (accepted e q target r s) := fun n hn => by
    refine ⟨queuedCopy e q.stream q.number, ?_, rfl, rfl, rfl⟩
    rw [first.port, if_pos ⟨(List.mem_filter.mp hn).1, List.not_mem_nil⟩]
    simp [(idle n hn).1]
  rw [acceptInto_eq]
  exact first.absences (endedAbsent_foldl _ (nodup_absentTargets target s) hold)
    (fun n hn => (List.mem_filter.mp hn).1) (List.length_filter_le ..) idle

end Sys2Proof.Machine

end

section
namespace Sys2Proof.Machine

variable {s : State} {msg : List Byte} {e : EntryId}

/-! ### The blocks written (R18) -/

theorem writeBlocks_cons (b : BlockId) (blocks : List BlockId) (p : List Byte) (v : Vector (List Byte) 512) :
    writeBlocks (b :: blocks) p v =
      writeBlocks blocks (p.drop Config.blockSize) (upd v b (fun _ => p.take Config.blockSize)) := rfl

theorem writeBlocks_of_not_mem {b : BlockId} {blocks : List BlockId} (hb : b ∉ blocks) (p : List Byte)
    (v : Vector (List Byte) 512) : (writeBlocks blocks p v)[b.val] = v[b.val] := by
  induction blocks generalizing p v with
  | nil => rfl
  | cons a blocks ih =>
    obtain ⟨hba, hb⟩ := List.ne_and_not_mem_of_not_mem_cons hb
    rw [writeBlocks_cons, ih hb, upd_get_ne v _ hba]

/-- Different blocks hold, in order, the bytes written into them. -/
theorem flatMap_writeBlocks {blocks : List BlockId} (hnodup : blocks.Nodup) (p : List Byte)
    (v : Vector (List Byte) 512) (hlen : p.length ≤ Config.blockSize * blocks.length) :
    blocks.flatMap (fun b => (writeBlocks blocks p v)[b.val]) = p := by
  induction blocks generalizing p v with
  | nil => simpa using hlen
  | cons b blocks ih =>
    obtain ⟨hb, hnodup⟩ := List.nodup_cons.mp hnodup
    have rest : (p.drop Config.blockSize).length ≤ Config.blockSize * blocks.length := by
      rw [List.length_cons, Nat.mul_succ] at hlen
      rw [List.length_drop]; omega
    rw [List.flatMap_cons, writeBlocks_cons, ih hnodup _ _ rest, writeBlocks_of_not_mem hb, upd_get_same,
      List.take_append_drop]

/-- As many bytes as a list of blocks has room for. -/
theorem le_blocksNeeded (len : Nat) : len ≤ Config.blockSize * blocksNeeded len := by
  unfold blocksNeeded Config.blockSize
  omega

/-! ### The entry chosen (R16) -/

theorem chooseEntry_eq_some_iff : chooseEntry s = some e ↔ (s.entry e).state = .free ∧
    ∀ d : EntryId, (s.entry d).state = .free → (e - s.table.alloc).val ≤ (d - s.table.alloc).val := by
  unfold chooseEntry
  rw [List.find?_map, Option.map_eq_some_iff]
  constructor
  · rintro ⟨i, hi, rfl⟩
    obtain ⟨hfree, hfirst⟩ := find?_finRange_eq_some.mp hi
    refine ⟨by simpa using hfree, fun d hd => ?_⟩
    rw [add_sub_cancel_left]
    by_contra hlt
    have := hfirst (d - s.table.alloc) (Fin.lt_def.mpr (Nat.not_le.mp hlt))
    simp [hd] at this
  · rintro ⟨hfree, hfirst⟩
    refine ⟨e - s.table.alloc, find?_finRange_eq_some.mpr ⟨by simpa using hfree, fun m hm => ?_⟩, by simp⟩
    refine decide_eq_false fun hd => ?_
    have := hfirst _ hd
    rw [add_sub_cancel_left] at this
    exact absurd hm (not_lt.mpr this)

theorem chooseEntry_isSome (h : ¬reasonHolds s msg .noEntry) : ∃ e, chooseEntry s = some e := by
  by_contra hno
  have none_ : chooseEntry s = none := Option.eq_none_iff_forall_ne_some.mpr fun e he => hno ⟨e, he⟩
  refine h fun e he => ?_
  unfold chooseEntry at none_
  rw [List.find?_eq_none] at none_
  exact none_ e (List.mem_map.mpr ⟨e - s.table.alloc, List.mem_finRange _, by simp⟩) (decide_eq_true he)

end Sys2Proof.Machine

end

section
namespace Sys2Proof.Machine

variable {s t : State} {f : RxFrame} {msg : List Byte} {e : EntryId} {q : StepReq} {target : NestSet} {row : Fin 64}

/-! ### The copies of a step, counted (R12, R45) -/

theorem length_clearTargets (target : NestSet) (s : State) : (clearTargets target s).length =
    allNests.countP (fun n => NestSet.has target n && (s.lotNest n).standing = .clear) := by
  rw [clearTargets, NestSet.toList, List.filter_filter, ← List.countP_eq_length_filter]
  refine List.countP_congr fun n _ => ?_
  simp [isClear, and_comm]

theorem copiesLeft_absentTargets (target : NestSet) (s : State) : copiesLeft target s (absentTargets target s).length =
    allNests.countP (fun n => NestSet.has target n && (s.lotNest n).standing = .clear && (s.port n).link = .up &&
      (s.port n).presence = .present) := by
  have split := List.length_eq_countP_add_countP (serves s) (l := clearTargets target s)
  have absent : (absentTargets target s).length = (clearTargets target s).countP (fun n => ¬serves s n = true) := by
    rw [absentTargets, ← List.countP_eq_length_filter]
    refine List.countP_congr fun n _ => ?_
    simp
  have served : (clearTargets target s).countP (serves s) = allNests.countP (fun n => NestSet.has target n &&
      (s.lotNest n).standing = .clear && (s.port n).link = .up && (s.port n).presence = .present) := by
    rw [clearTargets, NestSet.toList, List.filter_filter, List.countP_filter]
    refine List.countP_congr fun n _ => ?_
    simp [isClear, serves]; tauto
  unfold copiesLeft
  omega

/-! ### A STEP accepted, by its bytes (R6, R11) -/

/-- A STEP for which no reason holds, as the checks read it (R6). -/
structure Acceptable (s : State) (msg : List Byte) (q : StepReq) (target : NestSet) (row : Fin 64) : Prop where
  check : checkStep s msg = .accept q target row
  decoded : StepDecoded msg q
  row_eq : (byteAt msg 9).toNat = row.val
  target_iff : ∀ n : Nest, NestSet.has target n = true ↔ inTarget s msg n

theorem exists_acceptable (h : ∀ r : RefusalReason, ¬reasonHolds s msg r) :
    ∃ q target row, Acceptable s msg q target row := by
  have fits := checkStep_fits s msg
  cases hc : checkStep s msg with
  | refuse r detail => rw [hc] at fits; exact absurd fits.1 (h r)
  | accept q target row =>
    rw [hc] at fits
    obtain ⟨-, decoded, row_eq, target_iff⟩ := fits
    exact ⟨q, target, row, hc, decoded, row_eq, target_iff⟩

/-- An acceptable STEP at the Dispatcher is accepted into the first FREE entry (R6, R12, R16). -/
theorem execStep_accepted (hat : AtDispatcher s f) (hc : byteAt f.msg 1 = 1#8)
    (h : Acceptable s f.msg q target row) (he : chooseEntry s = some e) :
    exec .step s = .next (finishMessage (acceptInto e q target row (passMessage f s))) := by
  have run : exec .step s = _ := execStep_eq hat hc
  have choose : chooseEntry (passMessage f s) = some e := he
  rw [run, takeStep, checkStep_passMessage, h.check]
  dsimp only
  rw [choose]

theorem clampReps_eq (n : Nat) : clampReps n = if n = 0 then 1 else if 64 < n then 64 else n := rfl

theorem clampDeadline_eq (n : Nat) : clampDeadline n = if n = 0 then 1 else n := rfl

/-- A step's payload, as its entry's blocks hold it (R18). -/
theorem Acceptance.stepPayload {l : List Nest} (h : Acceptance e q target row l s t)
    (hlen : q.payload.length = q.length) (hroom : blocksNeeded q.length ≤ s.payload.free.length)
    (hnodup : (s.payload.free.take (blocksNeeded q.length)).Nodup) (hleft : copiesLeft target s l.length ≠ 0) :
    stepPayload t e = q.payload := by
  have blocks : t.payload.blocks =
      writeBlocks (s.payload.free.take (blocksNeeded q.length)) q.payload s.payload.blocks := by rw [h.frame]; rfl
  unfold Machine.stepPayload
  rw [blocks, h.entry, if_pos rfl]
  unfold acceptedEntry filledEntry
  dsimp only
  rw [if_neg hleft, flatMap_writeBlocks hnodup, ← hlen, List.take_length]
  rw [List.length_take, Nat.min_eq_left hroom, hlen]
  exact le_blocksNeeded _

end Sys2Proof.Machine

end

section
namespace Sys2Proof.Machine

variable {s t : State} {e : EntryId} {q : StepReq} {target : NestSet} {row : Fin 64} {l : List Nest}

/-- A STEP at the Dispatcher for which no reason holds is accepted (R6, R12, R16, R45). -/
theorem execStep_acceptance {f : RxFrame} (hat : AtDispatcher s f) (hcode : byteAt f.msg 1 = 1#8)
    (hno : ∀ r : RefusalReason, ¬reasonHolds s f.msg r) (hports : PortsOk s) : ∃ q target row e t,
    Acceptable s f.msg q target row ∧ chooseEntry s = some e ∧ exec .step s = .next (finishMessage t) ∧
    Acceptance e q target row (absentTargets target s) (passMessage f s) t := by
  obtain ⟨q, target, row, ok⟩ := exists_acceptable hno
  obtain ⟨e, he⟩ := chooseEntry_isSome (hno .noEntry)
  exact ⟨q, target, row, e, _, ok, he, execStep_accepted hat hcode ok he,
    acceptance_acceptInto (s := passMessage f s) hports e q target row⟩

theorem Acceptance.stream (h : Acceptance e q target row l s t) (x : StreamId) : t.stream x =
    if x = q.stream then { s.stream q.stream with expected := (s.stream q.stream).expected + 1 } else s.stream x := by
  have streams : t.stream x = (upd s.streams q.stream (fun x => { x with expected := x.expected + 1 }))[x.val] := by
    rw [h.frame]; rfl
  rw [streams, upd_get]; rfl

theorem Acceptance.candidate (h : Acceptance e q target row l s t) (hcand : s.retire.candidate = none)
    (hprog : s.retire.progress = none) (hheads : ∀ x : StreamId, completeHead s x = none)
    (hno : ∀ x : StreamId, (s.retireList x).head? ≠ some e) : t.retire.candidate =
      if copiesLeft target s l.length = 0 ∧ s.retireList q.stream = [] then some e else none := by
  have chosen := h.chosen hcand hprog hheads (fun ⟨st, hst⟩ => hno st hst)
  split
  · next hc => exact (chosen e).mpr ⟨rfl, hc⟩
  · next hc => exact Option.eq_none_iff_forall_ne_some.mpr fun d hd => hc ((chosen d).mp hd).2

/-- Settles O13: the checks accept the STEP, and acceptance leaves each part as `Acceptance` has it. -/
theorem acceptedStepFillsEntry : Obligations.AcceptedStepFillsEntry := by
  intro s f hat hcode hno hports
  obtain ⟨q, target, row, e, t, ok, he, run, acc⟩ := execStep_acceptance hat hcode hno hports
  obtain ⟨hfree, hfirst⟩ := chooseEntry_eq_some_iff.mp he
  have decoded := ok.decoded
  obtain ⟨-, -, hreps, hnumber, hdeadline, hgap, hlength, hpayload⟩ := decoded.fields
  have room : blocksNeeded q.length ≤ s.payload.free.length := by
    rw [hlength]; exact Nat.not_lt.mp (hno .noSpace)
  have long : q.payload.length = q.length := by
    rw [hpayload, hlength, List.length_drop, decoded.long]; omega
  have served := copiesLeft_absentTargets target s
  have frame := acc.frame
  have left : copiesLeft target (passMessage f s) (absentTargets target s).length =
    copiesLeft target s (absentTargets target s).length := rfl
  refine ⟨finishMessage t, e, q.stream, row, target, q.capture, q.policy, _,
    copiesLeft target s (absentTargets target s).length, _, _,
    s.payload.free.take (blocksNeeded q.length), s.payload.free.drop (blocksNeeded q.length),
    run, decoded.stream, ok.row_eq, decoded.capture, decoded.policy, ok.target_iff, rfl, served, rfl, rfl,
    (List.take_append_drop ..).symm, ?_, hfree, hfirst, ?_, ?_, ?_, ?_, ?_, ?_, ?_, acc.stream, ?_, ?_, ?_, acc.kept,
    ?_, acc.profile, ?_, ?_, ?_, ?_, ?_, ?_, ?_, ?_, ?_, ?_, ?_, ?_⟩
  · rw [List.length_take, Nat.min_eq_left room, hlength]; rfl
  · show t.table.alloc = _
    rw [frame]; rfl
  · refine (acc.entry e).trans ?_
    rw [if_pos rfl, left]
    unfold acceptedEntry filledEntry
    simp only [hreps, hnumber, hdeadline, hgap, hlength, clampReps_eq, clampDeadline_eq, Bool.decide_or]
    rfl
  · intro d hd
    exact ⟨(acc.entry d).trans (if_neg hd), (acc.refs d).trans (if_neg hd)⟩
  · exact (acc.refs e).trans (if_pos rfl)
  · refine acc.free.trans ?_
    rw [left]
    split
    · rfl
    · exact List.append_nil _
  · intro hnodup hserved
    exact (acc.stepPayload long room hnodup hserved).trans hpayload
  · intro b hb
    show t.payload.blocks[b.val] = _
    simp only [show t.payload.blocks =
      writeBlocks (s.payload.free.take (blocksNeeded q.length)) q.payload s.payload.blocks by rw [frame]; rfl]
    exact writeBlocks_of_not_mem hb _ _
  · intro x
    refine (acc.retireList x).trans ?_
    split
    · next hx => rw [hx]; rfl
    · exact List.append_nil _
  · show t.retire.rotation = _
    rw [frame]; rfl
  · show t.retire.progress = _
    rw [frame]; rfl
  · exact acc.candidate
  · rw [frame]; rfl
  · rw [← length_clearTargets]
    show t.notice = _
    rw [frame]; rfl
  all_goals rw [frame]; rfl

/-! ### The fan-out, nest by nest (R41, R42, R45) -/

/-- A record of entry `e` that holds outcome `o` and no measure, no run of the copy having been completed (R105,
R106). -/
def UnjudgedRecord (s : State) (e : EntryId) (o : CopyOutcome) (x : Record) : Prop :=
  x.outcome = some o ∧ x.runs = 0 ∧ x.variant = none ∧ SlotsNotJudged s e x.slots

/-- A nest that keeps a copy of the step. -/
theorem Acceptance.served (h : Acceptance e q target row l s t) {n : Nest} (hclear : n ∈ clearTargets target s)
    (hserves : n ∉ l) :
    t.port n = { s.port n with queue := (s.port n).queue ++ [queuedCopy e q.stream q.number] } ∧
    t.lotNest n = s.lotNest n ∧ t.record e n = Record.cleared := by
  obtain ⟨htarget, hc⟩ := List.mem_filter.mp hclear
  rw [h.port, if_pos ⟨hclear, hserves⟩, h.lotNest, if_neg hserves, h.record, if_pos ⟨rfl, htarget⟩, acceptedRecord,
    if_neg hserves, if_pos hc]
  exact ⟨rfl, rfl, rfl⟩

/-- A nest whose copy ends within the acceptance. -/
theorem Acceptance.absent (h : Acceptance e q target row l s t) {n : Nest} (hclear : n ∈ clearTargets target s)
    (hoff : n ∈ l) :
    t.port n = s.port n ∧
    t.lotNest n = { s.lotNest n with outcomes := (s.lotNest n).outcomes ++ [(e, .absent)] } ∧
    UnjudgedRecord t e .absent (t.record e n) := by
  obtain ⟨htarget, -⟩ := List.mem_filter.mp hclear
  rw [h.port, if_neg (fun hn => hn.2 hoff), h.lotNest, if_pos hoff, h.record, if_pos ⟨rfl, htarget⟩, acceptedRecord,
    if_pos hoff]
  exact ⟨rfl, rfl, rfl, rfl, rfl, h.unjudgedSlots ▸ slotsNotJudged_unjudged t e⟩

/-- A target nest that is not CLEAR. -/
theorem Acceptance.skipped (h : Acceptance e q target row l s t) (hl : l ⊆ clearTargets target s) {n : Nest}
    (htarget : n ∈ NestSet.toList target) (hstanding : n ∉ clearTargets target s) :
    t.port n = s.port n ∧ t.lotNest n = s.lotNest n ∧ UnjudgedRecord t e .skipped (t.record e n) := by
  have hc : ¬isClear s n = true := fun hc => hstanding (List.mem_filter.mpr ⟨htarget, hc⟩)
  have hno : n ∉ l := fun hn => hstanding (hl hn)
  rw [h.port, if_neg (fun hn => hstanding hn.1), h.lotNest, if_neg hno, h.record, if_pos ⟨rfl, htarget⟩,
    acceptedRecord, if_neg hno, if_neg hc]
  exact ⟨rfl, rfl, rfl, rfl, rfl, h.unjudgedSlots ▸ slotsNotJudged_unjudged t e⟩

/-- A nest outside the target set. -/
theorem Acceptance.untargeted (h : Acceptance e q target row l s t) (hl : l ⊆ clearTargets target s) {n : Nest}
    (htarget : n ∉ NestSet.toList target) :
    t.port n = s.port n ∧ t.lotNest n = s.lotNest n ∧ t.record e n = s.record e n := by
  have hclear : n ∉ clearTargets target s := fun hn => htarget (List.mem_filter.mp hn).1
  rw [h.port, if_neg (fun hn => hclear hn.1), h.lotNest, if_neg (fun hn => hclear (hl hn)), h.record,
    if_neg (fun hn => htarget hn.2)]
  exact ⟨rfl, rfl, rfl⟩

/-- Settles O14: each of the four kinds of nest has what `Acceptance` leaves it. -/
theorem acceptedStepFansOut : Obligations.AcceptedStepFansOut := by
  intro s f hat hcode hno hports
  obtain ⟨q, target, row, e, t, ok, he, run, acc⟩ := execStep_acceptance hat hcode hno hports
  obtain ⟨hfree, -⟩ := chooseEntry_eq_some_iff.mp he
  obtain ⟨-, -, -, hnumber, -⟩ := ok.decoded.fields
  have inList : ∀ n, n ∈ NestSet.toList target ↔ inTarget s f.msg n :=
    fun n => (NestSet.mem_toList target n).trans (ok.target_iff n)
  have clear : ∀ n, n ∈ clearTargets target (passMessage f s) ↔ inTarget s f.msg n ∧ (s.lotNest n).standing = .clear :=
    fun n => mem_clearTargets.trans (and_congr_left' (ok.target_iff n))
  have absent : ∀ n, n ∈ absentTargets target s ↔ n ∈ clearTargets target (passMessage f s) ∧
      ¬((s.port n).link = .up ∧ (s.port n).presence = .present) := fun n => mem_absentTargets
  have among : absentTargets target s ⊆ clearTargets target (passMessage f s) := fun n hn => ((absent n).mp hn).1
  refine ⟨finishMessage t, e, q.stream, row, run, ?_, hfree, ok.decoded.stream, ok.row_eq, ?_, ?_, ?_, ?_, ?_, ?_, ?_⟩
  · show t.table.alloc = _
    rw [acc.frame]; rfl
  · show (t.entry e).profile = row
    rw [acc.entry, if_pos rfl]; rfl
  · intro n hin hclear hup hpresent
    rw [← hnumber]
    exact acc.served ((clear n).mpr ⟨hin, hclear⟩) fun hn => ((absent n).mp hn).2 ⟨hup, hpresent⟩
  · intro n hin hclear hoff
    have hmem := (clear n).mpr ⟨hin, hclear⟩
    exact acc.absent hmem ((absent n).mpr ⟨hmem, hoff⟩)
  · intro n hin hstanding
    exact acc.skipped among ((inList n).mpr hin) fun hn => hstanding ((clear n).mp hn).2
  · intro n hout
    exact acc.untargeted among fun hn => hout ((inList n).mp hn)
  · exact fun i => congrArg (fun v => v[i.val].mode) (acc.slots row)
  · exact fun d hd n => (acc.record d n).trans (if_neg fun h => hd h.1)

end Sys2Proof.Machine

end

section
/-! Opening and closing a lot (R24, R25, R26): statements O23 and O24. -/

namespace Sys2Proof

/-- Rows changed one after another, each at most once: a row of the list is changed by its own function. -/
theorem foldl_upd_get {α : Type} {k : Nat} (g : Fin k → α → α) (l : List (Fin k)) (hl : l.Nodup) (v : Vector α k)
    (i : Fin k) : (l.foldl (fun w j => upd w j (g j)) v)[i.val] = if i ∈ l then g i v[i.val] else v[i.val] := by
  induction l generalizing v with
  | nil => simp
  | cons j l ih =>
    obtain ⟨hj, hl⟩ := List.nodup_cons.mp hl
    rw [List.foldl_cons, ih hl]
    by_cases hij : i = j
    · subst hij; simp [hj]
    · simp [hij, upd_get_ne]

theorem NestSet.has_ofPred (p : Nest → Bool) (n : Nest) : NestSet.has (NestSet.ofPred p) n = p n := by
  have fold : ∀ (l : List Nest) (S : NestSet),
      NestSet.has (l.foldl (fun S m => if p m then NestSet.insert S m else S) S) n =
        (NestSet.has S n || (decide (n ∈ l) && p n)) := by
    intro l
    induction l with
    | nil => simp
    | cons m l ih =>
      intro S
      rw [List.foldl_cons, ih]
      by_cases hm : n = m
      · subst hm; cases hp : p n <;> simp [NestSet.has_insert]
      · cases p m <;> simp [NestSet.has_insert, hm]
  refine (fold allNests 0#32).trans ?_
  simp [NestSet.has]

namespace Machine

/-! ### Fields of a message -/

theorem leAt_leBytes (k v : Nat) : leAt (leBytes k v) 0 k = v % 256 ^ k := by
  rw [leAt_take _ _ _ (by simp), List.drop_zero, List.take_of_length_le (by simp), leNat_leBytes]

theorem leAt_leBytes_append (k v : Nat) (b : List Byte) : leAt (leBytes k v ++ b) 0 k = v % 256 ^ k := by
  rw [leAt_append_left _ _ _ _ (by simp), leAt_leBytes]

/-- A field read past the `j` bytes of the field before it. -/
theorem leAt_past_leBytes {i j : Nat} (h : j ≤ i) (v : Nat) (b : List Byte) (k : Nat) :
    leAt (leBytes j v ++ b) i k = leAt b (i - j) k := by
  rw [leAt_append_right _ _ _ _ (by simpa), length_leBytes]

theorem toNat_ofNat_nest (n : Nest) : (BitVec.ofNat 8 n.val).toNat = n.val := by
  rw [BitVec.toNat_ofNat]; omega

theorem toNat_ofNat_standing (x : Standing) : (BitVec.ofNat 8 x.code).toNat = x.code := by cases x <;> rfl

theorem toNat_ofNat_link (l : LinkState) : (BitVec.ofNat 8 l.code).toNat = l.code := by cases l <;> rfl

theorem toNat_mod_bytes {k : Nat} (x : BitVec (8 * k)) : x.toNat % 256 ^ k = x.toNat :=
  Nat.mod_eq_of_lt (by have := x.isLt; rwa [pow_mul] at this)

/-- A nest set sent in four bytes holds nest `n` at bit `n`. -/
theorem testBit_ofPred (p : Nest → Bool) (n : Nest) :
    ((NestSet.ofPred p).toNat % 256 ^ 4).testBit n.val = p n := by
  rw [toNat_mod_bytes (k := 4), ← NestSet.has_ofPred p n]; rfl

/-! ### Opening -/

theorem someEntryInUse_iff (s : State) : someEntryInUse s = true ↔ ∃ e : EntryId, (s.entry e).state ≠ .free := by
  rw [someEntryInUse, toList_eq_map, List.any_map]
  simp [State.entry]

theorem someEntryInUse_eq_false {s : State} (h : ∀ e : EntryId, (s.entry e).state = .free) :
    someEntryInUse s = false := by
  rw [Bool.eq_false_iff, Ne, someEntryInUse_iff]
  exact fun ⟨e, he⟩ => he (h e)

theorem lotNest_openLot (id : Word32) (s : State) (n : Nest) :
    (openLot id s).lotNest n = openNest s n (s.lotNest n) := by
  refine (foldl_upd_get (openNest s) allNests (List.nodup_finRange 32) s.lot.nests n).trans ?_
  rw [if_pos (mem_allNests n)]; rfl

theorem standingAtOpen_eq (p : NestPort) : standingAtOpen p =
    if p.config.excluded = true then .excluded
    else if p.config.enabled = true ∧ p.link = .up ∧ p.presence = .present ∧ p.service ≠ .stalled then .clear
    else .vacant := by
  have present : p.presence = .empty ↔ ¬p.presence = .present := by cases p.presence <;> simp
  unfold standingAtOpen
  simp only [present]
  split_ifs <;> simp_all

theorem openLotArg_of_length {args : List Byte} (h : args.length = 4) :
    openLotArg args = some (BitVec.ofNat 32 (leNat args)) := if_pos h

theorem execOpenLot_asked {s : State} {f : RxFrame} {args : List Byte} (h : Asked s f .openLot args)
    (hl : args.length = 4) : execOpenLot s = .next (
      if s.lot.isOpen then answered f .wrongLotState [] s
      else if someEntryInUse s then answered f .busy [] s
      else answered f .ok (openLotResult (openLot (BitVec.ofNat 32 (leNat args)) s))
        (openLot (BitVec.ofNat 32 (leNat args)) s)) := by
  unfold execOpenLot
  rw [runRequest_asked h, openLotArg_of_length hl]
  rfl

/-- The result data of OPEN_LOT, field by field: the id and four nest sets (11.5). -/
theorem openLotResult_fields (s : State) :
    (openLotResult s).length = 20 ∧ leAt (openLotResult s) 0 4 = s.lot.id.toNat ∧ ∀ n : Nest,
      ((leAt (openLotResult s) 4 4).testBit n.val = true ↔ (s.lotNest n).standing = .clear) ∧
      ((leAt (openLotResult s) 8 4).testBit n.val = true ↔ (s.lotNest n).standing = .vacant) ∧
      ((leAt (openLotResult s) 12 4).testBit n.val = true ↔ (s.lotNest n).standing = .excluded) ∧
      ((leAt (openLotResult s) 16 4).testBit n.val = true ↔ (s.port n).link = .up) := by
  unfold openLotResult standingSet
  refine ⟨by simp, ?_, fun n => ?_⟩
  · rw [List.append_assoc, List.append_assoc, List.append_assoc, leAt_leBytes_append]
    exact toNat_mod_bytes (k := 4) s.lot.id
  · simp [leAt_past_leBytes, leAt_leBytes_append, leAt_leBytes, testBit_ofPred, -Nat.reducePow]

/-- Settles O23: the two checks in order, and the lot opened nest by nest. -/
theorem openLotGivesStandings : Obligations.OpenLotGivesStandings := by
  intro s f args h hl
  have hexec : exec .openLot s = _ := execOpenLot_asked h hl
  rw [hexec]
  refine ⟨fun hc hfree => ?_, fun ho => by rw [if_pos ho], fun hc huse => ?_⟩
  · rw [if_neg (by simp [hc]), someEntryInUse_eq_false hfree]
    obtain ⟨hlen, hid, hsets⟩ := openLotResult_fields (openLot (BitVec.ofNat 32 (leNat args)) s)
    refine ⟨_, _, rfl, rfl, fun n => ?_, hlen, ?_, hsets⟩
    · rw [lotNest_openLot, openNest, standingAtOpen_eq]
    · refine hid.trans (Nat.mod_eq_of_lt ?_)
      have := leNat_lt args
      rwa [hl] at this
  · rw [if_neg (by simp [hc]), if_pos ((someEntryInUse_iff s).mpr huse)]

/-! ### Closing -/

theorem lotNest_closeLot (s : State) (n : Nest) : (closeLot s).lotNest n = { s.lotNest n with standing := .none } :=
  mapTable_get ..

theorem execCloseLot_asked {s : State} {f : RxFrame} (h : Asked s f .closeLot []) : execCloseLot s = .next (
    if s.lot.isOpen = false then answered f .wrongLotState [] s
    else if someEntryInUse s then answered f .busy [] s
    else answered f .ok (lotSummary s) (closeLot s)) := by
  unfold execCloseLot
  rw [runRequest_asked h]
  rfl

/-- The part of the summary that speaks of nest `n`, 8 bytes (11.5). -/
def nestSummary (s : State) (n : Nest) : List Byte :=
  byte n.val ++ byte (s.lotNest n).standing.code ++ leBytes 2 (s.lotNest n).passes.toNat ++
    leBytes 2 (s.lotNest n).marginals.toNat ++ leBytes 2 (s.lotNest n).failures.toNat

theorem lotSummary_eq (s : State) : lotSummary s = leBytes 4 s.lot.id.toNat ++ allNests.flatMap (nestSummary s) := rfl

theorem length_nestSummary (s : State) (n : Nest) : (nestSummary s n).length = 8 := by simp [nestSummary]

theorem length_lotSummary (s : State) : (lotSummary s).length = 260 := by
  rw [lotSummary_eq, List.length_append, length_flatMap_const _ _ 8 fun n _ => length_nestSummary s n]
  simp [allNests]

/-- A byte of the summary in the part of nest `n`. -/
theorem byteAt_lotSummary (s : State) (n : Nest) {j : Nat} (hj : j < 8) :
    byteAt (lotSummary s) (4 + j + 8 * n.val) = byteAt (nestSummary s n) j := by
  have part := byteAt_flatMap allNests (nestSummary s) 8 (fun m _ => length_nestSummary s m) n.val
    (by simp [allNests]) j hj []
  rw [lotSummary_eq, byteAt_append_right _ _ _ (by simp; omega), ← List.append_nil (allNests.flatMap _),
    length_leBytes, show 4 + j + 8 * n.val - 4 = 8 * n.val + j by omega, part]
  simp [allNests]

theorem leAt_lotSummary (s : State) (n : Nest) {j k : Nat} (hj : j + k ≤ 8) :
    leAt (lotSummary s) (4 + j + 8 * n.val) k = leAt (nestSummary s n) j k := by
  unfold leAt
  congr 1
  refine List.map_congr_left fun i hi => ?_
  have := List.mem_range.mp hi
  rw [← byteAt_lotSummary s n (by omega)]
  congr 1; omega

/-- The summary of nest `n`, field by field (11.5). -/
theorem nestSummary_fields (s : State) (n : Nest) :
    (byteAt (nestSummary s n) 0).toNat = n.val ∧ (byteAt (nestSummary s n) 1).toNat = (s.lotNest n).standing.code ∧
    leAt (nestSummary s n) 2 2 = (s.lotNest n).passes.toNat ∧
    leAt (nestSummary s n) 4 2 = (s.lotNest n).marginals.toNat ∧
    leAt (nestSummary s n) 6 2 = (s.lotNest n).failures.toNat := by
  refine ⟨toNat_ofNat_nest n, toNat_ofNat_standing _, ?_, ?_, ?_⟩
  all_goals
    simp only [nestSummary, byte, List.append_assoc, leAt_past_leBytes, Nat.reduceLeDiff, Nat.reduceSub,
      leAt_leBytes_append, leAt_leBytes]
    exact toNat_mod_bytes (k := 2) _

/-- Settles O24: the two checks in order, and the summary of each nest as the lot closes. -/
theorem closeLotSummarises : Obligations.CloseLotSummarises := by
  intro s f h
  have hexec : exec .closeLot s = _ := execCloseLot_asked h
  rw [hexec]
  refine ⟨fun ho hfree => ?_, fun hc => by rw [if_pos hc], fun ho huse => ?_⟩
  · rw [if_neg (by simp [ho]), someEntryInUse_eq_false hfree]
    refine ⟨_, _, rfl, rfl, lotNest_closeLot s, length_lotSummary s, ?_, fun n => ?_⟩
    · rw [lotSummary_eq, leAt_leBytes_append]
      exact toNat_mod_bytes (k := 4) s.lot.id
    · obtain ⟨hnest, hstanding, hpasses, hmarginals, hfailures⟩ := nestSummary_fields s n
      rw [byteAt_lotSummary s n (j := 0) (by omega), byteAt_lotSummary s n (j := 1) (by omega),
        leAt_lotSummary s n (j := 2) (by omega), leAt_lotSummary s n (j := 4) (by omega),
        leAt_lotSummary s n (j := 6) (by omega)]
      exact ⟨hnest, hstanding, hpasses, hmarginals, hfailures⟩
  · rw [if_neg (by simp [ho]), if_pos ((someEntryInUse_iff s).mpr huse)]

end Machine
end Sys2Proof
end

section
/-! The events that the Lot Controller takes (R28, R29, R30, R36, R74): statements O25 and O26. -/

namespace Sys2Proof.Machine

theorem takesPlace_true {b : Bool} (h : b = true) (s t : State) : takesPlace b s t = .next t := by
  rw [takesPlace, if_pos h]

theorem takesPlace_false {b : Bool} (h : b = false) (s t : State) : takesPlace b s t = .next s := by
  rw [takesPlace, h]; rfl

/-! ### The event that is next (R30) -/

variable {s : State} {n : Nest} {x : StandingEvent} {rest : List StandingEvent}

theorem nextEvent_of_events (hrun : s.phase = .running) (hev : (s.lotNest n).events = x :: rest) :
    nextEvent n s = some x := by
  simp [nextEvent, State.running, hrun, hev]

theorem updLotNest_congr {f g : LotNest → LotNest} (h : f (s.lotNest n) = g (s.lotNest n)) :
    s.updLotNest n f = s.updLotNest n g := by
  have hrow : f s.lot.nests[n.val] = g s.lot.nests[n.val] := h
  simp only [State.updLotNest, upd, hrow]

theorem dropEvent_of_events (hev : (s.lotNest n).events = x :: rest) :
    dropEvent n s = s.updLotNest n (fun l => { l with events := rest }) :=
  updLotNest_congr (by rw [hev]; rfl)

theorem execStall_next (hrun : s.phase = .running) (hev : (s.lotNest n).events = .stall :: rest) :
    execStall n s = .next (giveVoid n .stall (loseIfClear n (s.updLotNest n (fun l => { l with events := rest })))) := by
  rw [execStall, takesPlace_true (by simp [nextEvent_of_events hrun hev]), dropEvent_of_events hev]

theorem execStopFailure_next {e : EntryId} (hrun : s.phase = .running)
    (hev : (s.lotNest n).events = .stopFailure e :: rest) :
    execStopFailure n s = .next (takeStopFailure n (s.updLotNest n (fun l => { l with events := rest }))) := by
  rw [execStopFailure, takesPlace_true (by simp [nextEvent_of_events hrun hev, StandingEvent.isStopFailure]),
    dropEvent_of_events hev]

theorem execAbsence_next (hrun : s.phase = .running) (hev : (s.lotNest n).events = .absence :: rest) :
    execAbsence n s =
      .next (retrainProgress n (loseIfClear n (s.updLotNest n (fun l => { l with events := rest })))) := by
  rw [execAbsence, takesPlace_true (by simp [nextEvent_of_events hrun hev]), dropEvent_of_events hev]

/-- A stop failure is next, so a stall or an absence behind it waits (R30). -/
theorem exec_waits_behind_stopFailure {e : EntryId} (hrun : s.phase = .running)
    (hev : (s.lotNest n).events = .stopFailure e :: rest) :
    execStall n s = .next s ∧ execAbsence n s = .next s :=
  ⟨takesPlace_false (by simp [nextEvent_of_events hrun hev]) _ _,
    takesPlace_false (by simp [nextEvent_of_events hrun hev]) _ _⟩

/-! ### Stop failures and outcomes (R28, R36, R74) -/

theorem isClear_updLotNest_events (l : List StandingEvent) :
    isClear (s.updLotNest n (fun x => { x with events := l })) n = decide ((s.lotNest n).standing = .clear) := by
  simp [isClear]

theorem satInc16_eq (c : Word16) : satInc16 c = if c ≠ 65535#16 then c + 1#16 else c := by
  unfold satInc16; split_ifs <;> simp_all

/-- The tallies after an outcome, each by the outcomes that it counts (R36). -/
theorem tally_eq (o : CopyOutcome) (l : LotNest) : tally o l = { l with
    passes := if o = .pass ∧ l.passes ≠ 65535#16 then l.passes + 1#16 else l.passes,
    marginals := if o = .marginal ∧ l.marginals ≠ 65535#16 then l.marginals + 1#16 else l.marginals,
    failures := if (o = .fail ∨ o = .errored ∨ o = .timeout) ∧ l.failures ≠ 65535#16
      then l.failures + 1#16 else l.failures } := by
  cases o <;> simp [tally, satInc16_eq]

theorem execOutcomeDelivered_next {e : EntryId} {o : CopyOutcome} {later : List (EntryId × CopyOutcome)}
    (hrun : s.phase = .running) (hout : (s.lotNest n).outcomes = (e, o) :: later) :
    execOutcomeDelivered n s = .next (s.updLotNest n (fun l => tally o { l with outcomes := later })) := by
  unfold execOutcomeDelivered
  rw [hout]
  exact takesPlace_true (by simp [State.running, hrun]) _ _

/-- Settles O25: the oldest event alone is taken, and each kind changes the standing, the voids and the tallies by its
own rule. -/
theorem stopFailureStallAndOutcomeTaken : Obligations.StopFailureStallAndOutcomeTaken := by
  refine ⟨fun s n e rest hrun hev => ?_, fun s n rest hrun hev => ?_, fun s n e o rest hrun hout => ?_⟩
  · obtain ⟨hstall, habsence⟩ := exec_waits_behind_stopFailure hrun hev
    have htaken : exec (.stopFailure n) s = _ := execStopFailure_next hrun hev
    refine ⟨hstall, habsence, fun hclear => ?_, fun hother => ?_⟩
    · refine ⟨_, changeStanding_spec n .failed _, ?_⟩
      rw [htaken, takeStopFailure, isClear_updLotNest_events, if_pos (by simpa using hclear)]
      rfl
    · rw [htaken, takeStopFailure, isClear_updLotNest_events, if_neg (by simpa using hother)]
  · exact ⟨_, loseIfClear_spec n _, execStall_next hrun hev⟩
  · refine (execOutcomeDelivered_next hrun hout).trans ?_
    simp only [tally_eq]

/-! ### Absences (R29, R152) -/

/-- The result data of NEST_ACTION, byte by byte (11.5). -/
theorem actionResult_eq (t : State) (m : Nest) (a : NestAction) (halted : Option (StreamId × Word16)) (sent : Bool)
    (link : LinkState) (voided : Nat) : actionResult t m a halted sent link voided =
      [BitVec.ofNat 8 m.val, BitVec.ofNat 8 a.code,
       BitVec.ofNat 8 (bit halted.isSome 0 + bit sent 1 + bit (t.port m).config.excluded 2),
       BitVec.ofNat 8 (t.lotNest m).standing.code, BitVec.ofNat 8 link.code,
       BitVec.ofNat 8 (halted.elim 0 (fun h => h.1.val)), BitVec.ofNat 8 (halted.elim 0 (fun h => h.2.toNat)),
       BitVec.ofNat 8 (halted.elim 0 (fun h => h.2.toNat) / 256), BitVec.ofNat 8 voided, 0#8] := rfl

theorem flags_of_excluded_alone (excluded : Bool) :
    BitVec.ofNat 8 (bit (none : Option (StreamId × Word16)).isSome 0 + bit false 1 + bit excluded 2) =
      if excluded then 4#8 else 0#8 := by
  cases excluded <;> rfl

/-- An absence counts for no RETRAIN but one of its own nest (R152). -/
theorem retrainProgress_of_other (h : ∀ r m k link, s.dispatcher.task = some (.retrain r m k link) → m ≠ n) :
    retrainProgress n s = s := by
  unfold retrainProgress
  split
  · next r m k link htask => rw [if_neg (h r m k link htask)]
  · rfl
  · rfl

theorem retrainProgress_of_more {r : Req} {k : Nat} {link : LinkState}
    (h : s.dispatcher.task = some (.retrain r n k link)) (hk : 2 ≤ k) : retrainProgress n s =
      { s with dispatcher := { s.dispatcher with task := some (.retrain r n (k - 1) link) } } := by
  unfold retrainProgress
  rw [h]
  dsimp only
  rw [if_pos rfl, if_neg (by omega)]

theorem retrainProgress_of_last {r : Req} {link : LinkState}
    (h : s.dispatcher.task = some (.retrain r n 1 link)) : retrainProgress n s =
      respond r .ok (actionResult s n .retrain none false link 0)
        { s with dispatcher := { s.dispatcher with task := none } } := by
  unfold retrainProgress
  rw [h]
  dsimp only
  rw [if_pos rfl, if_pos (by omega)]

/-- Settles O26: the standing by R29, and then the three cases of a RETRAIN that waits. -/
theorem absenceLosesClearNest : Obligations.AbsenceLosesClearNest := by
  refine ⟨fun s n rest hrun hev hother => ?_, fun s n rest r k link hrun hev htask hk => ?_,
    fun s n rest r link hrun hev htask => ?_⟩
  all_goals
    refine ⟨_, loseIfClear_spec n _, (execAbsence_next hrun hev).trans (congrArg Host.Outcome.next ?_)⟩
  · exact retrainProgress_of_other (by simpa using hother)
  · rw [retrainProgress_of_more (by simpa using htask) hk]; simp
  · have hport : (loseIfClear n (s.updLotNest n (fun l => { l with events := rest }))).port n = s.port n :=
      port_congr (by simp) n
    rw [retrainProgress_of_last (by simpa using htask), actionResult_eq, hport, flags_of_excluded_alone]
    have hcode : BitVec.ofNat 8 NestAction.retrain.code = 4#8 := rfl
    simp [respond, finishMessage, hcode]

end Sys2Proof.Machine

end

section
/-! NEST_ACTION CYCLE and EXCLUDE (R31, R32, R152, R154, R155): statements O30 and O31. -/

namespace Sys2Proof.Machine

/-! ### The request (R152) -/

theorem nestActionArgs_of_action (n : Nest) (a : NestAction) :
    nestActionArgs [BitVec.ofNat 8 n.val, BitVec.ofNat 8 a.code] = some (n, a) := by
  cases a <;> revert n <;> decide

theorem nestAction_asked {s : State} {f : RxFrame} {n : Nest} {a : NestAction}
    (h : Asked s f .nestAction [BitVec.ofNat 8 n.val, BitVec.ofNat 8 a.code]) (act : Req → Nest → State → State) :
    nestAction a act s = .next (act (reqOf f) n (passMessage f s)) := by
  obtain ⟨hat, hroom, hcode, hargs⟩ := h
  have htakes : isNestAction a f.msg = true := by
    simp [isNestAction, hcode, hargs, nestActionArgs_of_action]
  rw [nestAction, runRequest_eq hat hroom htakes, hargs, nestActionArgs_of_action]

/-! ### What voids and halts leave as it was: link, Nest Config row and standing -/

/-- The link and the Nest Config row of nest `n` and its standing are the same in `s` and `t`. -/
def KeepsNest (n : Nest) (s t : State) : Prop :=
  (t.port n).link = (s.port n).link ∧ (t.port n).config = (s.port n).config ∧
  (t.lotNest n).standing = (s.lotNest n).standing

section
variable {n : Nest} {p : Copy → Bool} {s t u : State}

theorem KeepsNest.refl (n : Nest) (s : State) : KeepsNest n s s := ⟨rfl, rfl, rfl⟩

theorem KeepsNest.trans (h : KeepsNest n s t) (k : KeepsNest n t u) : KeepsNest n s u := by
  obtain ⟨hlink, hconfig, hstanding⟩ := h
  obtain ⟨klink, kconfig, kstanding⟩ := k
  exact ⟨klink.trans hlink, kconfig.trans hconfig, kstanding.trans hstanding⟩

theorem VoidTaken.keepsNest (h : VoidTaken n p s t) : KeepsNest n s t := by
  obtain ⟨-, -, hport, hlot, -⟩ := h
  rw [KeepsNest, hport, hlot]
  exact ⟨rfl, rfl, rfl⟩

theorem WaitingVoidsTaken.keepsNest (h : WaitingVoidsTaken n s t) : KeepsNest n s t := by
  unfold WaitingVoidsTaken at h
  by_cases hnone : (s.lotNest n).voids = []
  · rw [if_pos hnone] at h
    rw [h]; exact .refl n s
  · rw [if_neg hnone] at h
    obtain ⟨v, hvoid, rfl⟩ := h
    obtain ⟨hlink, hconfig, hstanding⟩ := hvoid.keepsNest
    simp only [KeepsNest, port_updPort_same, lotNest_updPort, hlink, hconfig, hstanding, port_updLotNest,
      lotNest_updLotNest_same, and_self]

theorem HaltTaken.keepsNest (h : HaltTaken n p s t) : KeepsNest n s t := by
  unfold HaltTaken at h
  split at h
  pick_goal 3
  · exact h ▸ .refl n s
  all_goals
    split_ifs at h
    · obtain ⟨-, -, hport, hlot, -⟩ := h
      rw [KeepsNest, hport, hlot]
      exact ⟨rfl, rfl, rfl⟩
    · exact h ▸ .refl n s

/-! ### The count of copies voided (R152; log entry 36) -/

/-- The void of the action counts the QUEUED copies, or none where a void waited and is taken before it. -/
theorem WaitingVoidsTaken.voidCount (h : WaitingVoidsTaken n s t) : voidCount n anyCopy t =
    if (s.lotNest n).voids = [] then ((s.port n).queue.filter (fun x => x.state = .queued)).length else 0 := by
  have queued : isVoidable anyCopy = fun x => decide (x.state = .queued) := by
    funext x; simp [isVoidable, anyCopy]
  rw [Machine.voidCount, queued]
  unfold WaitingVoidsTaken at h
  by_cases hnone : (s.lotNest n).voids = []
  · rw [if_pos hnone] at h ⊢
    rw [h]
  · rw [if_neg hnone] at h ⊢
    obtain ⟨v, ⟨-, -, hport, -, -⟩, rfl⟩ := h
    simp [hport]

/-! ### The halt request and its fields of the result data (R78, R152, R195) -/

/-- `withDispatchOf` hides no difference between states of one Uplink Port and one Dispatcher. -/
theorem withDispatchOf_eq_iff (hu : u.uplink = t.uplink) (hd : u.dispatcher = t.dispatcher) :
    withDispatchOf s u = withDispatchOf s t ↔ u = t := by
  refine ⟨fun h => ?_, fun h => h ▸ rfl⟩
  have h' := congrArg (fun v : State => { v with uplink := t.uplink, dispatcher := t.dispatcher }) h
  calc u = { u with uplink := t.uplink, dispatcher := t.dispatcher } := by rw [← hu, ← hd]
    _ = t := h'

theorem withDispatchOf_haltHead_eq_iff :
    withDispatchOf s (haltHead n anyCopy t) = withDispatchOf s t ↔ haltedStep n t = none := by
  rw [withDispatchOf_eq_iff (by simp) (by simp), haltHead_eq_iff]
  simp [haltedStep]

theorem haltedHead_eq_some {c : Copy} (h : haltedHead n p t = some c) : ∃ rest, (t.port n).queue = c :: rest := by
  unfold haltedHead at h
  split at h <;> try cases h
  all_goals
    next rest _ hqueue =>
    split_ifs at h
    cases h
    exact ⟨rest, hqueue⟩

theorem isSome_haltedStep_iff : (haltedStep n t).isSome = true ↔
    withDispatchOf s (haltHead n anyCopy t) ≠ withDispatchOf s t := by
  rw [Ne, withDispatchOf_haltHead_eq_iff, Option.isSome_iff_ne_none]

end

/-! ### The result data (R152, R195, 11.5) -/

/-- The flags byte holds its three flags at bits 0, 1 and 2, and nothing else. -/
theorem flags_bits (halted sent excluded : Bool) :
    let x := BitVec.ofNat 8 (bit halted 0 + bit sent 1 + bit excluded 2)
    x.getLsbD 0 = halted ∧ x.getLsbD 1 = sent ∧ x.getLsbD 2 = excluded ∧ x.toNat < 8 := by
  revert halted sent excluded; decide

theorem toNat_ofNat_stream (st : StreamId) : (BitVec.ofNat 8 st.val).toNat = st.val := by
  rw [BitVec.toNat_ofNat]; omega

/-- The step number of the copy halted is a field of two bytes at offset 6. -/
theorem leAt_actionResult (t : State) (n : Nest) (a : NestAction) (halted : Option (StreamId × Word16)) (sent : Bool)
    (link : LinkState) (voided : Nat) :
    leAt (actionResult t n a halted sent link voided) 6 2 = halted.elim 0 (fun h => h.2.toNat) := by
  have fits : halted.elim 0 (fun h => h.2.toNat) < 256 ^ 2 := by
    cases halted with
    | none => decide
    | some h => exact h.2.isLt
  rw [actionResult, List.append_assoc, List.append_assoc, leAt_append_right _ _ _ _ (by simp)]
  simp only [List.length_append, length_byte, Nat.reduceAdd, Nat.sub_self, leAt_leBytes_append]
  exact Nat.mod_eq_of_lt fits

theorem haltedFields_actionResult (s t u : State) (n : Nest) (a : NestAction) (sent : Bool) (link : LinkState)
    (voided : Nat) : HaltedFields n (withDispatchOf s t) (withDispatchOf s (haltHead n anyCopy t))
      (actionResult u n a (haltedStep n t) sent link voided) := by
  have bit0 := (flags_bits (haltedStep n t).isSome sent (u.port n).config.excluded).1
  refine ⟨fun h => ?_, fun h => ?_⟩
  · have hnone := withDispatchOf_haltHead_eq_iff.mp h
    refine ⟨bit0.trans (by rw [hnone]; rfl), ?_, ?_⟩
    · rw [actionResult_eq, hnone]; rfl
    · rw [leAt_actionResult, hnone]; rfl
  · have hsome := isSome_haltedStep_iff.mpr h
    refine ⟨bit0.trans hsome, ?_⟩
    obtain ⟨c, hc⟩ : ∃ c, haltedHead n anyCopy t = some c := by
      simpa [haltedStep, Option.isSome_iff_exists] using hsome
    obtain ⟨rest, hqueue⟩ := haltedHead_eq_some hc
    have hstep : haltedStep n t = some (c.stream, (t.entry c.entry).stepNumber) := by rw [haltedStep, hc]; rfl
    refine ⟨c, rest, hqueue, ?_, ?_⟩
    · rw [actionResult_eq, hstep]; exact toNat_ofNat_stream c.stream
    · rw [leAt_actionResult, hstep]; rfl

/-- What the result data of a NEST_ACTION says of nest `n`, whose state after the action is that of `t`, and of the
halt request between `b` and `c`: the fields of R152. -/
structure ActionAnswer (n : Nest) (code : Byte) (sent : Bool) (voided : Nat) (t b c : State) (r : List Byte) :
    Prop where
  length : r.length = 10
  nest : (byteAt r 0).toNat = n.val
  action : byteAt r 1 = code
  halted : (byteAt r 2).getLsbD 0 = true ↔ c ≠ b
  cycleSent : (byteAt r 2).getLsbD 1 = sent
  excluded : (byteAt r 2).getLsbD 2 = (t.port n).config.excluded
  flags : (byteAt r 2).toNat < 8
  standing : (byteAt r 3).toNat = (t.lotNest n).standing.code
  link : (byteAt r 4).toNat = (t.port n).link.code
  haltedFields : HaltedFields n b c r
  voided : byteAt r 8 = BitVec.ofNat 8 voided
  reserved : byteAt r 9 = 0#8

theorem actionAnswer_actionResult (s t u : State) (n : Nest) (a : NestAction) (sent : Bool) (k : Nat) :
    ActionAnswer n (BitVec.ofNat 8 a.code) sent k u (withDispatchOf s t) (withDispatchOf s (haltHead n anyCopy t))
      (actionResult u n a (haltedStep n t) sent (u.port n).link k) := by
  obtain ⟨bit0, bit1, bit2, small⟩ := flags_bits (haltedStep n t).isSome sent (u.port n).config.excluded
  have fields := haltedFields_actionResult s t u n a sent (u.port n).link k
  rw [actionResult_eq] at fields ⊢
  exact {
    length := rfl
    nest := toNat_ofNat_nest n
    action := rfl
    halted := (Bool.eq_iff_iff.mp bit0).trans isSome_haltedStep_iff
    cycleSent := bit1
    excluded := bit2
    flags := small
    standing := toNat_ofNat_standing _
    link := toNat_ofNat_link _
    haltedFields := fields
    voided := rfl
    reserved := rfl }

/-- The answer to an action that leaves the Uplink Port and the Dispatcher to it. -/
theorem answerAction_eq {s t : State} {f : RxFrame} (hu : t.uplink = (passMessage f s).uplink)
    (hd : t.dispatcher = (passMessage f s).dispatcher) (n : Nest) (a : NestAction)
    (halted : Option (StreamId × Word16)) (sent : Bool) (k : Nat) : answerAction (reqOf f) n a halted sent k t =
      answered f .ok (actionResult t n a halted sent (t.port n).link k) (withDispatchOf s t) :=
  respond_undispatch .ok _ hu hd

/-! ### CYCLE (R31, R77, R154) -/

theorem voids_changeStanding (n : Nest) (x : Standing) (s : State) :
    ((changeStanding n x s).lotNest n).voids = (s.lotNest n).voids := by
  obtain ⟨-, hlot, -⟩ := changeStanding_spec n x s
  rw [hlot]

theorem voids_loseIfClear (n : Nest) (s : State) : ((loseIfClear n s).lotNest n).voids = (s.lotNest n).voids := by
  unfold loseIfClear
  split
  · exact voids_changeStanding n .lost s
  · rfl

theorem updPort_updPort (n : Nest) (g h : NestPort → NestPort) (s : State) :
    (s.updPort n g).updPort n h = s.updPort n (fun p => h (g p)) := by
  simp [State.updPort, upd]

/-- The port once its CYCLE frame is behind the lane (R77). -/
def cycled (p : NestPort) : NestPort :=
  { p with backlog := p.backlog ++ [.cycle], service := if p.service = .stalled then .idle else p.service }

theorem sendCycle_eq (n : Nest) (s : State) :
    sendCycle n s = if (s.port n).link = .up then s.updPort n cycled else s := by
  unfold sendCycle sendLane
  rw [updPort_updPort]
  rfl

theorem keepsNest_sendCycle (n : Nest) (s : State) : KeepsNest n s (sendCycle n s) := by
  rw [sendCycle_eq]
  split
  · simp [KeepsNest, cycled]
  · exact .refl n s

/-- CYCLE part by part, in the order of R154. -/
theorem actCycle_parts {s a w b c : State} {n : Nest} (ha : loseIfClear n s = a) (hw : takeWaitingVoids n a = w)
    (hb : voidQueued n anyCopy w = b) (hc : haltHead n anyCopy b = c) (r : Req) : actCycle r n s =
      answerAction r n .cycle (haltedStep n b) ((s.port n).link = .up) (voidCount n anyCopy w) (sendCycle n c) := by
  subst ha hw hb hc; rfl

/-- Settles O30: the parts of R154 one after another, and the answer from the state after the last. -/
theorem cycleAction : Obligations.CycleAction := by
  intro s f n h
  obtain ⟨a, ha⟩ : ∃ a, loseIfClear n (passMessage f s) = a := ⟨_, rfl⟩
  obtain ⟨w, hw⟩ : ∃ w, takeWaitingVoids n a = w := ⟨_, rfl⟩
  obtain ⟨b, hb⟩ : ∃ b, voidQueued n anyCopy w = b := ⟨_, rfl⟩
  obtain ⟨c, hc⟩ : ∃ c, haltHead n anyCopy b = c := ⟨_, rfl⟩
  obtain ⟨t, ht⟩ : ∃ t, sendCycle n c = t := ⟨_, rfl⟩
  have lost : LostIfClear n (passMessage f s) a := ha ▸ loseIfClear_spec n _
  have waited : WaitingVoidsTaken n a w := hw ▸ takeWaitingVoids_spec a n
  have voided : VoidTaken n anyCopy w b := hb ▸ voidQueued_spec w n anyCopy
  have halted : HaltTaken n anyCopy b c := hc ▸ haltHead_spec b n anyCopy
  have port_a : a.port n = s.port n := port_congr (by simp [← ha]) n
  obtain ⟨link_c, config_c, standing_c⟩ := (waited.keepsNest.trans voided.keepsNest).trans halted.keepsNest
  obtain ⟨link_t, config_t, standing_t⟩ : KeepsNest n c t := ht ▸ keepsNest_sendCycle n c
  rw [port_a] at link_c config_c
  have hexec : exec .nestActionCycle s = .next (answered f .ok
      (actionResult t n .cycle (haltedStep n b) ((s.port n).link = .up) (t.port n).link (voidCount n anyCopy w))
      (withDispatchOf s t)) := by
    rw [← answerAction_eq (by simp [← ht, ← hc, ← hb, ← hw, ← ha]) (by simp [← ht, ← hc, ← hb, ← hw, ← ha]), ← ht]
    exact (nestAction_asked (a := .cycle) h actCycle).trans
      (congrArg Host.Outcome.next (actCycle_parts ha hw hb hc (reqOf f)))
  have answer := actionAnswer_actionResult s b t n .cycle ((s.port n).link = .up) (voidCount n anyCopy w)
  rw [hc] at answer
  refine ⟨withDispatchOf s a, withDispatchOf s w, withDispatchOf s b, withDispatchOf s c, _, lost.undispatch,
    waited.undispatch, voided.undispatch, halted.undispatch, fun hup => hexec.trans ?_, fun hnot => hexec.trans ?_,
    answer.length, answer.nest, answer.action, answer.halted, ?_, ?_, answer.flags, answer.haltedFields,
    answer.reserved, ?_, ?_, ?_⟩
  · have sent : t = c.updPort n cycled := by rw [← ht, sendCycle_eq, if_pos (link_c.trans hup)]
    exact congrArg (fun v => Host.Outcome.next (answered f .ok _ (withDispatchOf s v))) sent
  · have unsent : t = c := by rw [← ht, sendCycle_eq, if_neg (by rwa [link_c])]
    exact congrArg (fun v => Host.Outcome.next (answered f .ok _ (withDispatchOf s v))) unsent
  · rw [answer.cycleSent]; simp
  · rw [answer.excluded, config_t, config_c]
  · rw [answer.standing, standing_t, standing_c]; rfl
  · rw [answer.link, link_t, link_c]
  · have voids_a : (a.lotNest n).voids = (s.lotNest n).voids := ha ▸ voids_loseIfClear n _
    rw [answer.voided, waited.voidCount, voids_a, port_a]
    split <;> rfl

/-! ### EXCLUDE (R32, R155) -/

theorem voids_excludeStanding (n : Nest) (s : State) :
    ((excludeStanding n s).lotNest n).voids = (s.lotNest n).voids := by
  unfold excludeStanding
  split
  · rfl
  · exact voids_changeStanding n .excluded s

/-- An EXCLUDE answered after its halt request, given in state `c` (R155). -/
theorem exclude_answered {s c : State} {f : RxFrame} (hu : c.uplink = (passMessage f s).uplink)
    (hd : c.dispatcher = (passMessage f s).dispatcher) (n : Nest) (k : Nat) :
    ∃ r, answerAction (reqOf f) n .exclude (haltedStep n c) false k (haltHead n anyCopy c) =
        answered f .ok r (withDispatchOf s (haltHead n anyCopy c)) ∧
      ActionAnswer n 2#8 false k (haltHead n anyCopy c) (withDispatchOf s c)
        (withDispatchOf s (haltHead n anyCopy c)) r :=
  ⟨_, answerAction_eq (by simp [hu]) (by simp [hd]) n .exclude (haltedStep n c) false k,
    actionAnswer_actionResult s c (haltHead n anyCopy c) n .exclude false k⟩

/-- EXCLUDE in an open lot part by part, in the order of R155. -/
theorem actExclude_open {s a b w c : State} {n : Nest} (hopen : s.lot.isOpen = true) (ha : setExcluded n true s = a)
    (hb : excludeStanding n a = b) (hw : takeWaitingVoids n b = w) (hc : voidQueued n anyCopy w = c) (r : Req) :
    actExclude r n s =
      answerAction r n .exclude (haltedStep n c) false (voidCount n anyCopy w) (haltHead n anyCopy c) := by
  subst ha hb hw hc
  exact if_pos hopen

/-- EXCLUDE in a closed lot gives the halt request alone (R32). -/
theorem actExclude_closed {s a : State} {n : Nest} (hclosed : s.lot.isOpen = false) (ha : setExcluded n true s = a)
    (r : Req) :
    actExclude r n s = answerAction r n .exclude (haltedStep n a) false 0 (haltHead n anyCopy a) := by
  subst ha
  exact if_neg (by simp [hclosed])

/-- Settles O31: with the lot open the parts of R155 one after another, with the lot closed the halt request alone. -/
theorem excludeAction : Obligations.ExcludeAction := by
  intro s f n h
  have hexec : exec .nestActionExclude s = .next (actExclude (reqOf f) n (passMessage f s)) :=
    nestAction_asked (a := .exclude) h actExclude
  obtain ⟨a, ha⟩ : ∃ a, setExcluded n true (passMessage f s) = a := ⟨_, rfl⟩
  have flag_set : withDispatchOf s a =
      s.updPort n (fun p => { p with config := { p.config with excluded := true } }) := by rw [← ha]; rfl
  have port_a : a.port n = { s.port n with config := { (s.port n).config with excluded := true } } := by
    rw [← ha]; exact port_updPort_same (passMessage f s) n _
  have lot_a : a.lotNest n = s.lotNest n := by rw [← ha]; rfl
  cases hopen : s.lot.isOpen with
  | true =>
    obtain ⟨b, hb⟩ : ∃ b, excludeStanding n a = b := ⟨_, rfl⟩
    obtain ⟨w, hw⟩ : ∃ w, takeWaitingVoids n b = w := ⟨_, rfl⟩
    obtain ⟨c, hc⟩ : ∃ c, voidQueued n anyCopy w = c := ⟨_, rfl⟩
    have waited : WaitingVoidsTaken n b w := hw ▸ takeWaitingVoids_spec b n
    have voided : VoidTaken n anyCopy w c := hc ▸ voidQueued_spec w n anyCopy
    obtain ⟨r, hr, answer⟩ := exclude_answered (s := s) (f := f) (c := c) (by simp [← hc, ← hw, ← hb, ← ha])
      (by simp [← hc, ← hw, ← hb, ← ha]) n (voidCount n anyCopy w)
    rw [← actExclude_open (s := passMessage f s) hopen ha hb hw hc] at hr
    obtain ⟨d, hd⟩ : ∃ d, haltHead n anyCopy c = d := ⟨_, rfl⟩
    have halted : HaltTaken n anyCopy c d := hd ▸ haltHead_spec c n anyCopy
    rw [hd] at hr answer
    have port_b : b.port n = a.port n := port_congr (by simp [← hb]) n
    obtain ⟨link_d, config_d, -⟩ := (waited.keepsNest.trans voided.keepsNest).trans halted.keepsNest
    rw [port_b, port_a] at link_d config_d
    refine ⟨withDispatchOf s a, withDispatchOf s b, withDispatchOf s w, withDispatchOf s c, withDispatchOf s d, r,
      flag_set, fun _ hother => ?_, fun _ hexcluded => ?_, fun _ => ⟨waited.undispatch, voided.undispatch⟩,
      fun hclosed => absurd hclosed (by simp), halted.undispatch, hexec.trans (by rw [hr]), answer.length, answer.nest,
      answer.action, answer.halted, answer.cycleSent, ?_, answer.flags, answer.standing, ?_, answer.haltedFields,
      answer.reserved, ?_⟩
    · have changed : b = changeStanding n .excluded a := by rw [← hb, excludeStanding, if_neg (by rwa [lot_a])]
      rw [changed]
      exact (changeStanding_spec n .excluded a).undispatch
    · have same : b = a := by rw [← hb, excludeStanding, if_pos (by rwa [lot_a])]
      rw [same]
    · rw [answer.excluded, config_d]
    · rw [answer.link, link_d]
    · have voids_b : (b.lotNest n).voids = (s.lotNest n).voids := by
        rw [← hb, voids_excludeStanding, lot_a]
      rw [answer.voided, waited.voidCount, voids_b, port_b, port_a]
      simp only [true_and]
      split <;> rfl
  | false =>
    obtain ⟨r, hr, answer⟩ := exclude_answered (s := s) (f := f) (c := a) (by simp [← ha]) (by simp [← ha]) n 0
    rw [← actExclude_closed (s := passMessage f s) hopen ha] at hr
    obtain ⟨d, hd⟩ : ∃ d, haltHead n anyCopy a = d := ⟨_, rfl⟩
    have halted : HaltTaken n anyCopy a d := hd ▸ haltHead_spec a n anyCopy
    rw [hd] at hr answer
    obtain ⟨link_d, config_d, -⟩ := halted.keepsNest
    rw [port_a] at link_d config_d
    refine ⟨withDispatchOf s a, withDispatchOf s a, withDispatchOf s a, withDispatchOf s a, withDispatchOf s d, r,
      flag_set, fun ho => absurd ho (by simp), fun _ _ => rfl, fun ho => absurd ho (by simp), fun _ => rfl,
      halted.undispatch, hexec.trans (by rw [hr]), answer.length, answer.nest, answer.action, answer.halted,
      answer.cycleSent, ?_, answer.flags, answer.standing, ?_, answer.haltedFields, answer.reserved, ?_⟩
    · rw [answer.excluded, config_d]
    · rw [answer.link, link_d]
    · rw [answer.voided]; simp

end Sys2Proof.Machine

end

section
/-! The copies of a queue and the rules of a port, one port at a time (R40, R43, R46, R69): for statement O55. -/

namespace Sys2Proof.Machine

/-! ### The queue (R40, R43, R46) -/

/-- What a copy keeps while it stands in a queue: its entry, its stream, its step number, and whether it has outlived
its entry (R40; log entry 32). -/
def Copy.identity (c : Copy) : EntryId × StreamId × Word16 × Bool := (c.entry, c.stream, c.stepNumber, c.freed)

/-- The copies that have outlived their entries are CLOSING (R43; log entry 32). -/
def FreedClosing (q : List Copy) : Prop := ∀ c ∈ q, c.freed = true → c.state = .closing

/-- The queue `q` becomes `q'`: no copy joins it, those that stay keep their order, and of the copies whose outcome was
not set those of `cs` have ended (R40, R46). -/
structure QueueMove (q cs q' : List Copy) : Prop where
  stays : (q'.map Copy.identity).Sublist (q.map Copy.identity)
  freed : FreedClosing q → FreedClosing q'
  ended : ∀ e, copiesOf (unended q) e = copiesOf (unended q') e + copiesOf cs e

variable {q q' cs rest : List Copy} {c : Copy}

theorem copiesOf_nil (e : EntryId) : copiesOf [] e = 0 := rfl

theorem copiesOf_append (a b : List Copy) (e : EntryId) : copiesOf (a ++ b) e = copiesOf a e + copiesOf b e :=
  List.countP_append ..

/-- The copies of a queue, those that satisfy `p` and the others. -/
theorem copiesOf_filter_add (p : Copy → Bool) (q : List Copy) (e : EntryId) :
    copiesOf (q.filter fun c => !p c) e + copiesOf (q.filter p) e = copiesOf q e := by
  unfold copiesOf
  induction q with
  | nil => rfl
  | cons c q ih => cases hp : p c <;> simp [hp, List.countP_cons] <;> omega

theorem unended_cons_closing (hc : c.state = .closing) (rest : List Copy) : unended (c :: rest) = unended rest := by
  simp [unended, hc]

theorem unended_cons_of_ne (hc : c.state ≠ .closing) (rest : List Copy) :
    unended (c :: rest) = c :: unended rest := by
  simp [unended, hc]

theorem FreedClosing.sublist (h : FreedClosing q) (hq : q'.Sublist q) : FreedClosing q' :=
  fun c hc => h c (hq.subset hc)

namespace QueueMove

theorem refl (q : List Copy) : QueueMove q [] q := ⟨.refl _, id, fun _ => rfl⟩

/-- Everything leaves the queue, and what was not CLOSING has ended (R79). -/
theorem emptied (q : List Copy) : QueueMove q (unended q) [] :=
  ⟨List.nil_sublist _, fun _ _ h => (List.not_mem_nil h).elim, fun _ => (Nat.zero_add _).symm⟩

/-- The QUEUED copies that a void takes leave the queue (R47, R48). -/
theorem voided (p : Copy → Bool) (q : List Copy) :
    QueueMove q (q.filter fun c => c.state = .queued && p c) (q.filter fun c => !(c.state = .queued && p c)) := by
  refine ⟨List.filter_sublist.map _, fun h => h.sublist List.filter_sublist, fun e => ?_⟩
  have ended : (unended q).filter (fun c => c.state = .queued && p c) =
      q.filter (fun c => c.state = .queued && p c) := by
    rw [unended, List.filter_filter]
    refine List.filter_congr fun c _ => ?_
    cases hc : c.state <;> simp
  have left : (unended q).filter (fun c => !(c.state = .queued && p c)) =
      unended (q.filter fun c => !(c.state = .queued && p c)) := by
    rw [unended, unended, List.filter_filter, List.filter_filter]
    exact List.filter_congr fun c _ => Bool.and_comm ..
  rw [← left, ← ended, copiesOf_filter_add]

/-- The head changes its state or its runs, and its outcome is not set (R70, R71). -/
theorem headServed {x : CopyState} {k : Nat} (hc : c.state ≠ .closing) (hx : x ≠ .closing) :
    QueueMove (c :: rest) [] ({ c with state := x, runs := k } :: rest) := by
  refine ⟨.refl _, fun h d hd hfree => ?_, fun e => ?_⟩
  · rcases List.mem_cons.mp hd with rfl | hd
    · exact absurd (h c List.mem_cons_self hfree) hc
    · exact h d (List.mem_cons_of_mem _ hd) hfree
  · rw [unended_cons_of_ne hc, unended_cons_of_ne hx, copiesOf_cons, copiesOf_cons]
    rfl

/-- The head's outcome is set, and it stays CLOSING (R73, R78). -/
theorem headCloses (hc : c.state ≠ .closing) :
    QueueMove (c :: rest) [c] ({ c with state := .closing } :: rest) := by
  refine ⟨.refl _, fun h d hd hfree => ?_, fun e => ?_⟩
  · rcases List.mem_cons.mp hd with rfl | hd
    · rfl
    · exact h d (List.mem_cons_of_mem _ hd) hfree
  · rw [unended_cons_of_ne hc, unended_cons_closing rfl, copiesOf_cons, copiesOf_cons, copiesOf_nil]
    omega

/-- The head's outcome is set, and it leaves (R46, R78). -/
theorem headEnds (hc : c.state ≠ .closing) : QueueMove (c :: rest) [c] rest := by
  refine ⟨(List.sublist_cons_self ..).map _, fun h => h.sublist (List.sublist_cons_self ..), fun e => ?_⟩
  rw [unended_cons_of_ne hc, copiesOf_cons, copiesOf_cons, copiesOf_nil]
  omega

/-- A CLOSING head leaves (R75, R76). -/
theorem closedLeaves (hc : c.state = .closing) : QueueMove (c :: rest) [] rest :=
  ⟨(List.sublist_cons_self ..).map _, fun h => h.sublist (List.sublist_cons_self ..), fun e => by
    rw [unended_cons_closing hc, copiesOf_nil, Nat.add_zero]⟩

end QueueMove

end Sys2Proof.Machine

end

section
namespace Sys2Proof.Machine

variable {p q : NestPort} {c : Copy} {rest cs : List Copy}

/-! ### The rules of a port, part by part (R40, R43, R63, R64, R68, R69) -/

theorem allQueued_iff {l : List Copy} : allQueued l = true ↔ ∀ c ∈ l, c.state = .queued ∧ c.runs = 0 := by
  simp [allQueued]

theorem allQueued_cons : allQueued (c :: rest) = true ↔ (c.state = .queued ∧ c.runs = 0) ∧ allQueued rest = true := by
  simp [allQueued]

theorem allQueued_filter {l : List Copy} (h : allQueued l = true) (f : Copy → Bool) : allQueued (l.filter f) = true :=
  allQueued_iff.mpr fun c hc => allQueued_iff.mp h c (List.mem_of_mem_filter hc)

theorem headIs_cons {x : CopyState} : headIs x (c :: rest) = true ↔ c.state = x ∧ allQueued rest = true := by
  simp [headIs]

theorem headIs_iff {x : CopyState} {l : List Copy} :
    headIs x l = true ↔ ∃ c rest, l = c :: rest ∧ c.state = x ∧ allQueued rest = true := by
  cases l with
  | nil => simp [headIs]
  | cons c rest => simp [headIs_cons]

/-- A port with its link UP and a phone present (R63), and no GREET timed (R61). -/
def Serving (p : NestPort) : Prop := p.link = .up ∧ p.presence = .present ∧ p.greet = .stopped

/-- The halt grace of a port is one that a row may have (R64). -/
def GraceOk (p : NestPort) : Prop := 0 < p.config.haltGrace ∧ p.config.haltGrace ≤ Config.maxGrace

theorem portOk_iff : portOk p = true ↔ p.queue.length ≤ Config.queueCapacity ∧ serviceFits p = true ∧
    timersFit p = true ∧ linkFits p = true ∧ GraceOk p := by
  simp only [portOk, GraceOk, Bool.and_eq_true, decide_eq_true_eq]
  tauto

theorem Serving.linkFits (h : Serving p) : linkFits p = true := by
  obtain ⟨link, presence, greet⟩ := h
  simp [Machine.linkFits, link, presence, greet]

/-- A port that is not IDLE serves (R70, R79). -/
theorem serving_of_linkFits (h : linkFits p = true) (hs : p.service ≠ .idle) : Serving p := by
  simp only [linkFits, Bool.and_eq_true, Bool.or_eq_true, decide_eq_true_eq, decide_not] at h
  obtain ⟨⟨⟨serves, -⟩, -⟩, greet⟩ := h
  obtain ⟨link, presence⟩ := serves.resolve_right fun ⟨_, idle⟩ => hs idle
  exact ⟨link, presence, greet.resolve_left (by simp [link])⟩

/-- A port that serves keeps the rules whose queue and timers fit its service state. -/
theorem portOk_of_serving (hq : p.queue.length ≤ Config.queueCapacity) (hserves : Serving p) (hg : GraceOk p)
    (hs : serviceFits p = true) (ht : timersFit p = true) : portOk p = true :=
  portOk_iff.mpr ⟨hq, hs, ht, hserves.linkFits, hg⟩

/-- A port in WAITING (R66, R68, R69). -/
theorem portOk_waiting {tag : Word16} (h : portOk p = true) (hs : p.service = .waiting tag) :
    tag = p.runTag ∧ headIs .inService p.queue = true ∧ p.gap = .stopped ∧ p.grace = .stopped ∧ Serving p := by
  obtain ⟨-, service, timers, link, -⟩ := portOk_iff.mp h
  have serves := serving_of_linkFits link (by simp [hs])
  simp only [serviceFits, timersFit, hs, Bool.and_eq_true, decide_eq_true_eq] at service timers
  exact ⟨service.1, service.2, timers.1, timers.2, serves⟩

/-- A port in GAP (R68, R69). -/
theorem portOk_gap (h : portOk p = true) (hs : p.service = .gap) :
    headIs .inService p.queue = true ∧ p.deadline = .stopped ∧ p.grace = .stopped ∧ Serving p := by
  obtain ⟨-, service, timers, link, -⟩ := portOk_iff.mp h
  have serves := serving_of_linkFits link (by simp [hs])
  simp only [serviceFits, timersFit, hs, Bool.and_eq_true, decide_eq_true_eq] at service timers
  exact ⟨service, timers.1, timers.2, serves⟩

/-- A port in HALTING (R68, R69). -/
theorem portOk_halting {tag : Word16} (h : portOk p = true) (hs : p.service = .halting tag) :
    headIs .closing p.queue = true ∧ p.deadline = .stopped ∧ p.gap = .stopped ∧ Serving p := by
  obtain ⟨-, service, timers, link, -⟩ := portOk_iff.mp h
  have serves := serving_of_linkFits link (by simp [hs])
  simp only [serviceFits, timersFit, hs, Bool.and_eq_true, decide_eq_true_eq] at service timers
  exact ⟨service, timers.1, timers.2, serves⟩

/-- A port in IDLE or STALLED (R68, R69). -/
theorem portOk_resting (h : portOk p = true) (hs : p.service = .idle ∨ p.service = .stalled) :
    allQueued p.queue = true ∧ p.deadline = .stopped ∧ p.gap = .stopped ∧ p.grace = .stopped := by
  obtain ⟨-, service, timers, -, -⟩ := portOk_iff.mp h
  rcases hs with hs | hs <;>
  · simp only [serviceFits, timersFit, hs, Bool.and_eq_true, decide_eq_true_eq] at service timers
    exact ⟨service, timers.1.1, timers.1.2, timers.2⟩

theorem portOk_length (h : portOk p = true) : p.queue.length ≤ Config.queueCapacity := (portOk_iff.mp h).1

theorem portOk_grace (h : portOk p = true) : GraceOk p := (portOk_iff.mp h).2.2.2.2

theorem portOk_linkFits (h : portOk p = true) : linkFits p = true := (portOk_iff.mp h).2.2.2.1

/-- What the rules of a port say of its link, its presence, its GREETs and its halt grace is the same of `q` as of
`p`. -/
structure LinkKept (p q : NestPort) : Prop where
  link : q.link = p.link
  presence : q.presence = p.presence
  greet : q.greet = p.greet
  grace : q.config.haltGrace = p.config.haltGrace

theorem LinkKept.serving (h : LinkKept p q) (hp : Serving p) : Serving q := by
  obtain ⟨link, presence, greet⟩ := hp
  exact ⟨h.link.trans link, h.presence.trans presence, h.greet.trans greet⟩

theorem LinkKept.graceOk (h : LinkKept p q) (hp : GraceOk p) : GraceOk q := by
  unfold GraceOk; rw [h.grace]; exact hp

/-- A port in WAITING or GAP holds a head in service, and serves (R69). -/
theorem portOk_inService (ok : portOk p = true) (hp : p.service = .gap ∨ ∃ tag, p.service = .waiting tag) :
    headIs .inService p.queue = true ∧ Serving p := by
  rcases hp with hp | ⟨tag, hp⟩
  · obtain ⟨head, -, -, serves⟩ := portOk_gap ok hp
    exact ⟨head, serves⟩
  · obtain ⟨-, head, -, -, serves⟩ := portOk_waiting ok hp
    exact ⟨head, serves⟩

/-! ### What moves a port keep its rules, and end copies of it -/

/-- A port that keeps the rules is one that keeps them afterwards, and of its copies those of `cs` have ended. -/
def PortMove (p : NestPort) (cs : List Copy) (q : NestPort) : Prop :=
  portOk p = true → portOk q = true ∧ QueueMove p.queue cs q.queue

namespace PortMove

theorem refl (p : NestPort) : PortMove p [] p := fun h => ⟨h, .refl _⟩

/-- Nothing that the rules speak of changes. -/
theorem of_eq (hq : q.queue = p.queue) (h : portOk q = portOk p) : PortMove p [] q := fun ok => by
  rw [h, hq]
  exact ⟨ok, .refl _⟩

/-- A port with its queue empty, IDLE and its timers stopped (R79): whatever its link, the rules hold that its link,
presence and backlog keep. -/
theorem emptied (hq : q.queue = []) (hs : q.service = .idle)
    (ht : q.deadline = .stopped ∧ q.gap = .stopped ∧ q.grace = .stopped)
    (hg : q.config.haltGrace = p.config.haltGrace) (hl : portOk p = true → linkFits q = true) :
    PortMove p (unended p.queue) q := fun ok => by
  obtain ⟨deadline, gap, grace⟩ := ht
  have service : serviceFits q = true := by simp [serviceFits, hs, hq, allQueued]
  have timers : timersFit q = true := by simp [timersFit, hs, deadline, gap, grace]
  have graceOk : GraceOk q := by
    unfold GraceOk; rw [hg]; exact portOk_grace ok
  refine ⟨portOk_iff.mpr ⟨by simp [hq], service, timers, hl ok, graceOk⟩, ?_⟩
  rw [hq]
  exact .emptied _

/-- A void of the QUEUED copies that satisfy `f` (R47, R48): a head in service or CLOSING stays. -/
theorem voided (f : Copy → Bool) (p : NestPort) :
    PortMove p (p.queue.filter fun c => c.state = .queued && f c)
      { p with queue := p.queue.filter fun c => !(c.state = .queued && f c) } := fun ok => by
  obtain ⟨length, service, timers, link, grace⟩ := portOk_iff.mp ok
  have head : ∀ x, x ≠ CopyState.queued → headIs x p.queue = true →
      headIs x (p.queue.filter fun c => !(c.state = .queued && f c)) = true := fun x hx hq => by
    obtain ⟨c, rest, hq, hc, hrest⟩ := headIs_iff.mp hq
    rw [hq, List.filter_cons_of_pos (by simp [hc, hx])]
    exact headIs_cons.mpr ⟨hc, allQueued_filter hrest _⟩
  refine ⟨portOk_iff.mpr ⟨(List.length_filter_le ..).trans length, ?_, timers, ?_, grace⟩, .voided f _⟩
  · cases hs : p.service <;> simp only [serviceFits, hs, Bool.and_eq_true] at service ⊢
    case idle => exact allQueued_filter service _
    case waiting => exact ⟨service.1, head _ (by decide) service.2⟩
    case gap => exact head _ (by decide) service
    case halting => exact head _ (by decide) service
    case stalled => exact allQueued_filter service _
  · simp only [linkFits, Bool.and_eq_true, Bool.or_eq_true, decide_eq_true_eq] at link ⊢
    obtain ⟨⟨⟨serves, presence⟩, backlog⟩, greet⟩ := link
    refine ⟨⟨⟨serves.imp_right fun ⟨queue, idle⟩ => ⟨?_, idle⟩, presence⟩, backlog⟩, greet⟩
    rw [queue]; rfl

/-- A head in service stays in service, in WAITING or GAP, whatever changes of its runs (R69, R71, R72). -/
theorem headServes {k : Nat} (hpq : p.queue = c :: rest) (hq : q.queue = { c with runs := k } :: rest)
    (hl : LinkKept p q) (hp : p.service = .gap ∨ ∃ tag, p.service = .waiting tag)
    (hs : portOk p = true → q.service = .gap ∨ q.service = .waiting q.runTag)
    (ht : portOk p = true → timersFit q = true) : PortMove p [] q := fun ok => by
  obtain ⟨head, serves⟩ := portOk_inService ok hp
  have length := portOk_length ok
  rw [hpq] at head length ⊢
  obtain ⟨state, queued⟩ := headIs_cons.mp head
  have served : headIs .inService q.queue = true := hq ▸ headIs_cons.mpr ⟨state, queued⟩
  have service : serviceFits q = true := by rcases hs ok with hs | hs <;> simp [serviceFits, hs, served]
  refine ⟨portOk_of_serving (hq ▸ length) (hl.serving serves) (hl.graceOk (portOk_grace ok)) service (ht ok), ?_⟩
  rw [hq]
  have move := QueueMove.headServed (c := c) (rest := rest) (x := c.state) (k := k) (by simp [state]) (by simp [state])
  exact move

/-- The QUEUED head of an IDLE port that serves is put in service (R70). -/
theorem headStarts {k : Nat} (hpq : p.queue = c :: rest)
    (hq : q.queue = { c with state := .inService, runs := k } :: rest) (hl : LinkKept p q) (hp : p.service = .idle)
    (hc : c.state = .queued) (hserves : p.link = .up ∧ p.presence = .present)
    (hs : q.service = .waiting q.runTag) (ht : q.gap = p.gap ∧ q.grace = p.grace) : PortMove p [] q := fun ok => by
  obtain ⟨queued, -, gap, grace⟩ := portOk_resting ok (.inl hp)
  have length := portOk_length ok
  have greet : p.greet = .stopped := by
    have link := portOk_linkFits ok
    simp only [linkFits, Bool.and_eq_true, Bool.or_eq_true, decide_eq_true_eq] at link
    exact link.2.resolve_left (by simp [hserves.1])
  rw [hpq] at queued length ⊢
  have service : serviceFits q = true := by
    simp [serviceFits, hs, hq, headIs_cons, (allQueued_cons.mp queued).2]
  have timers : timersFit q = true := by simp [timersFit, hs, ht.1, ht.2, gap, grace]
  refine ⟨portOk_of_serving (hq ▸ length) (hl.serving ⟨hserves.1, hserves.2, greet⟩) (hl.graceOk (portOk_grace ok))
    service timers, ?_⟩
  rw [hq]
  exact .headServed (by simp [hc]) (by simp)

/-- The head in service is CLOSING from now on, its outcome set, and the port is in HALTING (R73, R78). -/
theorem headCloses {tag : Word16} (hpq : p.queue = c :: rest) (hq : q.queue = { c with state := .closing } :: rest)
    (hl : LinkKept p q) (hp : p.service = .waiting tag) (hs : q.service = .halting tag)
    (ht : q.deadline = .stopped ∧ q.gap = p.gap) : PortMove p [c] q := fun ok => by
  obtain ⟨-, head, gap, -, serves⟩ := portOk_waiting ok hp
  have length := portOk_length ok
  rw [hpq] at head length ⊢
  obtain ⟨state, queued⟩ := headIs_cons.mp head
  have service : serviceFits q = true := by simp [serviceFits, hs, hq, headIs_cons, queued]
  have timers : timersFit q = true := by simp [timersFit, hs, ht.1, ht.2, gap]
  refine ⟨portOk_of_serving (hq ▸ length) (hl.serving serves) (hl.graceOk (portOk_grace ok)) service timers, ?_⟩
  rw [hq]
  exact .headCloses (by simp [state])

/-- A port that has let its head go, IDLE or STALLED with its timers stopped (R68, R69). -/
theorem portOk_rested (hq : q.queue = rest) (hl : LinkKept p q) (hs : q.service = .idle ∨ q.service = .stalled)
    (ht : q.deadline = .stopped ∧ q.gap = .stopped ∧ q.grace = .stopped) (hserves : Serving p)
    (queued : allQueued rest = true) (hlen : rest.length ≤ Config.queueCapacity) (hg : GraceOk p) :
    portOk q = true := by
  obtain ⟨deadline, gap, grace⟩ := ht
  refine portOk_of_serving (hq ▸ hlen) (hl.serving hserves) (hl.graceOk hg) ?_ ?_
  · rcases hs with hs | hs <;> simp [serviceFits, hs, hq, queued]
  · rcases hs with hs | hs <;> simp [timersFit, hs, deadline, gap, grace]

/-- The head in service leaves, its outcome set, and the port is IDLE (R71, R78). -/
theorem headEnds (hpq : p.queue = c :: rest) (hq : q.queue = rest) (hl : LinkKept p q)
    (hp : p.service = .gap ∨ ∃ tag, p.service = .waiting tag) (hs : q.service = .idle)
    (ht : portOk p = true → q.deadline = .stopped ∧ q.gap = .stopped ∧ q.grace = .stopped) :
    PortMove p [c] q := fun ok => by
  obtain ⟨head, serves⟩ := portOk_inService ok hp
  have length := portOk_length ok
  rw [hpq] at head length ⊢
  obtain ⟨state, queued⟩ := headIs_cons.mp head
  refine ⟨portOk_rested hq hl (.inl hs) (ht ok) serves queued ((Nat.le_succ _).trans length) (portOk_grace ok), ?_⟩
  rw [hq]
  exact .headEnds (by simp [state])

/-- The CLOSING head leaves, and the port is IDLE or STALLED (R75, R76). -/
theorem closedLeaves {tag : Word16} (hq : q.queue = p.queue.tail) (hl : LinkKept p q) (hp : p.service = .halting tag)
    (hs : q.service = .idle ∨ q.service = .stalled)
    (ht : q.deadline = p.deadline ∧ q.gap = p.gap ∧ q.grace = .stopped) : PortMove p [] q := fun ok => by
  obtain ⟨head, deadline, gap, serves⟩ := portOk_halting ok hp
  obtain ⟨c, rest, hpq, state, queued⟩ := headIs_iff.mp head
  have length := portOk_length ok
  rw [hpq] at hq length ⊢
  refine ⟨portOk_rested hq hl hs ⟨ht.1.trans deadline, ht.2.1.trans gap, ht.2.2⟩ serves queued
    ((Nat.le_succ _).trans length) (portOk_grace ok), ?_⟩
  rw [hq]
  exact .closedLeaves state

end PortMove

end Sys2Proof.Machine

end

section
/-! What one operation after another keeps: every port its rules, and its copies in step with the Step Table. -/

namespace Sys2Proof.Machine

variable {s t u : State}

/-! ### The copies of all queues (R46) -/

theorem sum_allNests (f : Nest → Nat) : (allNests.map f).sum = ∑ n, f n := (Fin.sum_univ_def f).symm

/-- The copies of the nests, where one nest alone has any. -/
theorem sum_copiesOf_single (n : Nest) (cs : List Copy) (e : EntryId) :
    (allNests.map fun m => copiesOf (if m = n then cs else []) e).sum = copiesOf cs e := by
  rw [sum_allNests, Finset.sum_eq_single n (fun m _ hm => by rw [if_neg hm, copiesOf_nil]) (by simp), if_pos rfl]

/-- A copy of the queue afterwards is one of the queue before, changed in its state and its runs alone. -/
theorem QueueMove.before {q cs q' : List Copy} (h : QueueMove q cs q') {c : Copy} (hc : c ∈ q') :
    ∃ d ∈ q, d.identity = c.identity :=
  List.mem_map.mp (h.stays.subset (List.mem_map_of_mem hc))

/-- No entry has a second copy in a queue that no copy has joined (R43). -/
theorem QueueMove.nodup {q cs q' : List Copy} (h : QueueMove q cs q')
    (hq : ((q.filter fun c => !c.freed).map fun c => c.entry).Nodup) :
    ((q'.filter fun c => !c.freed).map fun c => c.entry).Nodup := by
  have entries : ∀ l : List Copy, (l.filter fun c => !c.freed).map (fun c => c.entry) =
      ((l.map Copy.identity).filter fun x => !x.2.2.2).map (·.1) := fun l => by
    rw [List.filter_map, List.map_map]; rfl
  rw [entries] at hq ⊢
  exact hq.sublist ((h.stays.filter _).map _)

/-- An entry keeps what a copy has of it: its stream, its step number, and whether it is FREE (R40, R43). -/
structure EntryKept (x y : StepEntry) : Prop where
  stream : y.stream = x.stream
  stepNumber : y.stepNumber = x.stepNumber
  free : y.state = .free ↔ x.state = .free

theorem EntryKept.refl (x : StepEntry) : EntryKept x x := ⟨rfl, rfl, .rfl⟩

/-- The copies and the Step Table still agree after copies have left the queues or ended, and the pending counts have
fallen by those whose outcome was set (R43, R46). -/
theorem CopiesOk.moved (h : CopiesOk s) (cs : Nest → List Copy)
    (move : ∀ n, QueueMove (s.port n).queue (cs n) (t.port n).queue)
    (kept : ∀ e, EntryKept (s.entry e) (t.entry e))
    (pending : ∀ e, (t.entry e).pending = (s.entry e).pending - (allNests.map fun n => copiesOf (cs n) e).sum) :
    CopiesOk t := by
  obtain ⟨nodup, agree, count⟩ := h
  have freed : ∀ n, FreedClosing (s.port n).queue := fun n c hc hfree => by
    have := agree n c hc
    rwa [if_pos hfree] at this
  refine ⟨fun n => (move n).nodup (nodup n), fun n c hc => ?_, fun e => ?_⟩
  · obtain ⟨d, hd, same⟩ := (move n).before hc
    simp only [Copy.identity, Prod.mk.injEq] at same
    obtain ⟨entry, stream, stepNumber, free⟩ := same
    split
    · exact (move n).freed (freed n) c hc ‹_›
    · have of := agree n d hd
      rw [free, if_neg ‹_›, entry, stream, stepNumber] at of
      obtain ⟨live, hstream, hnumber⟩ := of
      exact ⟨fun hf => live ((kept c.entry).free.mp hf), hstream.trans (kept c.entry).stream.symm,
        hnumber.trans (kept c.entry).stepNumber.symm⟩
  · rw [pending, count, sum_allNests, sum_allNests, sum_allNests,
      Finset.sum_congr rfl fun n _ => (move n).ended e, Finset.sum_add_distrib, Nat.add_sub_cancel]

/-- An operation keeps every port its rules and, if they are kept, the copies in agreement with the Step Table. -/
structure PortsKept (s t : State) : Prop where
  ports : PortsOk s → PortsOk t
  copies : PortsOk s → CopiesOk s → CopiesOk t

namespace PortsKept

theorem trans (h : PortsKept s t) (k : PortsKept t u) : PortsKept s u :=
  ⟨fun hs => k.ports (h.ports hs), fun hs hc => k.copies (h.ports hs) (h.copies hs hc)⟩

/-- Every port moves, and copies end in those alone whose entries count them (R46). -/
theorem moved (cs : Nest → List Copy) (move : ∀ n, PortMove (s.port n) (cs n) (t.port n))
    (kept : ∀ e, EntryKept (s.entry e) (t.entry e))
    (pending : ∀ e, (t.entry e).pending = (s.entry e).pending - (allNests.map fun n => copiesOf (cs n) e).sum) :
    PortsKept s t :=
  ⟨fun hs n => (move n (hs n)).1, fun hs hc => hc.moved cs (fun n => (move n (hs n)).2) kept pending⟩

/-- Every port moves, no copy ends, and the entries keep their pending counts. -/
theorem apart (move : ∀ n, PortMove (s.port n) [] (t.port n)) (kept : ∀ e, EntryKept (s.entry e) (t.entry e))
    (pending : ∀ e, (t.entry e).pending = (s.entry e).pending) : PortsKept s t :=
  moved (fun _ => []) move kept fun e => by
    rw [pending, sum_allNests, Finset.sum_eq_zero fun _ _ => copiesOf_nil e, Nat.sub_zero]

/-- Neither the ports nor the Step Table change. -/
theorem of_eq (hp : t.ports = s.ports) (ht : t.table = s.table) : PortsKept s t :=
  apart (fun n => port_congr hp n ▸ .refl _) (fun e => entry_congr ht e ▸ .refl _) fun e => by rw [entry_congr ht e]

theorem refl (s : State) : PortsKept s s := of_eq rfl rfl

/-- Every port moves, and the Step Table does not change. -/
theorem of_table (ht : t.table = s.table) (move : ∀ n, PortMove (s.port n) [] (t.port n)) : PortsKept s t :=
  apart move (fun e => entry_congr ht e ▸ .refl _) fun e => by rw [entry_congr ht e]

/-- One port moves, and nothing else that the rules speak of changes. -/
theorem updPort {n : Nest} {f : NestPort → NestPort} (move : PortMove (s.port n) [] (f (s.port n))) :
    PortsKept s (s.updPort n f) :=
  of_table rfl fun m => by
    rw [port_updPort]
    split
    · next h => exact h ▸ move
    · exact .refl _

/-- One port moves, its copies of `cs` end, and each lowers the pending count of its entry (R46). -/
theorem ended {n : Nest} {o : CopyOutcome} {cs : List Copy} (move : PortMove (s.port n) cs (t.port n))
    (other : ∀ m, m ≠ n → t.port m = s.port m) (h : CopiesEnded n o cs s t) : PortsKept s t := by
  obtain ⟨entries, -⟩ := h
  refine moved (fun m => if m = n then cs else []) (fun m => ?_) (fun e => ?_) fun e => ?_
  · split
    · next h => exact h ▸ move
    · next h => exact other m h ▸ .refl _
  · obtain ⟨entry, -⟩ := entries e
    rw [entry]
    refine ⟨rfl, rfl, ?_⟩
    dsimp only
    split
    · next h => simp [h.2.2]
    · rfl
  · rw [(entries e).1, sum_copiesOf_single]

/-- One port moves, and one copy of it ends (R46). -/
theorem finishCopy {n : Nest} {f : NestPort → NestPort} {c : Copy} {k : Nat} (o : CopyOutcome)
    (move : PortMove (s.port n) [c] (f (s.port n))) : PortsKept s (finishCopy n c.entry k o (s.updPort n f)) := by
  have done := finishCopy_ended (s := s.updPort n f) n { c with runs := k } o
  refine ended (cs := [{ c with runs := k }]) (n := n) ?_ (fun m hm => ?_) (done.congr rfl rfl rfl rfl rfl rfl rfl rfl)
  · rw [port_finishCopy, port_updPort_same]
    exact fun ok => ⟨(move ok).1, (move ok).2.stays, (move ok).2.freed, (move ok).2.ended⟩
  · rw [port_finishCopy, port_updPort, if_neg hm]

end PortsKept

end Sys2Proof.Machine

end

section
namespace Sys2Proof.Machine

variable {p q : NestPort}

/-- A port that is not UP holds no phone and no copy, and is IDLE (R63, R70, R79). -/
theorem portOk_notUp (ok : portOk p = true) (h : p.link ≠ .up) :
    p.presence = .empty ∧ p.queue = [] ∧ p.service = .idle := by
  have link := portOk_linkFits ok
  simp only [linkFits, Bool.and_eq_true, Bool.or_eq_true, decide_eq_true_eq] at link
  obtain ⟨⟨⟨serves, presence⟩, -⟩, -⟩ := link
  obtain ⟨queue, service⟩ := serves.resolve_left fun up => h up.1
  exact ⟨presence.resolve_right h, queue, service⟩

/-- The rules of the link, of a port that holds nothing (R55, R61, R63). -/
theorem linkFits_emptied (hq : q.queue = []) (hs : q.service = .idle)
    (hp : q.presence = .empty ∨ q.link = .up) (hb : q.link ≠ .down ∨ q.backlog = [])
    (hg : q.link = .training ∨ q.greet = .stopped) : linkFits q = true := by
  simp only [linkFits, hq, hs, Bool.and_eq_true, Bool.or_eq_true, decide_eq_true_eq]
  exact ⟨⟨⟨.inr ⟨trivial, trivial⟩, hp⟩, hb⟩, hg⟩

namespace PortMove

/-- Only the link, the presence, the GREETs and what is being sent change, so that the rules of the link still hold
(R55, R61, R63). -/
theorem linked (hq : q.queue = p.queue) (hs : serviceFits q = serviceFits p) (ht : timersFit q = timersFit p)
    (hg : q.config.haltGrace = p.config.haltGrace) (hl : portOk p = true → linkFits q = true) : PortMove p [] q :=
  fun ok => by
    obtain ⟨length, service, timers, -, grace⟩ := portOk_iff.mp ok
    rw [hq]
    exact ⟨portOk_iff.mpr ⟨hq ▸ length, hs ▸ service, ht ▸ timers, hl ok, by unfold GraceOk; rwa [hg]⟩, .refl _⟩

/-- A link that is DOWN goes to TRAINING (R60, R61). -/
theorem trains (n : Nest) (h : p.link = .down) :
    PortMove p [] { p with link := .training, backlog := p.backlog ++ [.greet n], greet := .armed } :=
  linked rfl rfl rfl rfl fun ok => by
    obtain ⟨presence, queue, service⟩ := portOk_notUp ok (by simp [h])
    simp [linkFits, presence, queue, service]

/-- The absence rule (R79), with the link and the presence as they stand. -/
theorem absence (p : NestPort) : PortMove p (unended p.queue)
    { p with queue := [], deadline := .stopped, gap := .stopped, grace := .stopped, service := .idle } :=
  emptied rfl rfl ⟨rfl, rfl, rfl⟩ rfl fun ok => by
    have link := portOk_linkFits ok
    simp only [linkFits, Bool.and_eq_true, Bool.or_eq_true, decide_eq_true_eq] at link
    exact linkFits_emptied rfl rfl link.1.1.2 link.1.2 link.2

end PortMove

namespace PortsKept

variable {s t : State}

/-- A relation that holds of each of two answers holds of the one chosen. -/
theorem ite {p : Prop} [Decidable p] {u : State} (h : p → PortsKept s t) (k : ¬p → PortsKept s u) :
    PortsKept s (if p then t else u) := by
  split
  · exact h ‹_›
  · exact k ‹_›

/-- What an operation does may be known from the rules it starts with. -/
theorem of_ok (h : PortsOk s → PortsKept s t) : PortsKept s t :=
  ⟨fun hs => (h hs).ports hs, fun hs => (h hs).copies hs⟩

/-! ### The operations that commands share -/

theorem updLotNest (n : Nest) (f : LotNest → LotNest) (s : State) : PortsKept s (s.updLotNest n f) := of_eq rfl rfl

theorem respond (r : Req) (x : Status) (result : List Byte) (s : State) : PortsKept s (respond r x result s) :=
  of_eq rfl rfl

theorem loseIfClear (n : Nest) (s : State) : PortsKept s (loseIfClear n s) := of_eq (by simp) (by simp)

theorem voidQueued (n : Nest) (p : Copy → Bool) (s : State) : PortsKept s (voidQueued n p s) := by
  obtain ⟨⟨-, other, -⟩, -, port, -, done⟩ := voidQueued_spec s n p
  exact ended (port ▸ .voided p _) (fun m hm => (other m hm).1) done

theorem absenceRule (n : Nest) (s : State) : PortsKept s (absenceRule n s) := by
  obtain ⟨⟨-, other, -⟩, -, port, -, done⟩ := absenceRule_spec s n
  exact ended (port ▸ .absence _) (fun m hm => (other m hm).1) done

theorem haltHead (n : Nest) (p : Copy → Bool) (s : State) : PortsKept s (haltHead n p s) := by
  have spec := haltHead_spec s n p
  unfold HaltTaken at spec
  split at spec
  · next tag c rest hs hq =>
    split at spec
    · obtain ⟨⟨-, other, -⟩, -, port, -, done⟩ := spec
      refine ended (port ▸ ?_) (fun m hm => (other m hm).1) done
      exact .headCloses hq rfl ⟨rfl, rfl, rfl, rfl⟩ hs rfl ⟨rfl, rfl⟩
    · rw [spec]; exact refl s
  · next c rest hs hq =>
    split at spec
    · obtain ⟨⟨-, other, -⟩, -, port, -, done⟩ := spec
      refine ended (port ▸ ?_) (fun m hm => (other m hm).1) done
      refine .headEnds hq rfl ⟨rfl, rfl, rfl, rfl⟩ (.inl hs) rfl fun ok => ?_
      obtain ⟨-, deadline, grace, -⟩ := portOk_gap ok hs
      exact ⟨deadline, rfl, grace⟩
    · rw [spec]; exact refl s
  · rw [spec]; exact refl s

theorem linkDown (n : Nest) (s : State) : PortsKept s (linkDown n s) := by
  by_cases h : (s.port n).link = .down
  · rw [Machine.linkDown, if_pos h]; exact refl s
  · obtain ⟨⟨-, other, -⟩, port, -, done, -⟩ := linkDown_spec s n h
    refine ended (port ▸ ?_) (fun m hm => (other m hm).1) done
    exact .emptied rfl rfl ⟨rfl, rfl, rfl⟩ rfl fun _ => linkFits_emptied rfl rfl (.inl rfl) (.inr rfl) (.inr rfl)

/-- Links that are DOWN train (R60). -/
theorem of_trained {r : Nest → Bool} (h : Trained r s t) (hr : ∀ n, r n = true → (s.port n).link = .down) :
    PortsKept s t := by
  obtain ⟨frame, port, -⟩ := h
  refine of_table (by rw [frame]) fun n => ?_
  rw [port n]
  split
  · exact .trains n (hr n ‹_›)
  · exact .refl _

theorem trainIfReady (n : Nest) (s : State) : PortsKept s (trainIfReady n s) :=
  of_trained (trainIfReady_spec s n) fun m hm => by
    simp only [ready, Bool.and_eq_true, decide_eq_true_eq] at hm
    exact hm.2.1.1

theorem trainAll (s : State) : PortsKept s (trainAll s) :=
  of_trained (trainAll_spec s) fun m hm => by
    simp only [ready, Bool.and_eq_true, decide_eq_true_eq] at hm
    exact hm.1.1

/-- A port changes in nothing that the rules speak of. -/
theorem untouched {n : Nest} {f : NestPort → NestPort} (hq : (f (s.port n)).queue = (s.port n).queue)
    (h : portOk (f (s.port n)) = portOk (s.port n)) : PortsKept s (s.updPort n f) :=
  updPort (.of_eq hq h)

theorem takeVoids (n : Nest) (taken rest : List VoidCause) (s : State) : PortsKept s (takeVoids n taken rest s) :=
  (updLotNest n _ s).trans ((voidQueued n _ _).trans (untouched rfl rfl))

theorem takeWaitingVoids (n : Nest) (s : State) : PortsKept s (takeWaitingVoids n s) := by
  unfold Machine.takeWaitingVoids
  exact ite (fun _ => refl s) fun _ => takeVoids n _ _ s

theorem haltAndVoid (n : Nest) (st : StreamId) (s : State) : PortsKept s (haltAndVoid n st s) :=
  (haltHead n _ s).trans (voidQueued n _ _)

theorem deliverStopFailure (n : Nest) (e : EntryId) (o : CopyOutcome) (s : State) :
    PortsKept s (deliverStopFailure n e o s) := by
  unfold Machine.deliverStopFailure
  exact ite (fun _ => (updLotNest n _ s).trans (untouched rfl rfl)) fun _ => refl s

theorem countBadFrame (n : Nest) (s : State) : PortsKept s (countBadFrame n s) := by
  unfold Machine.countBadFrame
  exact ite (fun _ => refl s) fun _ => untouched rfl rfl

theorem countLate (n : Nest) (s : State) : PortsKept s (countLate n s) := untouched rfl rfl

theorem judgeAnswer (e : EntryId) (n : Nest) (payload : List Byte) (final : Bool) (s : State) :
    PortsKept s (judgeAnswer e n payload final s).1 := by
  obtain ⟨t, o, h, ht, -⟩ := judgeAnswer_spec s e n payload final
  rw [h]; dsimp only; rw [ht]; exact of_eq rfl rfl

/-! ### Links and presence (R60, R61, R62, R63) -/

/-- The presence is gone, and the absence rule ends what is under way (R63, R79). -/
theorem presenceGone_absenceRule (n : Nest) (s : State) :
    PortsKept s (Machine.absenceRule n (presenceGone n s)) := by
  unfold presenceGone
  split
  · obtain ⟨⟨-, other, -⟩, -, port, -, done⟩ :=
      absenceRule_spec (raiseCause .presence (s.updPort n fun p => { p with presence := .empty })) n
    have at_n : (raiseCause .presence (s.updPort n fun p => { p with presence := .empty })).port n =
      { s.port n with presence := .empty } := port_updPort_same ..
    rw [at_n] at port done
    refine ended (n := n) ?_ (fun m hm => ?_) (done.congr rfl rfl rfl rfl rfl rfl rfl rfl)
    · rw [port]
      refine .emptied rfl rfl ⟨rfl, rfl, rfl⟩ rfl fun ok => ?_
      have link := portOk_linkFits ok
      simp only [linkFits, Bool.and_eq_true, Bool.or_eq_true, decide_eq_true_eq] at link
      exact linkFits_emptied rfl rfl (.inl rfl) link.1.2 link.2
    · rw [(other m hm).1]
      show (s.updPort n _).port m = _
      rw [port_updPort, if_neg hm]
  · exact absenceRule n s

/-- A presence byte is taken with the link UP (R63). -/
theorem setPresence {n : Nest} (present : Bool) (hup : (s.port n).link = .up) :
    PortsKept s (setPresence n present s) := by
  unfold Machine.setPresence
  have comes : PortsKept s (s.updPort n fun p => { p with presence := .present }) := by
    refine updPort (.linked rfl rfl rfl rfl fun ok => ?_)
    have link := portOk_linkFits ok
    simp only [linkFits, Bool.and_eq_true, Bool.or_eq_true, decide_eq_true_eq] at link
    exact Serving.linkFits ⟨hup, rfl, link.2.resolve_left (by simp [hup])⟩
  refine ite (fun _ => ite (fun _ => comes.trans (of_eq rfl rfl)) fun _ => refl s) fun _ =>
    ite (fun _ => ?_) fun _ => refl s
  exact (presenceGone_absenceRule n s).trans (updLotNest n _ _)

end PortsKept

end Sys2Proof.Machine

end

section
/-! The operations of a nest port, of its lane, of the tables and of the requests: what each keeps. -/

namespace Sys2Proof.Machine

variable {s t : State} {n : Nest} {c : Copy} {rest : List Copy}

/-! ### Which copy a command of the service machine finds (R70, R72, R73, R76) -/

theorem of_startable (h : startable n s = some c) : ∃ rest, (s.port n).queue = c :: rest ∧
    (s.port n).service = .idle ∧ c.state = .queued ∧ (s.port n).link = .up ∧ (s.port n).presence = .present := by
  unfold startable at h
  dsimp only at h
  split at h
  · split at h <;> cases h
    next hq hp =>
    obtain ⟨-, idle, queued, up, present, -⟩ := hp
    exact ⟨_, hq, idle, queued, up, present⟩
  · cases h

theorem of_deadlineDue {tag : Word16} (h : deadlineDue n s = some (c, tag)) :
    ∃ rest, (s.port n).queue = c :: rest ∧ (s.port n).service = .waiting tag := by
  unfold deadlineDue at h
  dsimp only at h
  split at h
  · next hs hq =>
    split at h <;> cases h
    exact ⟨_, hq, hs⟩
  all_goals cases h

theorem of_gapDue (h : gapDue n s = some c) : ∃ rest, (s.port n).queue = c :: rest ∧ (s.port n).service = .gap := by
  unfold gapDue at h
  dsimp only at h
  split at h
  · split at h <;> cases h
    next due hq =>
    obtain ⟨-, gap, -⟩ := due
    exact ⟨_, hq, gap⟩
  · cases h

theorem of_graceDue (h : graceDue n s = true) : ∃ tag, (s.port n).service = .halting tag := by
  unfold graceDue at h
  obtain ⟨-, h⟩ := Bool.and_eq_true_iff.mp h
  split at h
  · exact ⟨_, ‹_›⟩
  · cases h
  all_goals cases h

/-- The port once the ANSWER of its head's run is counted (R68, R71): the deadline stops, and the head has one run
more. -/
def runAnswered (c : Copy) (p : NestPort) : NestPort :=
  { p with queue := { c with runs := c.runs + 1 } :: p.queue.tail, deadline := .stopped,
           counters := { p.counters with answers := satInc p.counters.answers } }

/-- The answer of the run of the head, from the port as the run leaves it (R71). -/
theorem takeAnswer_eq (n : Nest) (c : Copy) (status : Byte) (payload : List Byte) (s : State) :
    takeAnswer n c status payload s =
      if status ≠ 0#8 then endByAnswer n c (c.runs + 1) .errored payload (s.updPort n (runAnswered c))
      else if c.runs + 1 < (s.entry c.entry).reps then
        nextRun n c (judgeAnswer c.entry n payload false (s.updPort n (runAnswered c))).1
      else endByAnswer n c (c.runs + 1) (judgeAnswer c.entry n payload true (s.updPort n (runAnswered c))).2 payload
        (judgeAnswer c.entry n payload true (s.updPort n (runAnswered c))).1 := by
  unfold takeAnswer setHead
  dsimp only
  rw [updPort_updPort]
  rfl

namespace PortsKept

/-! ### Runs and answers (R70, R71, R72) -/

theorem startHead (h : startable n s = some c) :
    PortsKept s (sendRun n c (setHead n { c with state := .inService, runs := 0 } s)) := by
  obtain ⟨rest, hq, idle, queued, up, present⟩ := of_startable h
  unfold sendRun setHead
  rw [updPort_updPort]
  exact updPort (.headStarts hq (by rw [hq]; rfl) ⟨rfl, rfl, rfl, rfl⟩ idle queued ⟨up, present⟩ rfl ⟨rfl, rfl⟩)

/-- A further run of the head, from WAITING or from GAP with its timer stopped (R72). -/
theorem sendRun (d : Copy) (hq : (s.port n).queue = c :: rest)
    (hs : ((s.port n).service = .gap ∧ (s.port n).gap = .stopped) ∨ ∃ tag, (s.port n).service = .waiting tag) :
    PortsKept s (sendRun n d s) := by
  refine updPort (.headServes (k := c.runs) hq hq ⟨rfl, rfl, rfl, rfl⟩ (hs.imp_left (·.1)) (fun _ => .inr rfl) ?_)
  intro ok
  rcases hs with ⟨hs, hgap⟩ | ⟨tag, hs⟩
  · obtain ⟨-, -, grace, -⟩ := portOk_gap ok hs
    simp [timersFit, hgap, grace]
  · obtain ⟨-, -, gap, grace, -⟩ := portOk_waiting ok hs
    simp [timersFit, gap, grace]

theorem nextRun {tag : Word16} (d : Copy) (hq : (s.port n).queue = c :: rest)
    (hs : (s.port n).service = .waiting tag) (hd : (s.port n).deadline = .stopped) : PortsKept s (nextRun n d s) := by
  unfold Machine.nextRun
  refine ite (fun _ => sendRun d hq (.inr ⟨tag, hs⟩)) fun _ => ?_
  refine updPort (.headServes (k := c.runs) hq hq ⟨rfl, rfl, rfl, rfl⟩ (.inr ⟨tag, hs⟩) (fun _ => .inl rfl)
    fun ok => ?_)
  obtain ⟨-, -, -, grace, -⟩ := portOk_waiting ok hs
  simp [timersFit, hd, grace]

theorem offerAnswer (e : EntryId) (n : Nest) (payload : List Byte) (s : State) :
    PortsKept s (offerAnswer e n payload s) := by
  obtain ⟨⟨frame, entry, -⟩, -⟩ := offerAnswer_spec s e n payload
  generalize Machine.offerAnswer e n payload s = t at frame entry
  have ports : t.ports = s.ports := by rw [frame]
  refine apart (fun n => port_congr ports n ▸ .refl _) (fun e => ?_) fun e => by rw [entry]
  rw [entry]
  exact ⟨rfl, rfl, .rfl⟩

theorem endByAnswer {tag : Word16} (k : Nat) (o : CopyOutcome) (payload : List Byte)
    (hq : (s.port n).queue = { c with runs := k } :: rest) (hs : (s.port n).service = .waiting tag)
    (hd : (s.port n).deadline = .stopped) : PortsKept s (endByAnswer n c k o payload s) := by
  unfold Machine.endByAnswer
  have leaves : PortMove (s.port n) [{ c with runs := k }]
      { s.port n with queue := (s.port n).queue.tail, service := .idle } := by
    refine .headEnds hq (by rw [hq]; rfl) ⟨rfl, rfl, rfl, rfl⟩ (.inr ⟨tag, hs⟩) rfl fun ok => ?_
    obtain ⟨-, -, gap, grace, -⟩ := portOk_waiting ok hs
    exact ⟨hd, gap, grace⟩
  exact (finishCopy (c := { c with runs := k }) o leaves).trans ((deliverStopFailure ..).trans (offerAnswer ..))

/-- The answer of the run of a head in service (R71): it ends the head, or leaves it in service. -/
theorem takeAnswer {tag : Word16} (status : Byte) (payload : List Byte) (hq : (s.port n).queue = c :: rest)
    (hs : (s.port n).service = .waiting tag) : PortsKept s (takeAnswer n c status payload s) := by
  have counted : PortsKept s (s.updPort n (runAnswered c)) := by
    refine updPort (.headServes hq (by rw [runAnswered, hq]; rfl) ⟨rfl, rfl, rfl, rfl⟩ (.inr ⟨tag, hs⟩) (fun ok => ?_)
      fun ok => ?_)
    · obtain ⟨htag, -⟩ := portOk_waiting ok hs
      exact .inr (hs.trans (congrArg Service.waiting htag))
    · obtain ⟨-, -, gap, grace, -⟩ := portOk_waiting ok hs
      simp [timersFit, runAnswered, hs, gap, grace]
  have port : ∀ u : State, u.ports = (s.updPort n (runAnswered c)).ports →
      (u.port n).queue = { c with runs := c.runs + 1 } :: rest ∧ (u.port n).service = .waiting tag ∧
        (u.port n).deadline = .stopped := fun u hu => by
    rw [port_congr hu, port_updPort_same, runAnswered, hq]
    exact ⟨rfl, hs, rfl⟩
  rw [takeAnswer_eq]
  refine counted.trans ?_
  generalize s.updPort n (runAnswered c) = u at port
  obtain ⟨hq1, hs1, hd1⟩ := port u rfl
  have judged : ∀ final, (Machine.judgeAnswer c.entry n payload final u).1.ports = u.ports := fun final => by
    obtain ⟨t, o, h, ht, -⟩ := judgeAnswer_spec u c.entry n payload final
    rw [h]; dsimp only; rw [ht]
  refine ite (fun _ => endByAnswer _ _ payload hq1 hs1 hd1) fun _ => ite (fun _ => ?_) fun _ => ?_
  · obtain ⟨hq2, hs2, hd2⟩ := port _ (judged false)
    exact (judgeAnswer ..).trans (nextRun _ hq2 hs2 hd2)
  · obtain ⟨hq2, hs2, hd2⟩ := port _ (judged true)
    exact (judgeAnswer ..).trans (endByAnswer _ _ payload hq2 hs2 hd2)

/-! ### Halts and expiries (R72, R73, R75, R76) -/

theorem endHalt {tag : Word16} (hs : (s.port n).service = .halting tag) : PortsKept s (endHalt n s) :=
  updPort (.closedLeaves rfl ⟨rfl, rfl, rfl, rfl⟩ hs (.inl rfl) ⟨rfl, rfl, rfl⟩)

theorem expireDeadline {tag : Word16} (h : deadlineDue n s = some (c, tag)) :
    PortsKept s (expireDeadline n c tag s) := by
  obtain ⟨rest, hq, hs⟩ := of_deadlineDue h
  refine (finishCopy .timeout ?_).trans (deliverStopFailure ..)
  exact .headCloses hq (by rw [hq]; rfl) ⟨rfl, rfl, rfl, rfl⟩ hs rfl ⟨rfl, rfl⟩

theorem expireGap (h : gapDue n s = some c) :
    PortsKept s (Machine.sendRun n c (s.updPort n fun p => { p with gap := .stopped })) := by
  obtain ⟨rest, hq, hs⟩ := of_gapDue h
  have stopped : PortsKept s (s.updPort n fun p => { p with gap := .stopped }) := by
    refine updPort (.headServes (k := c.runs) hq hq ⟨rfl, rfl, rfl, rfl⟩ (.inl hs) (fun _ => .inl hs) fun ok => ?_)
    obtain ⟨-, deadline, grace, -⟩ := portOk_gap ok hs
    simp [timersFit, hs, deadline, grace]
  refine stopped.trans (sendRun (c := c) (rest := rest) c ?_ (.inl ⟨?_, ?_⟩)) <;> rw [port_updPort_same]
  · exact hq
  · exact hs

theorem expireGrace (h : graceDue n s = true) : PortsKept s (deliverStall n (s.updPort n fun p =>
    { p with grace := .stopped, queue := p.queue.tail, service := .stalled })) := by
  obtain ⟨tag, hs⟩ := of_graceDue h
  exact (PortsKept.updPort (.closedLeaves rfl ⟨rfl, rfl, rfl, rfl⟩ hs (.inr rfl) ⟨rfl, rfl, rfl⟩)).trans
    (updLotNest n _ _)

end PortsKept

end Sys2Proof.Machine

end

section
namespace Sys2Proof.Machine

variable {s t : State} {n : Nest}

namespace PortMove

variable {p q : NestPort}

/-- What is being sent changes, with the link not DOWN or nothing left to send (R55). -/
theorem backlog {b : List LaneOut} (h : p.link ≠ .down ∨ b = []) : PortMove p [] { p with backlog := b } :=
  linked rfl rfl rfl rfl fun ok => by
    have link := portOk_linkFits ok
    simp only [linkFits, Bool.and_eq_true, Bool.or_eq_true, decide_eq_true_eq] at link ⊢
    exact ⟨⟨link.1.1, h⟩, link.2⟩

/-- A frame leaves the lane, and the timer that waits for it starts (R61, R68). -/
theorem frameLeaves (s : State) {f : LaneOut} {rest : List LaneOut} (hb : p.backlog = f :: rest) :
    PortMove p [] (startTimerOf s f { p with backlog := rest }) := by
  have left : PortMove p [] { p with backlog := rest } := fun ok => by
    have link := portOk_linkFits ok
    simp only [linkFits, Bool.and_eq_true, Bool.or_eq_true, decide_eq_true_eq, hb] at link
    exact backlog (.inl (link.1.2.resolve_right fun h => nomatch h)) ok
  have lane : portOk p = true → linkFits { p with backlog := rest } = true := fun ok => portOk_linkFits (left ok).1
  cases f <;> unfold startTimerOf <;> dsimp only
  case run tag payload =>
    split
    · split
      · next hs =>
        exact linked rfl rfl (by simp [timersFit, hs]) rfl lane
      · exact left
    · exact left
  case halt tag =>
    split
    · next hs => exact linked rfl rfl (by simp [timersFit, hs]) rfl lane
    · exact left
  case greet =>
    split
    · next hl =>
      refine linked rfl rfl rfl rfl fun ok => ?_
      have link := lane ok
      simp only [linkFits, Bool.and_eq_true, Bool.or_eq_true, decide_eq_true_eq] at link ⊢
      exact ⟨link.1, .inl hl⟩
    · exact left
  case cycle => exact left

/-- The CYCLE frame of an UP link, after which a STALLED nest is IDLE (R77). -/
theorem cycled (h : p.link = .up) : PortMove p [] (cycled p) := by
  refine linked rfl ?_ ?_ rfl fun ok => ?_
  · cases hs : p.service <;> simp [serviceFits, Machine.cycled, hs]
  · cases hs : p.service <;> simp [timersFit, Machine.cycled, hs]
  · have link := portOk_linkFits ok
    unfold linkFits at link
    unfold linkFits Machine.cycled
    dsimp only
    simp only [Bool.and_eq_true, Bool.or_eq_true, decide_eq_true_eq] at link ⊢
    obtain ⟨⟨⟨serves, presence⟩, -⟩, greet⟩ := link
    refine ⟨⟨⟨?_, presence⟩, .inl (by simp [h])⟩, greet⟩
    exact serves.imp_right fun ⟨queue, idle⟩ => ⟨queue, by simp [idle]⟩

/-- A Nest Config row is stored whose halt grace is one that a row may have (R64, R65). -/
theorem config {c : NestConfig} (h : 0 < c.haltGrace ∧ c.haltGrace ≤ Config.maxGrace) :
    PortMove p [] { p with config := c } := fun ok => by
  obtain ⟨length, service, timers, link, -⟩ := portOk_iff.mp ok
  exact ⟨portOk_iff.mpr ⟨length, service, timers, link, h⟩, .refl _⟩

end PortMove

theorem updPort_raiseCause (n : Nest) (x : Cause) (f : NestPort → NestPort) (s : State) :
    (raiseCause x s).updPort n f = raiseCause x (s.updPort n f) := rfl

/-- A presence byte taken with the presence EMPTY (R63). -/
theorem setPresence_of_empty (present : Bool) (h : (s.port n).presence = .empty) : setPresence n present s =
    if present then raiseCause .presence (s.updPort n fun p => { p with presence := .present }) else s := by
  unfold setPresence
  rw [if_pos h, if_neg (by simp [h] : ¬(s.port n).presence = .present)]

namespace PortsKept

/-! ### The lane (R55, R59, R61, R68, R77) -/

theorem frameLeaves {f : LaneOut} {rest : List LaneOut} (h : (s.port n).backlog = f :: rest) :
    PortsKept s (s.updPort n fun p => startTimerOf s f { p with backlog := rest }) :=
  updPort (.frameLeaves s h)

theorem repeatGreet (h : greetDue n s = true) :
    PortsKept s (s.updPort n fun p => { p with backlog := p.backlog ++ [.greet n], greet := .armed }) := by
  simp only [greetDue, Bool.and_eq_true, decide_eq_true_eq] at h
  obtain ⟨⟨-, training⟩, -⟩ := h
  refine updPort (.linked rfl rfl rfl rfl fun ok => ?_)
  obtain ⟨presence, queue, service⟩ := portOk_notUp ok (by simp [training])
  exact linkFits_emptied queue service (.inl presence) (.inl (by simp [training])) (.inl training)

/-- The WELCOME that brings a link UP finds its presence EMPTY (R61, R63). -/
theorem linkUp (id : Word32) (present : Bool) (ht : (s.port n).link = .training) : PortsKept s
    (raiseLink n ((Machine.setPresence n present (s.updPort n fun p => { p with adapterId := id })).updPort n
      fun p => { p with link := .up, greet := .stopped })) := of_ok fun hs => by
  obtain ⟨empty, queue, service⟩ := portOk_notUp (hs n) (by simp [ht])
  have moved : ∀ f : NestPort → NestPort,
      (∀ p, ∃ x, f p = { p with adapterId := id, presence := x, link := .up, greet := .stopped }) →
      PortsKept s (s.updPort n f) := fun f hf => by
    obtain ⟨x, hx⟩ := hf (s.port n)
    refine updPort ?_
    rw [hx]
    exact .linked rfl rfl rfl rfl fun _ => linkFits_emptied queue service (.inr rfl) (.inl (by simp)) (.inr rfl)
  rw [setPresence_of_empty present (by rw [port_updPort_same]; exact empty)]
  split
  · rw [updPort_raiseCause, updPort_updPort, updPort_updPort]
    exact (moved _ fun p => ⟨_, rfl⟩).trans (of_eq rfl rfl)
  · rw [updPort_updPort]
    exact (moved _ fun p => ⟨_, rfl⟩).trans (of_eq rfl rfl)

theorem takeWelcome (n : Nest) (id : Word32) (present : Bool) (s : State) :
    PortsKept s (takeWelcome n id present s) := by
  unfold Machine.takeWelcome
  split
  · exact refl s
  · exact linkUp id present ‹_›
  · next up =>
    exact (untouched rfl rfl : PortsKept s (s.updPort n fun p => { p with adapterId := id })).trans
      (setPresence present (by rw [port_updPort_same]; exact up))

theorem sendCycle (n : Nest) (s : State) : PortsKept s (sendCycle n s) := by
  rw [sendCycle_eq]
  exact ite (fun up => updPort (.cycled up)) fun _ => refl s

theorem takeNote (n : Nest) (code : Word16) (s : State) : PortsKept s (takeNote n code s) := by
  unfold Machine.takeNote; dsimp only
  exact ite (fun _ => of_eq rfl rfl) fun _ => of_eq rfl rfl

theorem takeChat (n : Nest) (payload : List Byte) (s : State) : PortsKept s (takeChat n payload s) := by
  unfold Machine.takeChat
  exact ite (fun _ => of_eq rfl rfl) fun _ => untouched rfl rfl

/-! ### The tables (R64, R65, R183) -/

theorem storeNestConfig (n : Nest) {c : NestConfig} (h : 0 < c.haltGrace ∧ c.haltGrace ≤ Config.maxGrace) (s : State) :
    PortsKept s (storeNestConfig n c s) := by
  have stored : PortsKept s (s.updPort n fun p => { p with config := c }) := updPort (.config h)
  unfold Machine.storeNestConfig
  exact ite (fun _ => stored.trans (linkDown n _)) fun _ =>
    ite (fun _ => stored.trans (trainIfReady n _)) fun _ => stored

theorem writeRow (x : Table) (img : List Byte) (h : writeRow x img s = .written t) : PortsKept s t := by
  cases x <;> simp only [Machine.writeRow] at h
  case group =>
    unfold writeGroupRow at h; split at h <;> cases h
    exact of_eq rfl rfl
  case profile =>
    unfold writeProfileRow at h; dsimp only at h
    repeat' split at h
    all_goals cases h
    all_goals exact of_eq rfl rfl
  case codeSet =>
    unfold writeCodeSetRow at h
    repeat' split at h
    all_goals cases h
    exact of_eq rfl rfl
  case nestConfig =>
    unfold writeNestConfigRow at h; dsimp only at h
    split at h
    · split at h <;> cases h
      next hgrace => exact storeNestConfig _ ⟨by dsimp only; omega, by dsimp only; omega⟩ s
    · cases h
  case allowList =>
    unfold writeAllowRow at h; dsimp only at h
    repeat' split at h
    all_goals cases h
    all_goals exact of_eq rfl rfl
  case settings =>
    unfold writeSettingsRow at h; dsimp only at h
    split at h <;> cases h
    exact of_eq rfl rfl

theorem writeRows (x : Table) (r : Req) (imgs : List (List Byte)) (done : Nat) (s : State) :
    PortsKept s (writeRows x r done imgs s) := by
  induction imgs generalizing done s with
  | nil => exact respond ..
  | cons img rest ih =>
    unfold Machine.writeRows
    cases hw : Machine.writeRow x img s with
    | written s1 => exact (writeRow x img hw).trans (ih _ s1)
    | refused status => exact respond ..

theorem putRowsOf (x : Table) (r : Req) (args : List Byte) (s : State) : PortsKept s (putRowsOf x r args s) := by
  unfold Machine.putRowsOf
  exact ite (fun _ => respond ..) fun _ => writeRows ..

/-! ### Everything at once (R10, R186, R188, R189) -/

theorem mapPorts {f : NestPort → NestPort} (ht : t.table = s.table) (hp : t.ports = mapTable f s.ports)
    (move : ∀ n, PortMove (s.port n) [] (f (s.port n))) : PortsKept s t :=
  of_table ht fun n => by
    have port : t.port n = f (s.port n) := by rw [State.port, hp, mapTable_get]; rfl
    rw [port]
    exact move n

theorem clearCounters (s : State) : PortsKept s (clearCounters s) :=
  mapPorts (f := fun p => { p with counters := NestCounters.zero }) rfl rfl fun _ => .of_eq rfl rfl

theorem applyEnable (mask : NestSet) (s : State) : PortsKept s (applyEnable mask s) := by
  unfold Machine.applyEnable
  induction allNests generalizing s with
  | nil => exact refl s
  | cons n l ih => exact (untouched rfl rfl : PortsKept s (s.updPort n _)).trans (ih _)

theorem endLoading (c : Configuration) (s : State) : PortsKept s (endLoading c s) := by
  unfold Machine.endLoading; dsimp only
  refine trans ?_ (trainAll _)
  have enabled := applyEnable c.enable s
  generalize Machine.applyEnable c.enable s = u at enabled ⊢
  exact enabled.trans (of_eq rfl rfl)

/-- A port as a reset leaves it keeps the rules, with a halt grace that a row may have (R60, R63, R66, R69). -/
theorem portOk_initial {c : NestConfig} (h : 0 < c.haltGrace ∧ c.haltGrace ≤ Config.maxGrace) :
    portOk (NestPort.initial c) = true :=
  portOk_iff.mpr ⟨Nat.zero_le _, rfl, rfl, rfl, h⟩

/-- The ports as a reset leaves them, and every entry FREE (R15, R60). -/
theorem cleared (hp : ∀ n, ∃ c, t.port n = NestPort.initial c ∧
      (PortsOk s → 0 < c.haltGrace ∧ c.haltGrace ≤ Config.maxGrace))
    (ht : t.table = StepTable.initial) : PortsKept s t := by
  refine ⟨fun hs n => ?_, fun _ _ => ?_⟩
  · obtain ⟨c, port, grace⟩ := hp n
    rw [port]
    exact portOk_initial (grace hs)
  have queue : ∀ n, (t.port n).queue = [] := fun n => by
    obtain ⟨c, port, -⟩ := hp n
    rw [port]; rfl
  refine ⟨fun n => by simp [queue], fun n c hc => by simp [queue] at hc, fun e => ?_⟩
  have free : t.entry e = StepEntry.free := entry_of_initial ht e
  rw [free, sum_allNests, Finset.sum_eq_zero fun n _ => by rw [queue]; rfl]
  rfl

end PortsKept

end Sys2Proof.Machine

end

section
/-! A step accepted, a retirement that begins, and one that ends: what becomes of the ports and the copies (R12, R41,
R43, R134, R136). -/

namespace Sys2Proof.Machine

variable {s t : State} {n : Nest} {e : EntryId} {q : StepReq} {target : NestSet} {row : Fin 64} {msg : List Byte}

/-! ### A copy joins a queue (R41, R43) -/

theorem allQueued_append {l : List Copy} (h : allQueued l = true) (c : Copy) (hc : c.state = .queued ∧ c.runs = 0) :
    allQueued (l ++ [c]) = true := by
  rw [allQueued_iff] at h ⊢
  intro d hd
  rcases List.mem_append.mp hd with hd | hd
  · exact h d hd
  · rw [List.mem_singleton.mp hd]; exact hc

theorem headIs_append {x : CopyState} {l : List Copy} (h : headIs x l = true) (c : Copy)
    (hc : c.state = .queued ∧ c.runs = 0) : headIs x (l ++ [c]) = true := by
  obtain ⟨d, rest, hl, hd, queued⟩ := headIs_iff.mp h
  rw [hl, List.cons_append]
  exact headIs_cons.mpr ⟨hd, allQueued_append queued c hc⟩

/-- A QUEUED copy joins the queue of a port that serves and has room (R41, R43). -/
theorem portOk_joined {p : NestPort} (ok : portOk p = true) {c : Copy} (hc : c.state = .queued ∧ c.runs = 0)
    (room : p.queue.length < Config.queueCapacity) (up : p.link = .up ∧ p.presence = .present) :
    portOk { p with queue := p.queue ++ [c] } = true := by
  obtain ⟨-, service, timers, link, grace⟩ := portOk_iff.mp ok
  refine portOk_iff.mpr ⟨by simpa using room, ?_, timers, ?_, grace⟩
  · cases hs : p.service <;> simp only [serviceFits, hs, Bool.and_eq_true] at service ⊢
    case idle => exact allQueued_append service c hc
    case waiting => exact ⟨service.1, headIs_append service.2 c hc⟩
    case gap => exact headIs_append service c hc
    case halting => exact headIs_append service c hc
    case stalled => exact allQueued_append service c hc
  · simp only [linkFits, Bool.and_eq_true, Bool.or_eq_true, decide_eq_true_eq] at link ⊢
    exact ⟨⟨⟨.inl up, link.1.1.2⟩, link.1.2⟩, link.2⟩

/-! ### The step accepted (R6, R12, R41) -/

/-- The nests that keep a copy of an accepted step (R41, R45). -/
def Joins (target : NestSet) (s : State) (n : Nest) : Prop :=
  n ∈ clearTargets target s ∧ n ∉ absentTargets target s

theorem Joins.serves (h : Joins target s n) : (s.port n).link = .up ∧ (s.port n).presence = .present := by
  obtain ⟨clear, stays⟩ := h
  by_contra hno
  exact stays (mem_absentTargets.mpr ⟨clear, hno⟩)

/-- No target nest that is CLEAR is full when a step is accepted (R6 reason 10). -/
theorem room_of_accept (h : checkStep s msg = .accept q target row) (hn : n ∈ clearTargets target s) :
    (s.port n).queue.length < Config.queueCapacity := by
  have fits := checkStep_fits s msg
  rw [h] at fits
  obtain ⟨none_holds, -, -, inTarget⟩ := fits
  obtain ⟨has, clear⟩ := mem_clearTargets.mp hn
  by_contra full
  exact none_holds .nestBusy (by decide) ⟨n, (inTarget n).mp has, clear, Nat.not_lt.mp full⟩

/-- The ports after an acceptance keep the rules (R41, R43). -/
theorem PortsOk.accepted (hs : PortsOk s) (h : Acceptance e q target row (absentTargets target s) s t)
    (room : ∀ n ∈ clearTargets target s, (s.port n).queue.length < Config.queueCapacity) : PortsOk t := fun n => by
  rw [h.port]
  split
  · next joins => exact portOk_joined (hs n) ⟨rfl, rfl⟩ (room n joins.1) (Joins.serves joins)
  · exact hs n

/-! ### The copies of a FREE entry (R43) -/

/-- The queues hold no copy of a FREE entry but what has outlived it (R43; log entry 32). -/
theorem CopiesOk.entry_ne (h : CopiesOk s) (he : (s.entry e).state = .free) {c : Copy} (hc : c ∈ (s.port n).queue)
    (hf : c.freed = false) : c.entry ≠ e := fun heq => by
  have agree := h.2.1 n c hc
  rw [hf, if_neg (by simp), heq] at agree
  exact agree.1 he

theorem CopiesOk.copiesOf_free (h : CopiesOk s) (he : (s.entry e).state = .free) (n : Nest) :
    copiesOf (unended (s.port n).queue) e = 0 := by
  refine copiesOf_eq_zero fun hmem => ?_
  obtain ⟨c, hc, heq⟩ := List.mem_map.mp hmem
  obtain ⟨hq, hstate⟩ := List.mem_filter.mp hc
  have agree := h.2.1 n c hq
  cases hf : c.freed with
  | true => rw [hf, if_pos rfl] at agree; simp [agree] at hstate
  | false => exact h.entry_ne he hq hf heq

theorem sum_ite_eq_countP {α : Type} (p : α → Bool) (l : List α) :
    (l.map fun a => if p a then 1 else 0).sum = l.countP p := by
  induction l with
  | nil => rfl
  | cons a l ih => rw [List.map_cons, List.sum_cons, ih, List.countP_cons]; omega

/-- The copies that an accepted step leaves in the queues, and those of the other entries (R12, R45). -/
theorem copiesOf_joined (h : Acceptance e q target row (absentTargets target s) s t) (n : Nest) (d : EntryId) :
    copiesOf (unended (t.port n).queue) d = copiesOf (unended (s.port n).queue) d +
      if d = e then (if NestSet.has target n && (s.lotNest n).standing = .clear && (s.port n).link = .up &&
        (s.port n).presence = .present then 1 else 0) else 0 := by
  have joins : (n ∈ clearTargets target s ∧ n ∉ absentTargets target s) ↔
      (NestSet.has target n && (s.lotNest n).standing = .clear && (s.port n).link = .up &&
        (s.port n).presence = .present) = true := by
    rw [mem_absentTargets, mem_clearTargets]
    simp only [Bool.and_eq_true, decide_eq_true_eq]
    tauto
  have one : copiesOf [queuedCopy e q.stream q.number] d = if d = e then 1 else 0 := by
    rw [copiesOf_cons, copiesOf_nil, Nat.zero_add]; rfl
  rw [h.port, if_congr joins rfl rfl]
  split
  · rw [unended, List.filter_append, copiesOf_append]
    exact congrArg _ one
  · split <;> rfl

/-- The copies after an acceptance agree with the Step Table (R12, R41, R43). -/
theorem CopiesOk.accepted (hc : CopiesOk s) (he : (s.entry e).state = .free)
    (h : Acceptance e q target row (absentTargets target s) s t) : CopiesOk t := by
  refine ⟨fun n => ?_, fun n c hmem => ?_, fun d => ?_⟩
  · rw [h.port]
    split
    · rw [List.filter_append, List.map_append]
      refine List.nodup_append.mpr ⟨hc.1 n, List.nodup_singleton _, fun a ha b hb heq => ?_⟩
      obtain ⟨c, hmem, rfl⟩ := List.mem_map.mp ha
      obtain ⟨hq, hf⟩ := List.mem_filter.mp hmem
      exact hc.entry_ne he hq (by simpa using hf) (heq.trans (List.mem_singleton.mp hb))
    · exact hc.1 n
  · have old : c ∈ (s.port n).queue → if c.freed then c.state = .closing
        else (t.entry c.entry).state ≠ .free ∧ c.stream = (t.entry c.entry).stream ∧
          c.stepNumber = (t.entry c.entry).stepNumber := fun hq => by
      have agree := hc.2.1 n c hq
      cases hf : c.freed with
      | true => rwa [hf] at agree
      | false => rw [hf] at agree; rw [h.entry, if_neg (hc.entry_ne he hq hf)]; exact agree
    rw [h.port] at hmem
    split at hmem
    · rcases List.mem_append.mp hmem with hq | hnew
      · exact old hq
      · rw [List.mem_singleton.mp hnew]
        show (t.entry e).state ≠ .free ∧ q.stream = (t.entry e).stream ∧ q.number = (t.entry e).stepNumber
        rw [h.entry, if_pos rfl, acceptedEntry, filledEntry]
        refine ⟨?_, rfl, rfl⟩
        dsimp only
        split <;> simp
    · exact old hmem
  · rw [List.map_congr_left fun n _ => copiesOf_joined h n d, sum_allNests, Finset.sum_add_distrib, ← sum_allNests,
      ← sum_allNests, ← hc.2.2 d, h.entry]
    by_cases hd : d = e
    · subst hd
      have none_ : (s.entry d).pending = 0 := by
        rw [hc.2.2 d, sum_allNests, Finset.sum_eq_zero fun n _ => hc.copiesOf_free he n]
      rw [none_, if_pos rfl, Nat.zero_add]
      simp only [if_true]
      rw [sum_ite_eq_countP, ← copiesLeft_absentTargets]
      rfl
    · rw [if_neg hd]
      simp [hd]

end Sys2Proof.Machine

end

section
namespace Sys2Proof.Machine

variable {s t : State} {e : EntryId} {r : Retirement}

/-! ### A retirement begins, and ends (R134, R136) -/

theorem PortsKept.startRetirement (h : (s.entry e).state ≠ .free) : PortsKept s (startRetirement e s) := by
  refine .apart (fun _ => .refl _) (fun d => ?_) fun d => ?_ <;> rw [entry_startRetirement] <;> split
  · next hd =>
    subst hd
    exact ⟨rfl, rfl, by simp [h]⟩
  · exact .refl _
  · next hd => rw [hd]
  · rfl

theorem Copy.entry_release (c : Copy) : (c.release e).entry = c.entry := by
  unfold Copy.release; split <;> rfl

theorem Copy.state_release (c : Copy) : (c.release e).state = c.state := by
  unfold Copy.release; split <;> rfl

theorem Copy.runs_release (c : Copy) : (c.release e).runs = c.runs := by
  unfold Copy.release; split <;> rfl

theorem allQueued_release (l : List Copy) : allQueued (l.map (Copy.release e)) = allQueued l := by
  rw [allQueued, List.all_map, allQueued]
  congr 1
  funext c
  simp [Copy.state_release, Copy.runs_release]

theorem headIs_release (x : CopyState) (l : List Copy) : headIs x (l.map (Copy.release e)) = headIs x l := by
  cases l with
  | nil => rfl
  | cons c rest => simp only [List.map_cons, headIs, Copy.state_release, allQueued_release]

/-- The rules of a port do not say of a copy whether its entry has been freed. -/
theorem portOk_release (p : NestPort) (e : EntryId) :
    portOk { p with queue := p.queue.map (Copy.release e) } = portOk p := by
  simp only [portOk, serviceFits, timersFit, linkFits, List.length_map, allQueued_release, headIs_release,
    List.map_eq_nil_iff]

theorem PortsOk.endRetirement (h : PortsOk s) : PortsOk (endRetirement e s) := fun n => by
  rw [port_endRetirement, portOk_release]
  exact h n

/-- A REPORTING entry has no copy left whose outcome is not set (R46, R134). -/
theorem CopiesOk.closing (hc : CopiesOk s) (hp : (s.entry e).pending = 0) {n : Nest} {c : Copy}
    (h : c ∈ (s.port n).queue) (he : c.entry = e) : c.state = .closing := by
  by_contra hstate
  have count := hc.2.2 e
  rw [hp, sum_allNests] at count
  have none_ := (Finset.sum_eq_zero_iff.mp count.symm) n (Finset.mem_univ n)
  have pos := copiesOf_pos (show c ∈ unended (s.port n).queue from List.mem_filter.mpr ⟨h, by simpa using hstate⟩)
  rw [he, none_] at pos
  exact absurd pos (by decide)

/-- The copies agree with the Step Table when an entry without unfinished copies is freed: those of it that still stand
CLOSING are copies of none from then on (R43, R136; log entry 32). -/
theorem CopiesOk.endRetirement (hc : CopiesOk s) (hp : (s.entry e).pending = 0) : CopiesOk (endRetirement e s) := by
  refine ⟨fun n => ?_, fun n c hmem => ?_, fun d => ?_⟩
  · rw [port_endRetirement, List.filter_map, List.map_map]
    have entries : (fun c => c.entry) ∘ Copy.release e = fun c => c.entry := funext Copy.entry_release
    rw [entries]
    refine (hc.1 n).sublist (.map _ (List.monotone_filter_right _ fun c hfree => ?_))
    simp only [Function.comp_apply, Copy.release] at hfree
    split at hfree
    · cases hfree
    · exact hfree
  · rw [port_endRetirement] at hmem
    obtain ⟨d, hd, rfl⟩ := List.mem_map.mp hmem
    have agree := hc.2.1 n d hd
    by_cases he : d.entry = e
    · have closing := hc.closing hp hd he
      have released : d.release e = { d with freed := true } := if_pos ⟨he, closing⟩
      rw [released, if_pos rfl]
      exact closing
    · have same : d.release e = d := if_neg fun h => he h.1
      rw [same, entry_endRetirement, if_neg he]
      exact agree
  · have kept : ∀ n, copiesOf (unended ((Machine.endRetirement e s).port n).queue) d =
        copiesOf (unended (s.port n).queue) d := fun n => by
      rw [port_endRetirement]
      simp only [unended, copiesOf, List.filter_map, List.countP_map, Function.comp_def, Copy.entry_release,
        Copy.state_release]
    rw [List.map_congr_left fun n _ => kept n, ← hc.2.2 d, entry_endRetirement]
    split <;> rfl

/-- A segment is placed, and with the last the retirement ends (R135, R136). -/
theorem placeSegment_cases (r : Retirement) (s : State) : ∃ u, u.ports = s.ports ∧ u.table = s.table ∧
    (placeSegment r s = u ∨ placeSegment r s = endRetirement r.entry u) := by
  unfold placeSegment
  dsimp only
  split
  · refine ⟨_, ?_, ?_, .inr rfl⟩ <;> rfl
  · refine ⟨_, ?_, ?_, .inl rfl⟩ <;> rfl

/-- A retiring entry is REPORTING, and none of its copies is left to finish (R19, R134). -/
theorem StoresOk.pending_progress (h : StoresOk s) (hr : s.retire.progress = some r) :
    (s.entry r.entry).pending = 0 := by
  obtain ⟨core, -⟩ := (storesOk_iff s).mp h
  obtain ⟨reporting, -⟩ := core.progress r hr
  rcases (entryOk_iff _).mp (core.entries r.entry) with ⟨live, -⟩ | ⟨-, pending, -⟩
  · rw [reporting] at live; cases live
  · exact pending

end Sys2Proof.Machine

end

section
/-! Every command keeps the ports and the copies: statement O55. -/

namespace Sys2Proof.Machine

variable {s t : State}

/-- A command keeps the ports their rules and, the stores in agreement besides, the copies in step with the Step
Table. -/
structure PortsStep (s t : State) : Prop where
  ports : PortsOk s → PortsOk t
  copies : PortsOk s → StoresOk s → CopiesOk s → CopiesOk t

theorem PortsKept.step (h : PortsKept s t) : PortsStep s t := ⟨h.ports, fun hs _ => h.copies hs⟩

theorem PortsKept.of_takesPlace {b : Bool} {u : State} (h : takesPlace b s u = .next t)
    (hu : b = true → PortsKept s u) : PortsKept s t := by
  unfold takesPlace at h
  split at h <;> cases h
  · exact hu ‹_›
  · exact refl s

theorem PortsKept.of_runRequest {p : List Byte → Bool} {act : Req → List Byte → State → State}
    (h : runRequest p act s = .next t) (ha : ∀ r args u, PortsKept u (act r args u)) : PortsKept s t := by
  rcases runRequest_cases h with rfl | ⟨f, rfl⟩
  · exact refl t
  · exact (of_eq (s := s) (t := passMessage f s) rfl rfl).trans (ha ..)

theorem PortsKept.withTable {act : Table → Req → List Byte → State → State}
    (h : ∀ x r args s, PortsKept s (act x r args s)) (r : Req) (args : List Byte) (s : State) :
    PortsKept s (withTable act r args s) := by
  unfold Machine.withTable
  split
  · exact respond ..
  · exact respond ..
  · exact h ..

theorem PortsKept.withoutArgs {act : Req → State → State} (h : ∀ r s, PortsKept s (act r s)) (r : Req)
    (args : List Byte) (s : State) : PortsKept s (withoutArgs act r args s) := by
  unfold Machine.withoutArgs
  exact ite (fun _ => h ..) fun _ => respond ..

/-! ### Messages (R6, R177) -/

theorem execStep_ports (h : execStep s = .next t) : PortsStep s t := by
  unfold execStep at h
  split at h <;> cases h
  case h_2 => exact (PortsKept.refl _).step
  next f _ =>
    unfold takeStep
    have pass : ∀ u, u.ports = (passMessage f s).ports → u.table = (passMessage f s).table →
        PortsStep s (finishMessage u) := fun u hp ht => PortsKept.step (.of_eq (s := s) (t := finishMessage u) hp ht)
    split
    · next reason detail _ =>
      refine pass _ ?_ ?_ <;> unfold refuseStep <;> dsimp only <;> split <;> rfl
    · next q target row hcheck =>
      split
      · next e he =>
        have room : ∀ n ∈ clearTargets target (passMessage f s), (s.port n).queue.length < Config.queueCapacity :=
          fun n hn => room_of_accept hcheck hn
        have acceptance := fun hs : PortsOk s => acceptance_acceptInto (s := passMessage f s) hs e q target row
        refine ⟨fun hs => ?_, fun hs _ hc => ?_⟩
        · have ok : PortsOk (acceptInto e q target row (passMessage f s)) :=
            PortsOk.accepted (s := passMessage f s) hs (acceptance hs) room
          exact ok
        · have ok : CopiesOk (acceptInto e q target row (passMessage f s)) :=
            CopiesOk.accepted (s := passMessage f s) hc (chooseEntry_free he) (acceptance hs)
          exact ok
      · exact pass _ rfl rfl

theorem requestUnknownCode_ports (h : execRequestUnknownCode s = .next t) : PortsKept s t :=
  .of_runRequest h fun _ _ _ => .respond ..

theorem getRows_ports (h : execGetRows s = .next t) : PortsKept s t := by
  refine .of_runRequest h (PortsKept.withTable fun x r args u => ?_)
  unfold getRowsOf
  refine .ite (fun _ => .respond ..) fun _ => ?_
  split <;> exact .respond ..

theorem getCounters_ports (h : execGetCounters s = .next t) : PortsKept s t := by
  refine .of_runRequest h fun r args u => ?_
  split <;> exact .respond ..

theorem getCountersClear_ports (h : execGetCountersClear s = .next t) : PortsKept s t := by
  refine .of_runRequest h fun r args u => ?_
  split
  · exact (PortsKept.clearCounters u).trans (.respond ..)
  · exact .respond ..

theorem releaseAttention_ports (h : execReleaseAttention s = .next t) : PortsKept s t := by
  refine .of_runRequest h fun r args u => ?_
  split
  · unfold releaseSlot; dsimp only
    split <;> exact .of_eq rfl rfl
  · exact .respond ..

theorem putRows_ports {x : Table} (h : putRows x s = .next t) : PortsKept s t :=
  .of_runRequest h (PortsKept.withTable PortsKept.putRowsOf)

/-! ### Lots (R24, R26, R28, R29) -/

theorem openLot_ports (h : execOpenLot s = .next t) : PortsKept s t := by
  refine .of_runRequest h fun r args u => ?_
  split
  · exact .respond ..
  · exact .ite (fun _ => .respond ..) fun _ => .ite (fun _ => .respond ..) fun _ => .of_eq rfl rfl

theorem closeLot_ports (h : execCloseLot s = .next t) : PortsKept s t :=
  .of_runRequest h (PortsKept.withoutArgs fun _ _ =>
    .ite (fun _ => .respond ..) fun _ => .ite (fun _ => .respond ..) fun _ => .of_eq rfl rfl)

theorem PortsKept.takeStopFailure (n : Nest) (s : State) : PortsKept s (takeStopFailure n s) := by
  unfold Machine.takeStopFailure
  exact ite (fun _ => of_eq (by simp [giveVoid]) (by simp [giveVoid])) fun _ => untouched rfl rfl

theorem PortsKept.retrainProgress (n : Nest) (s : State) : PortsKept s (retrainProgress n s) := by
  unfold Machine.retrainProgress
  split
  · exact ite (fun _ => ite (fun _ => of_eq rfl rfl) fun _ => of_eq rfl rfl) fun _ => refl s
  all_goals exact refl s

theorem voidInstruction_ports {n : Nest} (h : execVoidInstruction n s = .next t) : PortsKept s t := by
  unfold execVoidInstruction at h
  split at h
  · exact .of_takesPlace h fun _ => .takeVoids ..
  · cases h; exact .refl _

theorem outcomeDelivered_ports {n : Nest} (h : execOutcomeDelivered n s = .next t) : PortsKept s t := by
  unfold execOutcomeDelivered at h
  split at h
  · exact .of_takesPlace h fun _ => .updLotNest ..
  · cases h; exact .refl _

/-! ### Aborts and nest actions (R146, R148, R152) -/

theorem abortStream_ports (h : execAbortStream s = .next t) : PortsKept s t := by
  refine .of_runRequest h fun r args u => ?_
  split
  · exact .respond ..
  · next st _ =>
    have marked : ∀ e, (markEntries st (drainStream st u)).entry e =
        { u.entry e with aborted := (u.entry e).aborted || marks st (u.entry e) } := fun e => by
      have table : (drainStream st u).table = u.table := by unfold drainStream; split <;> rfl
      rw [← entry_congr table e]
      simp [markEntries, State.entry]
    have ports : (markEntries st (drainStream st u)).ports = u.ports := by
      unfold markEntries drainStream; dsimp only; split <;> rfl
    refine .trans (t := markEntries st (drainStream st u)) ?_ (.of_eq rfl rfl)
    refine .apart (fun n => port_congr ports n ▸ .refl _) (fun e => ?_) fun e => by rw [marked]
    rw [marked]
    exact ⟨rfl, rfl, .rfl⟩

theorem streamHaltAndVoid_ports {n : Nest} (h : execStreamHaltAndVoid n s = .next t) : PortsKept s t := by
  unfold execStreamHaltAndVoid at h
  split at h
  · next st _ _ _ _ _ =>
    refine .of_takesPlace h fun _ => (PortsKept.haltAndVoid n st s).trans ?_
    unfold abortProgress; dsimp only
    exact .ite (fun _ => .of_eq rfl rfl) fun _ => .of_eq rfl rfl
  all_goals cases h; exact .refl s

theorem nestAction_ports {a : NestAction} {act : Req → Nest → State → State}
    (h : nestAction a act s = .next t) (ha : ∀ r n u, PortsKept u (act r n u)) : PortsKept s t := by
  refine .of_runRequest h fun r args u => ?_
  split
  · exact ha ..
  · exact .respond ..

theorem PortsKept.actHalt (r : Req) (n : Nest) (s : State) : PortsKept s (actHalt r n s) :=
  (haltHead n anyCopy s).trans (respond ..)

theorem PortsKept.actCycle (r : Req) (n : Nest) (s : State) : PortsKept s (actCycle r n s) := by
  unfold Machine.actCycle; dsimp only
  exact (loseIfClear n s).trans ((takeWaitingVoids n _).trans ((voidQueued n _ _).trans
    ((haltHead n _ _).trans ((sendCycle n _).trans (respond ..)))))

theorem PortsKept.actExclude (r : Req) (n : Nest) (s : State) : PortsKept s (actExclude r n s) := by
  have hset : PortsKept s (setExcluded n true s) := untouched rfl rfl
  unfold Machine.actExclude; dsimp only
  refine ite (fun _ => ?_) fun _ => hset.trans ((haltHead n _ _).trans (respond ..))
  refine hset.trans (trans ?_ ((takeWaitingVoids n _).trans ((voidQueued n _ _).trans
    ((haltHead n _ _).trans (respond ..)))))
  exact of_eq (by simp) (by simp)

theorem PortsKept.actInclude (r : Req) (n : Nest) (s : State) : PortsKept s (actInclude r n s) :=
  (untouched rfl rfl : PortsKept s (setExcluded n false s)).trans (respond ..)

theorem PortsKept.actRetrain (r : Req) (n : Nest) (s : State) : PortsKept s (actRetrain r n s) := by
  have hlink := (linkDown n s).trans (trainIfReady n _)
  unfold Machine.actRetrain; dsimp only
  exact ite (fun _ => hlink.trans (respond ..)) fun _ => hlink.trans (of_eq rfl rfl)

/-! ### The lane and the service machine (R58, R59, R67, R70) -/

theorem laneSignalPresent_ports {n : Nest} (h : execLaneSignalPresent n s = .next t) : PortsKept s t := by
  cases h
  exact .trans (.of_eq (s := s) (t := { s with signal := upd s.signal n (fun _ => true) }) rfl rfl)
    (.ite (fun _ => .trainIfReady ..) fun _ => .refl _)

theorem laneSignalLost_ports {n : Nest} (h : execLaneSignalLost n s = .next t) : PortsKept s t := by
  cases h
  exact .trans (.of_eq (s := s) (t := { s with signal := upd s.signal n (fun _ => false) }) rfl rfl)
    (.ite (fun _ => .linkDown ..) fun _ => .refl _)

theorem frameLeavesLane_ports {n : Nest} (h : execFrameLeavesLane n s = .next t) : PortsKept s t := by
  refine .of_takesPlace h fun _ => ?_
  split
  · exact .refl s
  · exact .frameLeaves ‹_›

theorem welcome_ports {n : Nest} {id : Word32} {b : Byte} (h : execWelcome n id b s = .next t) : PortsKept s t := by
  refine .of_takesPlace h fun _ => ?_
  split
  · exact .takeWelcome ..
  · exact .countBadFrame ..

theorem presence_ports {n : Nest} {b : Byte} (h : execPresence n b s = .next t) : PortsKept s t := by
  refine .of_takesPlace h fun _ => ?_
  split
  · exact .ite (fun up => .setPresence _ up) fun _ => .refl s
  · exact .countBadFrame ..

theorem answer_ports {n : Nest} {tag : Word16} {status : Byte} {payload : List Byte}
    (h : execAnswer n tag status payload s = .next t) : PortsKept s t := by
  refine .of_takesPlace h fun _ => .ite (fun _ => .countBadFrame ..) fun _ => .ite (fun _ => ?_) fun _ => .refl s
  unfold classifyAnswer
  split
  · next hs =>
    split
    · split
      · next c rest hq => exact .takeAnswer status payload hq hs
      · exact .refl s
    · exact .countLate ..
  · next halted hs =>
    refine .ite (fun _ => (PortsKept.countLate n s).trans (.endHalt (tag := halted) ?_)) fun _ => .countLate ..
    rw [countLate, State.updNestCounters, port_updPort_same]
    exact hs
  all_goals exact .countLate ..

theorem stopped_ports {n : Nest} {tag : Word16} (h : execStopped n tag s = .next t) : PortsKept s t :=
  .of_takesPlace h fun _ => .ite (fun hs => .endHalt hs) fun _ => .countLate ..

theorem startHead_ports {n : Nest} (h : execStartHead n s = .next t) : PortsKept s t := by
  unfold execStartHead at h
  split at h <;> cases h
  · exact .startHead ‹_›
  · exact .refl _

theorem deadlineExpiry_ports {n : Nest} (h : execDeadlineExpiry n s = .next t) : PortsKept s t := by
  unfold execDeadlineExpiry at h
  split at h <;> cases h
  · exact .expireDeadline ‹_›
  · exact .refl _

theorem gapExpiry_ports {n : Nest} (h : execGapExpiry n s = .next t) : PortsKept s t := by
  unfold execGapExpiry at h
  split at h <;> cases h
  · exact .expireGap ‹_›
  · exact .refl _

theorem chat_ports {n : Nest} {payload : List Byte} (h : execChat n payload s = .next t) : PortsKept s t :=
  .of_takesPlace h fun _ => .ite (fun _ => .countBadFrame ..) fun _ => .ite (fun _ => .takeChat ..) fun _ => .refl s

/-! ### The uplink and retirement (R134, R135, R173) -/

theorem frameReceived_ports {frame : List Byte} (h : execFrameReceived frame s = .next t) : PortsKept s t := by
  refine .of_takesPlace h fun _ => ?_
  unfold takeFrame
  split
  · exact .of_eq rfl rfl
  · exact .of_eq rfl rfl
  · exact .ite (fun _ => .of_eq rfl rfl) fun _ => .of_eq rfl rfl

theorem uplinkFrameSent_ports (h : execUplinkFrameSent s = .next t) : PortsKept s t := by
  unfold execUplinkFrameSent at h
  split at h
  · exact .of_takesPlace h fun _ => .of_eq rfl rfl
  · cases h; exact .refl _

theorem uplinkLinkChange_ports {up : Bool} (h : execUplinkLinkChange up s = .next t) : PortsKept s t := by
  cases h
  refine .trans (.of_eq (s := s) (t := { s with phyUp := up }) rfl rfl)
    (.ite (fun _ => .ite (fun _ => .of_eq rfl rfl) fun _ => ?_) fun _ => .refl _)
  unfold uplinkDown; dsimp only
  split <;> exact .of_eq rfl rfl

theorem retirementStart_ports (h : execRetirementStart s = .next t) : PortsStep s t := by
  unfold execRetirementStart at h
  split at h <;> cases h
  · next e he =>
    refine ⟨fun hs => hs, fun hs hst hc => ?_⟩
    obtain ⟨-, candidate, -⟩ := retirable_eq_some s he
    obtain ⟨core, -⟩ := (storesOk_iff s).mp hst
    obtain ⟨complete, -⟩ := core.candidate e candidate
    exact (PortsKept.startRetirement (by simp [complete])).copies hs hc
  · exact (PortsKept.refl _).step

theorem segmentPlaced_ports (h : execSegmentPlaced s = .next t) : PortsStep s t := by
  unfold execSegmentPlaced at h
  split at h
  · next r hr =>
    rcases takesPlace_cases h with rfl | rfl
    · exact (PortsKept.refl _).step
    · obtain ⟨u, ports, table, hu | hu⟩ := placeSegment_cases r s <;> rw [hu]
      · exact (PortsKept.of_eq ports table).step
      · have same := PortsKept.of_eq ports table
        refine ⟨fun hs => (same.ports hs).endRetirement, fun hs hst hc => (same.copies hs hc).endRetirement ?_⟩
        rw [entry_congr table]
        exact hst.pending_progress hr
  · cases h; exact (PortsKept.refl _).step

/-! ### Resets (R187, R189) -/

theorem powerOn_ports (strap : BitVec 4) (s : State) : PortsKept s (powerOnState strap s) :=
  .cleared (fun n => ⟨NestConfig.default false, port_reset n, fun _ => by decide⟩) rfl

theorem restartEvent_ports (h : execRestartEvent s = .next t) : PortsKept s t :=
  .of_takesPlace h fun _ => .trans (t := restartState s)
    (.cleared (fun n => ⟨(s.port n).config, by simp [State.port, restartState], fun hs => portOk_grace (hs n)⟩) rfl)
    (.trainAll _)

theorem resetPinAssertion_ports (h : execResetPinAssertion s = .next t) : PortsKept s t := by
  cases h
  exact .mapPorts (f := fun p => { p with backlog := [] }) rfl rfl fun _ => .backlog (.inr rfl)

/-- Every command keeps the ports and the copies. -/
theorem exec_ports (c : Instr) (s t : State) (h : exec c s = .next t) : PortsStep s t := by
  cases c with
  | step => exact execStep_ports h
  | retirementStart => exact retirementStart_ports h
  | segmentPlaced => exact segmentPlaced_ports h
  | powerOn strap => cases h; exact (powerOn_ports strap s).step
  | resetPin strap => cases h; exact (powerOn_ports strap s).step
  | restartEvent => exact (restartEvent_ports h).step
  | resetPinAssertion => exact (resetPinAssertion_ports h).step
  | loadingEnd flash => exact (PortsKept.of_takesPlace h fun _ => .endLoading ..).step
  | frameReceived frame => exact (frameReceived_ports h).step
  | requestWaiting => exact (PortsKept.of_takesPlace h fun _ => .of_eq rfl rfl).step
  | requestUnknownCode => exact (requestUnknownCode_ports h).step
  | describe => exact (PortsKept.of_runRequest h (PortsKept.withoutArgs fun _ _ => .respond ..)).step
  | putRowsGroup => exact (putRows_ports h).step
  | putRowsProfile => exact (putRows_ports h).step
  | putRowsCodeSet => exact (putRows_ports h).step
  | putRowsNestConfig => exact (putRows_ports h).step
  | putRowsAllowList => exact (putRows_ports h).step
  | putRowsSettings => exact (putRows_ports h).step
  | getRows => exact (getRows_ports h).step
  | getCounters => exact (getCounters_ports h).step
  | getCountersClear => exact (getCountersClear_ports h).step
  | getState => exact (PortsKept.of_runRequest h (PortsKept.withoutArgs fun _ _ => .respond ..)).step
  | openLot => exact (openLot_ports h).step
  | closeLot => exact (closeLot_ports h).step
  | abortStream => exact (abortStream_ports h).step
  | streamHaltAndVoid n => exact (streamHaltAndVoid_ports h).step
  | nestActionHalt => exact (nestAction_ports h .actHalt).step
  | nestActionCycle => exact (nestAction_ports h .actCycle).step
  | nestActionExclude => exact (nestAction_ports h .actExclude).step
  | nestActionInclude => exact (nestAction_ports h .actInclude).step
  | nestActionRetrain => exact (nestAction_ports h .actRetrain).step
  | releaseAttention => exact (releaseAttention_ports h).step
  | restart => exact (PortsKept.of_runRequest h (PortsKept.withoutArgs fun _ _ => .of_eq rfl rfl)).step
  | uplinkTransmitStart => exact (PortsKept.of_takesPlace h fun _ => .of_eq rfl rfl).step
  | uplinkFrameSent => exact (uplinkFrameSent_ports h).step
  | uplinkLinkChange up => exact (uplinkLinkChange_ports h).step
  | laneSignalPresent n => exact (laneSignalPresent_ports h).step
  | laneSignalLost n => exact (laneSignalLost_ports h).step
  | greetRepeat n => exact (PortsKept.of_takesPlace h .repeatGreet).step
  | frameLeavesLane n => exact (frameLeavesLane_ports h).step
  | badFrame n bytes => exact (PortsKept.of_takesPlace h fun _ => .countBadFrame ..).step
  | welcome n id presence => exact (welcome_ports h).step
  | presence n presence => exact (presence_ports h).step
  | answer n tag status payload => exact (answer_ports h).step
  | stopped n tag => exact (stopped_ports h).step
  | note n code => exact (PortsKept.of_takesPlace h fun _ => .takeNote ..).step
  | chat n payload => exact (chat_ports h).step
  | startHead n => exact (startHead_ports h).step
  | deadlineExpiry n => exact (deadlineExpiry_ports h).step
  | gapExpiry n => exact (gapExpiry_ports h).step
  | graceExpiry n => exact (PortsKept.of_takesPlace h .expireGrace).step
  | stopFailure n =>
    exact (PortsKept.of_takesPlace h fun _ => (PortsKept.updLotNest n _ s).trans (.takeStopFailure ..)).step
  | absence n =>
    exact (PortsKept.of_takesPlace h fun _ => (PortsKept.updLotNest n _ s).trans ((PortsKept.loseIfClear ..).trans
      (.retrainProgress ..))).step
  | stall n =>
    exact (PortsKept.of_takesPlace h fun _ => (PortsKept.updLotNest n _ s).trans ((PortsKept.loseIfClear ..).trans
      (.updLotNest ..))).step
  | voidInstruction n => exact (voidInstruction_ports h).step
  | outcomeDelivered n => exact (outcomeDelivered_ports h).step
  | noticeBuild => exact (PortsKept.of_takesPlace h fun _ => .of_eq rfl rfl).step
  | throttleExpiry => exact (PortsKept.of_takesPlace h fun _ => .of_eq rfl rfl).step
  | timeSinceStartTick => exact (PortsKept.of_takesPlace h fun _ => .of_eq rfl rfl).step

/-- Settles O55: every operation of a command moves a port within its rules and ends no copy that its entry does not
count; a step accepted adds copies of an entry that was FREE, and one freed leaves none. -/
theorem stepKeepsPorts : Obligations.StepKeepsPorts := by
  refine ⟨fun s t hs h => ?_, fun s t hs hst hc h => ?_⟩ <;> rcases step_cases h with rfl | ⟨c, rest, h⟩
  · exact hs
  · exact (exec_ports c _ t h).ports hs
  · exact hc
  · exact (exec_ports c _ t h).copies hs hst hc

end Sys2Proof.Machine

end

section
/-! A copy that ends by an answer or an expiry, a grace that expires and a void instruction: statements O42, O44 and
O45. -/

namespace Sys2Proof.Machine

variable {s t : State} {n : Nest}

/-! ### A stop failure, and the end of one copy with it (R28, R46, R74) -/

/-- A failing outcome under policy STOP sets the stop hold and delivers a stop failure, and nothing else changes. -/
theorem deliverStopFailure_spec (n : Nest) (e : EntryId) (o : CopyOutcome) (s : State) :
    OnlyNest n s (deliverStopFailure n e o s) ∧
    (deliverStopFailure n e o s).port n = { s.port n with
      stopHold := (s.port n).stopHold || (o.failure && decide ((s.entry e).policy = .stop)) } ∧
    (deliverStopFailure n e o s).lotNest n = { s.lotNest n with
      events := if o.failure = true ∧ (s.entry e).policy = .stop then (s.lotNest n).events ++ [.stopFailure e]
        else (s.lotNest n).events } := by
  unfold deliverStopFailure
  by_cases h : o.failure = true ∧ (s.entry e).policy = .stop
  · rw [if_pos h, if_pos h]
    refine ⟨(onlyNest_updLotNest s n _).trans (onlyNest_updPort _ n _), ?_, ?_⟩
    · rw [port_updPort_same]
      simp [h.1, h.2, deliverEvent]
    · exact lotNest_updLotNest_same s n _
  · rw [if_neg h, if_neg h]
    refine ⟨OnlyNest.refl n s, ?_, rfl⟩
    have none_ : (o.failure && decide ((s.entry e).policy = .stop)) = false := by
      simpa using h
    rw [none_, Bool.or_false]

/-- What the end of a copy leaves, after the change `f` of its port, a stop failure under policy STOP included (R46,
R74). -/
theorem deliverStopFailure_finishCopy (n : Nest) (f : NestPort → NestPort) (c : Copy) (k : Nat) (o : CopyOutcome)
    (ht : t = deliverStopFailure n c.entry o (finishCopy n c.entry k o (s.updPort n f))) :
    OnlyNest n s t ∧ t.notice = s.notice ∧
    t.port n = { f (s.port n) with
      stopHold := (f (s.port n)).stopHold || (o.failure && decide ((s.entry c.entry).policy = .stop)) } ∧
    t.lotNest n = { s.lotNest n with
      outcomes := (s.lotNest n).outcomes ++ [(c.entry, o)],
      events := if o.failure = true ∧ (s.entry c.entry).policy = .stop
        then (s.lotNest n).events ++ [.stopFailure c.entry] else (s.lotNest n).events } ∧
    CopiesEnded n o [{ c with runs := k }] s t := by
  have done := finishCopy_ended (s.updPort n f) n { c with runs := k } o
  have policy : ((finishCopy n c.entry k o (s.updPort n f)).entry c.entry).policy = (s.entry c.entry).policy := by
    rw [entry_finishCopy, if_pos rfl]; rfl
  obtain ⟨only, port, lot⟩ := deliverStopFailure_spec n c.entry o (finishCopy n c.entry k o (s.updPort n f))
  rw [← ht] at only port lot
  refine ⟨((onlyNest_updPort s n f).trans (onlyNest_finishCopy _ n _ _ _)).trans only, ?_, ?_, ?_, ?_⟩
  · rw [ht, deliverStopFailure_notice, finishCopy_notice, updPort_notice]
  · rw [port, policy, port_finishCopy, port_updPort_same]
  · rw [lot, policy, lotNest_finishCopy, if_pos rfl]; rfl
  · rw [ht]
    exact done.congr rfl rfl rfl rfl (by simp) (by simp) (by simp) (by simp)

/-! ### The expiries and the void (R47, R73, R76) -/

/-- Settles O44: the deadline is due, and its expiry ends the head. -/
theorem deadlineExpiryTimesOut : Obligations.DeadlineExpiryTimesOut := by
  intro s n tag c rest d hrun hs hq hd
  have due : deadlineDue n s = some (c, tag) := by
    unfold deadlineDue
    simp [hs, hq, hd, State.running, hrun, Timer.isRunning]
  have run : exec (.deadlineExpiry n) s = .next (expireDeadline n c tag s) := by
    show execDeadlineExpiry n s = _
    rw [execDeadlineExpiry, due]
  obtain ⟨only, notice, port, lot, ended⟩ := deliverStopFailure_finishCopy n _ c c.runs .timeout
    (rfl : expireDeadline n c tag s = _)
  refine ⟨_, run, only, notice, ?_, ?_, ended⟩
  · rw [port, hq]
    simp [CopyOutcome.failure]
  · rw [lot]
    simp [CopyOutcome.failure]

/-- Settles O45: the grace is due, and the void instruction is the oldest. -/
theorem graceExpiryAndVoid : Obligations.GraceExpiryAndVoid := by
  refine ⟨fun s n tag d hrun hs hg => ?_, fun s n cause rest hrun hv => ?_⟩
  · have due : graceDue n s = true := by
      simp [graceDue, hs, hg, State.running, hrun, Timer.isRunning]
    show execGraceExpiry n s = _
    rw [execGraceExpiry, takesPlace_true due]
    rfl
  · refine ⟨_, voidQueued_spec _ n anyCopy, ?_⟩
    have run : exec (.voidInstruction n) s = .next (takeVoids n [cause] rest s) := by
      show execVoidInstruction n s = _
      unfold execVoidInstruction
      rw [hv]
      exact takesPlace_true (decide_eq_true hrun) _ _
    rw [run]
    unfold takeVoids
    congr 2
    funext p
    cases cause <;> simp

end Sys2Proof.Machine

end

section
namespace Sys2Proof.Machine

variable {s t u v : State} {n : Nest} {c : Copy} {rest : List Copy} {payload : List Byte}

/-! ### The outcome of the verdicts (R104) -/

theorem mem_usedVerdicts {slots : Vector MeasureSlot 4} {w : Vector SlotRecord 4} {x : Verdict} :
    x ∈ usedVerdicts slots w ↔ ∃ i : Fin 4, slots[i.val].mode ≠ .off ∧ w[i.val].verdict = x := by
  simp [usedVerdicts, MeasureSlot.used]

theorem outcomeOf_fail {l : List Verdict} (h : ∃ x ∈ [Verdict.low, .high, .missing, .codeBad], x ∈ l) :
    outcomeOf l = .fail := by
  obtain ⟨x, hx, hl⟩ := h
  refine if_pos (List.any_eq_true.mpr ⟨x, hl, ?_⟩)
  simpa using hx

theorem any_bad_eq_false {l : List Verdict} (h : ∀ x ∈ [Verdict.low, .high, .missing, .codeBad], x ∉ l) :
    ¬(l.any fun v => v = .low ∨ v = .high ∨ v = .missing ∨ v = .codeBad) = true := fun hany => by
  obtain ⟨x, hl, hx⟩ := List.any_eq_true.mp hany
  exact h x (by simpa using hx) hl

theorem outcomeOf_marginal {l : List Verdict} (h : ∀ x ∈ [Verdict.low, .high, .missing, .codeBad], x ∉ l)
    (hm : .marginal ∈ l) : outcomeOf l = .marginal := by
  unfold outcomeOf
  rw [if_neg (any_bad_eq_false h), if_pos (List.any_eq_true.mpr ⟨_, hm, rfl⟩)]

theorem outcomeOf_pass {l : List Verdict} (h : ∀ x ∈ [Verdict.low, .high, .missing, .codeBad, .marginal], x ∉ l) :
    outcomeOf l = .pass := by
  have marginal : ¬(l.any fun v => v = .marginal) = true := fun hany => by
    obtain ⟨x, hl, hx⟩ := List.any_eq_true.mp hany
    exact h .marginal (by simp) (of_decide_eq_true hx ▸ hl)
  unfold outcomeOf
  rw [if_neg (any_bad_eq_false fun x hx => h x (by simp only [List.mem_cons] at hx ⊢; tauto)), if_neg marginal]

/-! ### The copy that an answer ends (R46, R71, R92) -/

/-- The verdicts formed before a judged copy ends stand in the slots of its own record alone (R92, R105). -/
theorem CopiesEnded.of_judged {o : CopyOutcome} {d : Copy} (h : CopiesEnded n o [d] u v) (ht : u.table = s.table)
    (hp : u.payload = s.payload) (hr : u.retire = s.retire)
    (hrec : ∀ e, e ≠ d.entry → u.record e n = s.record e n)
    (hvar : (u.record d.entry n).variant = (s.record d.entry n).variant) (hj : o.judged = true) :
    CopiesEnded n o [d] s v := by
  obtain ⟨entries, free, kept, chosen, others, own⟩ := h
  have entry : ∀ e, u.entry e = s.entry e := entry_congr ht
  have heads : completeHead u = completeHead s :=
    funext fun st => completeHead_congr (fun e => by rw [entry]) (by rw [hr]) st
  have ends : endsHead u = endsHead s := by
    funext c
    unfold endsHead State.retireList
    rw [entry, hr]
  simp only [entry, hp] at entries free
  rw [hr] at kept
  rw [hr, heads, ends] at chosen
  refine ⟨entries, free, kept, chosen, fun e he => ?_, fun c hc => ?_⟩
  · refine (others e he).trans (hrec e fun heq => ?_)
    rw [heq, copiesOf_cons, copiesOf_nil, if_pos rfl] at he
    exact absurd he (by decide)
  · obtain ⟨outcome, variant, runs, -⟩ := own c hc
    rw [List.mem_singleton] at hc
    subst hc
    exact ⟨outcome, variant.trans hvar, runs, fun hno => by rw [hj] at hno; cases hno⟩

/-- The end of head copy `c` by an answer with outcome `o`, from `s` to `v`, before its payload is offered (R46, R71,
R74). -/
structure AnswerEnded (n : Nest) (c : Copy) (rest : List Copy) (o : CopyOutcome) (s v : State) : Prop where
  only : OnlyNest n s v
  notice : v.notice = s.notice
  port : v.port n = { s.port n with
    queue := rest, deadline := .stopped, service := .idle,
    stopHold := (s.port n).stopHold || (o.failure && decide ((s.entry c.entry).policy = .stop)),
    counters := { (s.port n).counters with answers := satInc (s.port n).counters.answers } }
  lotNest : v.lotNest n = { s.lotNest n with
    outcomes := (s.lotNest n).outcomes ++ [(c.entry, o)],
    events := if o.failure = true ∧ (s.entry c.entry).policy = .stop
      then (s.lotNest n).events ++ [.stopFailure c.entry] else (s.lotNest n).events }
  ended : CopiesEnded n o [{ c with runs := c.runs + 1 }] s v

/-- The state before the payload of the answer is offered. -/
def answerEnded (n : Nest) (c : Copy) (o : CopyOutcome) (u : State) : State :=
  deliverStopFailure n c.entry o (finishCopy n c.entry (c.runs + 1) o
    (u.updPort n fun p => { p with queue := p.queue.tail, service := .idle }))

theorem record_answerEnded (o : CopyOutcome) (u : State) : (answerEnded n c o u).record c.entry n =
    { u.record c.entry n with
      outcome := some o, runs := c.runs + 1,
      slots := if o.judged then (u.record c.entry n).slots else unjudgedSlots u c.entry } := by
  rw [answerEnded, record_congr (deliverStopFailure_judge ..), record_finishCopy, if_pos ⟨rfl, rfl⟩]
  rfl

/-- An answer with non-zero status ends the head ERRORED, without being judged (R105). -/
theorem answerEnded_errored (hq : (s.port n).queue = c :: rest) :
    AnswerEnded n c rest .errored s (answerEnded n c .errored (s.updPort n (runAnswered c))) := by
  obtain ⟨only, notice, port, lot, ended⟩ := deliverStopFailure_finishCopy (s := s) n
    (fun p => { (runAnswered c p) with queue := (runAnswered c p).queue.tail, service := .idle }) c (c.runs + 1) .errored
    (t := answerEnded n c .errored (s.updPort n (runAnswered c))) (by rw [answerEnded, updPort_updPort])
  refine ⟨only, notice, ?_, lot, ended⟩
  rw [port, runAnswered, hq]
  rfl

/-- An answer judged ends the head, its measures as the Judgement Unit left them (R92). -/
theorem answerEnded_judged {o : CopyOutcome} (hq : (s.port n).queue = c :: rest) (hj : o.judged = true)
    (hu : u = { s.updPort n (runAnswered c) with judge := { s.judge with records := u.judge.records } })
    (other : ∀ (d : EntryId) (m : Nest), ¬(d = c.entry ∧ m = n) → u.record d m = s.record d m)
    (own : (u.record c.entry n).variant = (s.record c.entry n).variant) :
    AnswerEnded n c rest o s (answerEnded n c o u) := by
  have port_u : ∀ m, u.port m = (s.updPort n (runAnswered c)).port m := fun m => port_congr (by rw [hu]) m
  have entry_u : ∀ e, u.entry e = s.entry e := entry_congr (by rw [hu]; rfl)
  have lot_u : ∀ m, u.lotNest m = s.lotNest m := lotNest_congr (by rw [hu]; rfl)
  have only_u : OnlyNest n s u := by
    refine ⟨?_, fun m hm => ⟨?_, lot_u m⟩, fun e m hm => other e m fun h => hm h.2⟩
    · rw [hu]; rfl
    · rw [port_u, port_updPort, if_neg hm]
  obtain ⟨only, notice, port, lot, ended⟩ := deliverStopFailure_finishCopy (s := u) n
    (fun p => { p with queue := p.queue.tail, service := .idle }) c (c.runs + 1) o (rfl : answerEnded n c o u = _)
  refine ⟨only_u.trans only, ?_, ?_, ?_, ?_⟩
  · rw [notice, hu]; rfl
  · rw [port, port_u, port_updPort_same, entry_u, runAnswered, hq]
    rfl
  · rw [lot, lot_u, entry_u]
  · exact ended.of_judged (by rw [hu]; rfl) (by rw [hu]; rfl) (by rw [hu]; rfl)
      (fun e he => other e n fun h => he h.1) own hj

end Sys2Proof.Machine

end

section
namespace Sys2Proof.Machine

variable {s t u v : State} {n : Nest} {c : Copy} {rest : List Copy} {status : Byte} {payload : List Byte}

/-- The outcome of the copy that an answer of status 0 ends, and its slot records, by the profile row of its step (R92,
R104). -/
structure FinalJudgement (n : Nest) (c : Copy) (payload : List Byte) (o : CopyOutcome) (s v : State) : Prop where
  unprofiled : (s.entry c.entry).profile = 0 → o = .pass
  profiled : (s.entry c.entry).profile ≠ 0 →
    o = outcomeOf (usedVerdicts (s.profile (s.entry c.entry).profile).slots (v.record c.entry n).slots)
  slots : ∀ i : Fin 4, (v.record c.entry n).slots[i.val] =
    if (s.entry c.entry).profile = 0 then (s.record c.entry n).slots[i.val]
    else judgeFinal (s.profile (s.entry c.entry).profile).slots[i.val]
      (judgeRun (s.profile (s.entry c.entry).profile).slots[i.val] s.judge.codeSets payload
        (s.record c.entry n).slots[i.val])

/-- The answer of status 0 at the last rep ends the head with the outcome of its judgement (R71, R92). -/
theorem judgedAnswer_ends (hq : (s.port n).queue = c :: rest) {r : State × CopyOutcome}
    (hr : r = judgeAnswer c.entry n payload true (s.updPort n (runAnswered c))) :
    AnswerEnded n c rest r.2 s (answerEnded n c r.2 r.1) ∧
    FinalJudgement n c payload r.2 s (answerEnded n c r.2 r.1) := by
  obtain ⟨u, o, run, frame, other, own, judged, unprofiled, profiled⟩ :=
    judgeAnswer_spec (s.updPort n (runAnswered c)) c.entry n payload true
  rw [run] at hr
  subst hr
  have variant : (u.record c.entry n).variant = (s.record c.entry n).variant := by rw [own]; rfl
  have slots : ((answerEnded n c o u).record c.entry n).slots = (u.record c.entry n).slots := by
    rw [record_answerEnded, judged]; rfl
  refine ⟨answerEnded_judged hq judged frame other variant, fun h => (unprofiled h).2, fun h => ?_, fun i => ?_⟩
  · rw [slots]
    exact (profiled h).1
  · rw [slots]
    split
    · next h => rw [(unprofiled h).1]; rfl
    · next h => exact ((profiled h).2 i).trans (if_pos rfl)

/-- The answer that ends the head: with non-zero status ERRORED, and otherwise as judged (R71, R92, R105). -/
theorem takeAnswer_ends (hq : (s.port n).queue = c :: rest)
    (hlast : status ≠ 0#8 ∨ (s.entry c.entry).reps ≤ c.runs + 1) : ∃ (v : State) (o : CopyOutcome),
    takeAnswer n c status payload s = offerAnswer c.entry n payload v ∧ AnswerEnded n c rest o s v ∧
    (status ≠ 0#8 → o = .errored) ∧ (status = 0#8 → FinalJudgement n c payload o s v) := by
  rw [takeAnswer_eq]
  by_cases hstatus : status = 0#8
  · have reps : ¬c.runs + 1 < (s.entry c.entry).reps := Nat.not_lt.mpr (hlast.resolve_left fun h => h hstatus)
    rw [if_neg fun h => h hstatus, if_neg reps]
    obtain ⟨ended, judged⟩ := judgedAnswer_ends (payload := payload) hq rfl
    exact ⟨_, _, rfl, ended, fun h => absurd hstatus h, fun _ => judged⟩
  · rw [if_pos hstatus]
    exact ⟨_, _, rfl, answerEnded_errored hq, fun _ => rfl, fun h => absurd h hstatus⟩

/-- An ANSWER with the current tag is that of the head's run (R67, R71). -/
theorem execAnswer_waiting {tag : Word16} (hrun : s.phase = .running) (hup : (s.port n).link = .up)
    (hs : (s.port n).service = .waiting tag) (hq : (s.port n).queue = c :: rest) (hlen : payload.length ≤ 256) :
    exec (.answer n tag status payload) s = .next (takeAnswer n c status payload s) := by
  show execAnswer n tag status payload s = _
  have short : ¬payload.length > Config.maxAnswer := Nat.not_lt.mpr hlen
  have running : s.running = true := decide_eq_true hrun
  rw [execAnswer, takesPlace_true running, if_neg short, if_pos hup]
  unfold classifyAnswer
  rw [hs]
  dsimp only
  rw [if_pos rfl, hq]

/-- Settles O42: the answer ends the head, and its payload is then offered, which changes none of what the end leaves
but for the variants. -/
theorem answerEndsCopy : Obligations.AnswerEndsCopy := by
  intro s n tag status payload c rest hrun hup hs hq hlen hlast
  obtain ⟨v, o, run, answer, errored, judged⟩ := takeAnswer_ends (payload := payload) hq hlast
  obtain ⟨⟨frame, entry, record, own, -⟩, unoffered⟩ := offerAnswer_spec v c.entry n payload
  refine ⟨_, v, o, execAnswer_waiting hrun hup hs hq hlen, run, answer.only, answer.notice, answer.ended, errored, ?_⟩
  rw [run]
  generalize offerAnswer c.entry n payload v = t at frame entry record own unoffered
  obtain ⟨entries, -, -, -, -, ended⟩ := answer.ended
  obtain ⟨ofEntry, refs⟩ := entries c.entry
  obtain ⟨outcome, -, runs, unjudged⟩ := ended _ (List.mem_singleton_self _)
  have slots : (t.record c.entry n).slots = (v.record c.entry n).slots := by rw [own]
  have port : ∀ m, t.port m = v.port m := fun m => port_congr (by rw [frame]) m
  have lot : ∀ m, t.lotNest m = v.lotNest m := lotNest_congr (by rw [frame])
  have one : copiesOf [{ c with runs := c.runs + 1 }] c.entry = 1 := by
    rw [copiesOf_cons, copiesOf_nil, if_pos rfl]
  refine ⟨fun h => (judged h).unprofiled, fun h hp => ?_, fun h i => ?_, fun h => ?_, ?_, ?_, ?_, ?_, ?_, ?_,
    fun m hm => ?_, fun hcap => ?_, ?_⟩
  · have derived := (judged h).profiled hp
    rw [← slots] at derived
    exact ⟨_, rfl, fun _ => mem_usedVerdicts, derived, fun h => derived.trans (outcomeOf_fail h),
      fun h hm => derived.trans (outcomeOf_marginal h hm), fun h => derived.trans (outcomeOf_pass h)⟩
  · rw [slots]; exact (judged h).slots i
  · rw [slots]; exact unjudged (by rw [errored h]; rfl)
  · rw [own]; exact outcome
  · rw [own]; exact runs (List.nodup_singleton _)
  · rw [port, answer.port]
  · rw [lot, answer.lotNest]
  · rw [entry, ofEntry, one]
  · rw [show t.payload = v.payload by rw [frame], refs, one]
  · obtain ⟨-, others, records⟩ := answer.only
    exact ⟨(port m).trans (others m hm).1, (lot m).trans (others m hm).2,
      fun e => (record e m fun h => hm h.2).trans (records e m hm)⟩
  · rw [unoffered (by rw [ofEntry]; exact hcap)]
    obtain ⟨only, -⟩ := answer.only
    exact ⟨by rw [only], by rw [only], answer.notice⟩
  · obtain ⟨only, -⟩ := answer.only
    rw [frame]
    dsimp only
    rw [only]
    exact ⟨rfl, rfl, rfl, rfl, rfl, rfl, rfl, rfl, rfl⟩

end Sys2Proof.Machine

end

section
/-! One row image written (R183): statement O20. -/

namespace Sys2Proof.Machine

variable {s u : State} {f : RxFrame} {img : List Byte}

/-! ### The bits of a number read from bytes -/

/-- Bit `b` of byte `j` is bit `8 j + b` of the number that the bytes spell, least significant first. -/
theorem testBit_leNat (bs : List Byte) (j : Nat) {b : Nat} (hb : b < 8) :
    (leNat bs).testBit (8 * j + b) = (byteAt bs j).getLsbD b := by
  induction bs generalizing j with
  | nil => simp [leNat, byteAt]
  | cons x xs ih =>
    rw [leNat, Nat.add_comm, show (256 : Nat) = 2 ^ 8 from rfl, Nat.testBit_two_pow_mul_add _ x.isLt]
    cases j with
    | zero =>
      rw [if_pos (by omega), Nat.mul_zero, Nat.zero_add]
      rfl
    | succ j =>
      rw [if_neg (by omega), show 8 * (j + 1) + b - 8 = 8 * j + b by omega, ih]
      rfl

theorem byteAt_drop (bs : List Byte) (k j : Nat) : byteAt (bs.drop k) j = byteAt bs (k + j) := by
  simp [byteAt, List.getD]

theorem byteAt_take {bs : List Byte} {k j : Nat} (h : j < k) : byteAt (bs.take k) j = byteAt bs j := by
  simp [byteAt, List.getD, h]

/-- Bit `b` of byte `j` of a code set image (R88, 11.4). -/
theorem getLsbD_codeSet (img : List Byte) {j b : Nat} (hj : j < 64) (hb : b < 8) :
    (BitVec.ofNat 512 (leNat ((img.drop 2).take 64))).getLsbD (8 * j + b) = (byteAt img (2 + j)).getLsbD b := by
  rw [BitVec.getLsbD_ofNat, testBit_leNat _ _ hb, byteAt_take hj, byteAt_drop]
  simp; omega

/-- An address read in transmission order is a group address by bit 0 of its first byte (R174). -/
theorem isGroupAddress_ofNat {bs : List Byte} (h : bs.length = 6) :
    isGroupAddress (BitVec.ofNat 48 (beNat bs)) = (byteAt bs 0).getLsbD 0 := by
  obtain ⟨a, b, c, d, e, g, rfl⟩ : ∃ a b c d e g, bs = [a, b, c, d, e, g] := by
    match bs, h with
    | [a, b, c, d, e, g], _ => exact ⟨a, b, c, d, e, g, rfl⟩
  rw [isGroupAddress, BitVec.getLsbD_ofNat, beNat, show 40 = 8 * 5 + 0 from rfl, testBit_leNat _ _ (by decide)]
  rfl

/-! ### One image -/

/-- A PUT_ROWS of one image that its table takes is answered OK with one row written (R183). -/
theorem putRows_one {x : Table} {code : Byte} (hcode : tableOf code.toNat = some x)
    (h : Asked s f .putRows (code :: 1#8 :: img)) (hlen : img.length = x.imageSize)
    (hw : writeRow x img (passMessage f s) = .written u) :
    putRows x s = .next (respond (reqOf f) .ok [1#8, 0#8] u) := by
  obtain ⟨hat, room, isPut, args⟩ := h
  have arg : tableArg (argsOf f.msg) = some (some x) := by rw [args]; exact congrArg some hcode
  have takes : isPutRows x f.msg = true := by
    rw [isPutRows, isPut, arg]
    simp
  have image : (code :: 1#8 :: img).drop 2 = img := rfl
  have size : (code :: 1#8 :: img).length = 2 + 1 * x.imageSize := by simp [hlen]; omega
  have rows : ¬x.maxRows < 1 := by cases x <;> decide
  have count : (byteAt (code :: 1#8 :: img) 1).toNat = 1 := rfl
  rw [putRows, runRequest_eq hat room takes, withTable, arg, args]
  dsimp only
  rw [putRowsOf, count, image, if_neg (by rw [size]; omega)]
  have piece : piecesOf x.imageSize 1 img = [img] := by
    rw [piecesOf, piecesOf, ← hlen, List.take_length]
  rw [piece, writeRows, hw]
  rfl

theorem writeGroupRow_of {r : Fin 64} (hr : (byteAt img 0).toNat = r.val) (u : State) : writeRow .group img u =
    .written { u with groups := upd u.groups r (fun _ => BitVec.ofNat 32 (leAt img 2 4)) } := by
  show writeGroupRow img u = _
  have row : (⟨(byteAt img 0).toNat, hr ▸ r.isLt⟩ : Fin 64) = r := Fin.ext hr
  rw [writeGroupRow, dif_pos (hr ▸ r.isLt), row]

/-- A Code Set is not in use when no pinned Profile row has a CODE slot that names it (R89). -/
theorem codeSetInUse_eq_false {k : Nat} (h : ∀ p : Fin 64, (s.profile p).pins ≠ 0 → ∀ i : Fin 4,
    (s.profile p).slots[i.val].mode = .code → (s.profile p).slots[i.val].codeSet.toNat ≠ k) :
    codeSetInUse s k = false := by
  rw [← Bool.not_eq_true]
  intro used
  obtain ⟨row, hrow, use⟩ := List.any_eq_true.mp used
  rw [toList_eq_map] at hrow
  obtain ⟨p, -, rfl⟩ := List.mem_map.mp hrow
  obtain ⟨pinned, use⟩ := Bool.and_eq_true_iff.mp use
  obtain ⟨m, hm, use⟩ := List.any_eq_true.mp use
  rw [toList_eq_map] at hm
  obtain ⟨i, -, rfl⟩ := List.mem_map.mp hm
  obtain ⟨mode, set⟩ := Bool.and_eq_true_iff.mp use
  exact h p (of_decide_eq_true pinned) i (of_decide_eq_true mode) (of_decide_eq_true set)

theorem writeCodeSetRow_of {r : Fin 64} (hr : (byteAt img 0).toNat = r.val)
    (hfree : codeSetInUse u (r.val / 8) = false) :
    writeRow .codeSet img u = .written { u with judge := { u.judge with
      codeSets := upd u.judge.codeSets r (fun _ => BitVec.ofNat 512 (leNat ((img.drop 2).take 64))) } } := by
  show writeCodeSetRow img u = _
  have row : (⟨(byteAt img 0).toNat, hr ▸ r.isLt⟩ : Fin 64) = r := Fin.ext hr
  rw [writeCodeSetRow, dif_pos (hr ▸ r.isLt), if_neg (by rw [hr, hfree]; simp), row]

/-- An Allow List image with valid byte 0, or one with valid byte 1 whose address is no group address (R174). -/
theorem writeAllowRow_of {i : Fin 4} (hi : (byteAt img 0).toNat = i.val) (hlen : img.length = 8) {valid : Bool}
    (hvalid : byteAt img 1 = if valid then 1#8 else 0#8) (hgroup : valid = true → (byteAt img 2).getLsbD 0 = false)
    (u : State) : writeRow .allowList img u = .written { u with uplink := { u.uplink with
      allow := upd u.uplink.allow i (fun _ =>
        { valid := valid, addr := if valid then BitVec.ofNat 48 (beNat (img.drop 2)) else 0 }) } } := by
  show writeAllowRow img u = _
  have row : (⟨(byteAt img 0).toNat, hi ▸ i.isLt⟩ : Fin 4) = i := Fin.ext hi
  have address : (img.drop 2).length = 6 := by simp [hlen]
  have whole : (img.drop 2).take 6 = img.drop 2 := List.take_of_length_le address.le
  have flag : decide (byteAt img 1 = 1#8) = valid := by rw [hvalid]; cases valid <;> decide
  have group : isGroupAddress (BitVec.ofNat 48 (beNat (img.drop 2))) = (byteAt img 2).getLsbD 0 := by
    rw [isGroupAddress_ofNat address, byteAt_drop]
  have low : ¬(byteAt img 1).toNat > 1 := by rw [hvalid]; cases valid <;> decide
  unfold writeAllowRow
  dsimp only
  rw [dif_pos (hi ▸ i.isLt), whole, row, flag, group, if_neg]
  rintro (high | ⟨hv, bad⟩)
  · exact low high
  · rw [hgroup hv] at bad
    cases bad

theorem writeSettingsRow_of (h0 : byteAt img 0 = 0#8) (hp : leAt img 4 2 ≤ 512) (hr : leAt img 6 2 ≤ 512)
    (hm : (byteAt img 8).getLsbD 7 = false) (u : State) :
    writeRow .settings img u = .written { u with mgmt := { u.mgmt with settings :=
      { throttle := leAt img 2 2, payloadLow := leAt img 4 2, replyLow := leAt img 6 2,
        mask := (byteAt img 8).setWidth 7 } } } := by
  show writeSettingsRow img u = _
  unfold writeSettingsRow
  dsimp only
  rw [if_neg, BitVec.ofNat_toNat]
  rintro (hne | hlow | hlow | hmask)
  · exact hne h0
  · exact absurd hp (Nat.not_le.mpr hlow)
  · exact absurd hr (Nat.not_le.mpr hlow)
  · rw [hm] at hmask
    cases hmask

/-- Settles O20: the one image is written, and nothing else changes but what every request answered leaves. -/
theorem putRowsReplacesOneRow : Obligations.PutRowsReplacesOneRow := by
  intro s f img
  refine ⟨fun r h hlen hr => ?_, fun r h hlen hr hfree => ?_,
    fun i addr h hlen hi haddr => ⟨fun hv hg => ?_, fun hv => ?_⟩, fun h hlen h0 hp hr hm => ?_⟩
  · exact putRows_one (x := .group) rfl h hlen (writeGroupRow_of hr _)
  · refine ⟨_, fun j b hj hb => getLsbD_codeSet img hj hb, ?_⟩
    exact putRows_one (x := .codeSet) rfl h hlen (writeCodeSetRow_of hr (codeSetInUse_eq_false hfree))
  · rw [haddr]
    exact putRows_one (x := .allowList) rfl h hlen (writeAllowRow_of (valid := true) hi hlen hv (fun _ => hg) _)
  · exact putRows_one (x := .allowList) rfl h hlen (writeAllowRow_of (valid := false) hi hlen hv nofun _)
  · exact putRows_one (x := .settings) rfl h hlen (writeSettingsRow_of h0 hp hr hm _)

end Sys2Proof.Machine

end

section
/-! The lane and the runs of a nest port (R61, R67, R68, R70, R72, R75): statements O36, O40 and O43. -/

namespace Sys2Proof.Machine

variable {s : State} {n : Nest}

theorem updPort_congr {f g : NestPort → NestPort} (h : f (s.port n) = g (s.port n)) :
    s.updPort n f = s.updPort n g := by
  change f s.ports[n.val] = g s.ports[n.val] at h
  simp only [State.updPort, upd, h]

theorem running_of_phase (h : s.phase = .running) : s.running = true := decide_eq_true h

/-! ### The frames that leave (R55, R61, R68) -/

theorem execFrameLeavesLane_next {x : LaneOut} {later : List LaneOut} (hrun : s.phase = .running)
    (hb : (s.port n).backlog = x :: later) : exec (.frameLeavesLane n) s =
      .next (s.updPort n fun p => startTimerOf s x { p with backlog := later }) := by
  show execFrameLeavesLane n s = _
  rw [execFrameLeavesLane, takesPlace_true (running_of_phase hrun), hb]

/-- A frame whose timer is loaded as `f` says leaves the lane. -/
theorem execFrameLeavesLane_of {x : LaneOut} {later : List LaneOut} {f : NestPort → NestPort}
    (hrun : s.phase = .running) (hb : (s.port n).backlog = x :: later)
    (hf : startTimerOf s x { s.port n with backlog := later } = f (s.port n)) :
    exec (.frameLeavesLane n) s = .next (s.updPort n f) := by
  rw [execFrameLeavesLane_next hrun hb, updPort_congr hf]

section
variable {p : NestPort} {tag : Word16}

theorem startTimerOf_run {c : Copy} {q : List Copy} (payload : List Byte) (hq : p.queue = c :: q)
    (hs : p.service = .waiting tag) (hd : p.deadline = .armed) :
    startTimerOf s (.run tag payload) p = { p with deadline := .running (s.entry c.entry).deadline } := by
  unfold startTimerOf
  simp only [hq, hs, hd, if_true, Timer.start]

theorem startTimerOf_run_other (payload : List Byte) (hs : p.service ≠ .waiting tag) :
    startTimerOf s (.run tag payload) p = p := by
  unfold startTimerOf
  dsimp only
  split
  · rw [if_neg hs]
  · rfl

theorem startTimerOf_halt (hs : p.service = .halting tag) (hg : p.grace = .armed) :
    startTimerOf s (.halt tag) p = { p with grace := .running p.config.haltGrace } := by
  simp only [startTimerOf, hs, hg, if_true, Timer.start]

theorem startTimerOf_halt_other (hs : p.service ≠ .halting tag) : startTimerOf s (.halt tag) p = p := if_neg hs

theorem startTimerOf_greet (m : Nest) (hl : p.link = .training) (hg : p.greet = .armed) :
    startTimerOf s (.greet m) p = { p with greet := .running 50 } := by
  simp only [startTimerOf, hl, hg, if_true, Timer.start]
  rfl

theorem startTimerOf_greet_other (m : Nest) (hl : p.link ≠ .training) : startTimerOf s (.greet m) p = p := if_neg hl

end

/-- Settles O36: each kind of frame loads the timer that waits for it, and no other does. -/
theorem laneFramesStartTimers : Obligations.LaneFramesStartTimers := by
  refine ⟨fun s n hrun hl hg => ?_, fun s n tag payload rest c q hrun hb hq hs hd => ?_,
    fun s n tag rest hrun hb hs hg => ?_, fun s n tag payload rest hrun hb hs => ?_,
    fun s n m tag rest hrun h => ?_, fun s n rest hrun hb hl hg => ?_⟩
  · have due : greetDue n s = true := by simp [greetDue, running_of_phase hrun, hl, hg, Timer.isRunning]
    exact takesPlace_true due s _
  · exact execFrameLeavesLane_of hrun hb (startTimerOf_run payload hq hs hd)
  · exact execFrameLeavesLane_of hrun hb (startTimerOf_halt hs hg)
  · exact execFrameLeavesLane_of hrun hb (startTimerOf_run_other payload hs)
  · rcases h with ⟨hb, hs⟩ | ⟨hb, hl⟩ | hb
    · exact execFrameLeavesLane_of hrun hb (startTimerOf_halt_other hs)
    · exact execFrameLeavesLane_of hrun hb (startTimerOf_greet_other m hl)
    · exact execFrameLeavesLane_of hrun hb rfl
  · exact execFrameLeavesLane_of hrun hb (startTimerOf_greet n hl hg)

/-! ### The runs that are sent (R70, R72) -/

theorem sendRun_eq (n : Nest) (c : Copy) (s : State) : sendRun n c s = s.updPort n (runSent c s) := rfl

theorem startable_eq_some {c : Copy} {rest : List Copy} (hrun : s.phase = .running) (hs : (s.port n).service = .idle)
    (hq : (s.port n).queue = c :: rest) (hc : c.state = .queued) (hl : (s.port n).link = .up)
    (hp : (s.port n).presence = .present) (hh : (s.port n).stopHold = false) : startable n s = some c := by
  unfold startable
  dsimp only
  rw [hq]
  exact if_pos ⟨running_of_phase hrun, hs, hc, hl, hp, hh⟩

/-- A head is started only with every condition of R70. -/
theorem startable_eq_none (h : (s.port n).service ≠ .idle ∨ (s.port n).link ≠ .up ∨ (s.port n).presence ≠ .present ∨
    (s.port n).stopHold = true ∨ ∀ c rest, (s.port n).queue = c :: rest → c.state ≠ .queued) :
    startable n s = none := by
  unfold startable
  dsimp only
  split
  · next c rest hq =>
    refine if_neg fun ⟨_, idle, queued, up, present, free⟩ => ?_
    rcases h with h | h | h | h | h
    · exact h idle
    · exact h up
    · exact h present
    · rw [free] at h; cases h
    · exact h c rest hq queued
  · rfl

theorem execStartHead_of_none (h : startable n s = none) : exec (.startHead n) s = .next s := by
  show execStartHead n s = _
  rw [execStartHead, h]

/-- Settles O40: the head is started with every condition of R70 and with no other, and the gap's end sends the next
RUN. -/
theorem runsAreSent : Obligations.RunsAreSent := by
  refine ⟨fun s n c rest hrun hs hq hc hl hp => ⟨fun hh => ?_, fun hh => ?_⟩, fun s n hs => ?_, fun s n h => ?_,
    fun s n c rest d hrun hs hg hq => ?_⟩
  · show execStartHead n s = _
    rw [execStartHead, startable_eq_some hrun hs hq hc hl hp hh]
    dsimp only
    rw [sendRun_eq, setHead, updPort_updPort]
    exact congrArg Host.Outcome.next (updPort_congr (by rw [hq]; rfl))
  · exact execStartHead_of_none (startable_eq_none (.inr (.inr (.inr (.inl hh)))))
  · exact execStartHead_of_none (startable_eq_none (.inl (by rw [hs]; decide)))
  · exact execStartHead_of_none (startable_eq_none h)
  · have due : gapDue n s = some c := by
      unfold gapDue
      dsimp only
      rw [hq]
      exact if_pos ⟨running_of_phase hrun, hs, by rw [hg]; rfl⟩
    show execGapExpiry n s = _
    rw [execGapExpiry, due]
    dsimp only
    rw [sendRun_eq, updPort_updPort]
    rfl

/-! ### LATE frames, and the end of a halt (R67, R75) -/

/-- An ANSWER of at most 256 bytes, taken in UP, is classified by R67. -/
theorem execAnswer_up {tag : Word16} {status : Byte} {payload : List Byte} (hrun : s.phase = .running)
    (hup : (s.port n).link = .up) (hlen : payload.length ≤ 256) :
    exec (.answer n tag status payload) s = .next (classifyAnswer n tag status payload s) := by
  show execAnswer n tag status payload s = _
  have short : ¬payload.length > Config.maxAnswer := Nat.not_lt.mpr hlen
  rw [execAnswer, takesPlace_true (running_of_phase hrun), if_neg short, if_pos hup]

theorem classifyAnswer_late {tag : Word16} (status : Byte) (payload : List Byte)
    (hw : (s.port n).service ≠ .waiting tag) (hh : (s.port n).service ≠ .halting tag) :
    classifyAnswer n tag status payload s = countLate n s := by
  unfold classifyAnswer
  split
  · next hs => exact if_neg fun h : tag = _ => hw (h ▸ hs)
  · next hs => exact if_neg fun h : tag = _ => hh (h ▸ hs)
  all_goals rfl

theorem classifyAnswer_halted {tag : Word16} (status : Byte) (payload : List Byte)
    (hh : (s.port n).service = .halting tag) :
    classifyAnswer n tag status payload s = endHalt n (countLate n s) := by
  unfold classifyAnswer
  rw [hh]
  exact if_pos rfl

/-- A STOPPED taken in UP ends the halt of its tag, or is LATE (R67, R75). -/
theorem execStopped_up {tag : Word16} (hrun : s.phase = .running) (hup : (s.port n).link = .up) :
    exec (.stopped n tag) s =
      .next (if (s.port n).service = .halting tag then endHalt n s else countLate n s) :=
  takesPlace_true (by simp [running_of_phase hrun, hup]) s _

/-- Settles O43: an ANSWER or a STOPPED of no awaited tag is LATE, and one with the halted tag ends the halt. -/
theorem lateFramesAndHaltEnd : Obligations.LateFramesAndHaltEnd := by
  intro s n tag status payload hrun hup hlen
  refine ⟨fun hw hh => ?_, fun hh => ?_, fun hh => ⟨?_, ?_⟩⟩
  · rw [execAnswer_up hrun hup hlen, classifyAnswer_late status payload hw hh]
    rfl
  · rw [execStopped_up hrun hup, if_neg hh]
    rfl
  · rw [execAnswer_up hrun hup hlen, classifyAnswer_halted status payload hh, endHalt, countLate,
      State.updNestCounters, updPort_updPort]
    rfl
  · rw [execStopped_up hrun hup, if_pos hh]
    rfl

end Sys2Proof.Machine

end

section
/-! A link that trains or drops, by its signal, its Nest Config row, a RETRAIN and a WELCOME, and the presence of a
phone (R60, R61, R62, R63, R65, R157): statements O22, O32, O35 and O38. -/

namespace Sys2Proof.Machine

variable {s : State} {n : Nest}

/-! ### Training and dropping, nest `n` alone -/

/-- `trainIfReady` trains nest `n` under any condition that says that it is ready (R60). -/
theorem trainIfReady_trained {g : Nest → Bool} (hg : ∀ m, g m = (decide (m = n) && ready s n)) :
    Trained g s (trainIfReady n s) := by
  have same : g = fun m => decide (m = n) && ready s m := funext fun m => by
    by_cases hm : m = n
    · rw [hg, hm]
    · rw [hg, decide_eq_false hm, Bool.false_and, Bool.false_and]
  rw [same]
  exact trainIfReady_spec s n

theorem linkDown_of_down (h : (s.port n).link = .down) : linkDown n s = s := if_pos h

/-! ### Lane signal (R60, R189) -/

/-- Settles O35: the level is stored, and while the part runs a DOWN link trains or a link that is not DOWN drops. -/
theorem laneSignalMovesLink : Obligations.LaneSignalMovesLink := by
  refine ⟨fun s n hrun => ?_, fun s n hrun => ⟨⟨_, congrArg Host.Outcome.next (if_pos (running_of_phase hrun)), ?_⟩,
    fun hl => ⟨_, congrArg Host.Outcome.next (if_pos (running_of_phase hrun)), linkDown_spec _ n hl⟩, fun hl => ?_⟩⟩
  · have stopped : ¬s.running = true := by simpa [State.running] using hrun
    exact ⟨congrArg Host.Outcome.next (if_neg stopped), congrArg Host.Outcome.next (if_neg stopped)⟩
  · refine trainIfReady_trained fun m => ?_
    have present : (upd s.signal n fun _ => true)[n.val] = true := upd_get_same ..
    rw [ready, present, Bool.and_true, ← Bool.and_assoc]
    rfl
  · have stays : linkDown n { s with signal := upd s.signal n fun _ => false } = _ := linkDown_of_down hl
    exact congrArg Host.Outcome.next ((if_pos (running_of_phase hrun)).trans stays)

/-! ### Nest Config (R60, R65) -/

variable {c : NestConfig}

theorem storeNestConfig_same (h : c.enabled = (s.port n).config.enabled) :
    storeNestConfig n c s = s.updPort n fun p => { p with config := c } := by
  unfold storeNestConfig
  dsimp only
  rw [h, if_neg fun ⟨on, off⟩ => off on, if_neg fun ⟨off, on⟩ => off on]

theorem storeNestConfig_enables (h : (s.port n).config.enabled = false) (hc : c.enabled = true) :
    storeNestConfig n c s = trainIfReady n (s.updPort n fun p => { p with config := c }) := by
  simp [storeNestConfig, h, hc]

theorem storeNestConfig_disables (h : (s.port n).config.enabled = true) (hc : c.enabled = false) :
    storeNestConfig n c s = linkDown n (s.updPort n fun p => { p with config := c }) := by
  simp [storeNestConfig, h, hc]

/-- A row stored passes no message: the Uplink Port and the Dispatcher stay. -/
theorem storeNestConfig_dispatch (n : Nest) (c : NestConfig) (s : State) :
    (storeNestConfig n c s).uplink = s.uplink ∧ (storeNestConfig n c s).dispatcher = s.dispatcher := by
  unfold storeNestConfig
  dsimp only
  split
  · simp
  · split <;> simp

theorem writeNestConfigRow_of {img : List Byte} (hn : (byteAt img 0).toNat = n.val)
    (hc : c = { enabled := (byteAt img 1).getLsbD 0, excluded := (byteAt img 1).getLsbD 1,
                chatter := (byteAt img 1).getLsbD 2, haltGrace := leAt img 2 2 })
    (hlow : 1 ≤ c.haltGrace) (hhigh : c.haltGrace ≤ 1000) (s : State) :
    writeRow .nestConfig img s = .written (storeNestConfig n c s) := by
  subst hc
  show writeNestConfigRow img s = _
  have row : (⟨(byteAt img 0).toNat, hn ▸ n.isLt⟩ : Nest) = n := Fin.ext hn
  have grace : ¬(leAt img 2 2 = 0 ∨ Config.maxGrace < leAt img 2 2) := by
    rintro (zero | high)
    · exact absurd zero (Nat.one_le_iff_ne_zero.mp hlow)
    · exact absurd hhigh (Nat.not_le.mpr high)
  rw [writeNestConfigRow, dif_pos (hn ▸ n.isLt), if_neg grace, row]

/-- Settles O22: the one image is stored, and the link moved by what becomes of the enabled flag. -/
theorem putRowsNestConfigMovesLink : Obligations.PutRowsNestConfigMovesLink := by
  intro s f img n c h hlen hn hc hlow hhigh
  obtain ⟨uplink, dispatcher⟩ := storeNestConfig_dispatch n c (passMessage f s)
  refine ⟨withDispatchOf s (storeNestConfig n c (passMessage f s)), ?_, fun same => ?_, fun off on => ?_,
    fun on off up => ?_, fun on off down => ?_⟩
  · rw [← respond_undispatch _ _ uplink dispatcher]
    exact putRows_one (x := .nestConfig) rfl h hlen (writeNestConfigRow_of hn hc hlow hhigh _)
  · rw [storeNestConfig_same (s := passMessage f s) same]
    rfl
  · rw [storeNestConfig_enables (s := passMessage f s) off on]
    refine (trainIfReady_trained fun m => ?_).undispatch
    have port : ((passMessage f s).updPort n fun p => { p with config := c }).port n = { s.port n with config := c } :=
      port_updPort_same ..
    rw [ready, port, on, Bool.and_true, ← Bool.and_assoc]
    rfl
  · rw [storeNestConfig_disables (s := passMessage f s) on off]
    refine (linkDown_spec _ n ?_).undispatch
    rw [port_updPort_same]
    exact up
  · rw [storeNestConfig_disables (s := passMessage f s) on off, linkDown_of_down]
    · rfl
    · rw [port_updPort_same]
      exact down

/-! ### RETRAIN (R62, R152, R157) -/

/-- A link that trains leaves the Nest Config row and the Lot Controller as they were. -/
theorem Trained.keepsNest {r : Nest → Bool} {t : State} (h : Trained r s t) :
    (t.port n).config = (s.port n).config ∧ t.lotNest n = s.lotNest n := by
  obtain ⟨frame, port, -⟩ := h
  refine ⟨?_, lotNest_congr (by rw [frame]) n⟩
  rw [port]
  split <;> rfl

/-- A dropped link trains again if the nest is enabled and has signal (R157). -/
theorem ready_of_dropped {v : State} (h : LinkDropped n s v) :
    ready v n = ((s.port n).config.enabled && s.signal[n.val]) := by
  obtain ⟨⟨frame, -, -⟩, port, -⟩ := h
  have signal : v.signal = s.signal := by rw [frame]
  rw [ready, port, signal]
  rfl

/-- The RETRAIN of a link that is not DOWN waits for the absences of its nest, that of the drop the last (log
entry 7). -/
theorem actRetrain_of_up (r : Req) (h : (s.port n).link ≠ .down) {t : State}
    (ht : trainIfReady n (linkDown n s) = t) : actRetrain r n s = { t with
      dispatcher := { t.dispatcher with
        task := some (.retrain r n ((s.lotNest n).events.count .absence + 1) (t.port n).link) } } := by
  obtain ⟨-, -, lot, -⟩ := linkDown_spec s n h
  have absences : (t.lotNest n).events.count .absence = (s.lotNest n).events.count .absence + 1 := by
    rw [← ht, (trainIfReady_spec _ n).keepsNest.2, lot, List.count_append, List.count_singleton_self]
  rw [← absences, ← ht]
  exact if_neg h

theorem actRetrain_of_down (r : Req) (h : (s.port n).link = .down) :
    actRetrain r n s = answerAction r n .retrain none false 0 (trainIfReady n s) := by
  unfold actRetrain
  dsimp only
  rw [if_pos h, linkDown_of_down h]

/-- Settles O32: the link drops and trains, and the response waits; a DOWN link trains and is answered at once. -/
theorem retrainAction : Obligations.RetrainAction := by
  intro s f n h
  have hexec : exec .nestActionRetrain s = .next (actRetrain (reqOf f) n (passMessage f s)) :=
    nestAction_asked (a := .retrain) h actRetrain
  refine ⟨fun hl => ?_, fun hl => ?_⟩
  · obtain ⟨t, ht⟩ : ∃ t, trainIfReady n (linkDown n (passMessage f s)) = t := ⟨_, rfl⟩
    have dropped : LinkDropped n (passMessage f s) (linkDown n (passMessage f s)) := linkDown_spec _ n hl
    refine ⟨withDispatchOf s (linkDown n (passMessage f s)), withDispatchOf s t, dropped.undispatch, ?_, ?_⟩
    · rw [← ht]
      refine (trainIfReady_trained fun m => ?_).undispatch
      rw [ready_of_dropped dropped, ← Bool.and_assoc]
      rfl
    · have uplink : t.uplink = (passMessage f s).uplink := by simp [← ht]
      have dispatcher : t.dispatcher = (passMessage f s).dispatcher := by simp [← ht]
      rw [hexec, actRetrain_of_up (s := passMessage f s) (reqOf f) hl ht, dispatcher]
      obtain ⟨_, _, _, _, _, _, _, _, _, _, _, _, _, _, _, _, _⟩ := t
      subst uplink
      rfl
  · have trained : Trained (fun m => decide (m = n) && (s.port n).config.enabled && s.signal[n.val])
        (passMessage f s) (trainIfReady n (passMessage f s)) := trainIfReady_trained fun m => by
      have down : decide (((passMessage f s).port n).link = .down) = true := decide_eq_true hl
      rw [ready, down, Bool.true_and, ← Bool.and_assoc]
      rfl
    obtain ⟨config, lot⟩ := trained.keepsNest (n := n)
    refine ⟨withDispatchOf s (trainIfReady n (passMessage f s)), trained.undispatch, ?_⟩
    rw [hexec, actRetrain_of_down (s := passMessage f s) (reqOf f) hl, answerAction_eq (s := s) (by simp) (by simp), actionResult_eq,
      flags_of_excluded_alone, config, lot]
    rfl

/-! ### WELCOME and PRESENCE (R61, R63) -/

theorem presenceOf_of_le {b : Byte} (h : b.toNat ≤ 1) : ∃ present, presenceOf b = some present := by
  have small : b = 0#8 ∨ b = 1#8 := by bv_omega
  rcases small with rfl | rfl
  · exact ⟨false, rfl⟩
  · exact ⟨true, rfl⟩

theorem presenceOf_presenceByte (present : Bool) : presenceOf (presenceByte present) = some present := by
  cases present <;> rfl

theorem execWelcome_good {b : Byte} {present : Bool} (id : Word32) (hrun : s.phase = .running)
    (hb : presenceOf b = some present) :
    exec (.welcome n id b) s = .next (takeWelcome n id present s) := by
  show execWelcome n id b s = _
  rw [execWelcome, takesPlace_true (running_of_phase hrun), hb]

theorem execPresence_good {b : Byte} {present : Bool} (hrun : s.phase = .running) (hb : presenceOf b = some present) :
    exec (.presence n b) s = .next (if (s.port n).link = .up then setPresence n present s else s) := by
  show execPresence n b s = _
  rw [execPresence, takesPlace_true (running_of_phase hrun), hb]

theorem execPresence_up {b : Byte} {present : Bool} (hrun : s.phase = .running) (hup : (s.port n).link = .up)
    (hb : presenceOf b = some present) : exec (.presence n b) s = .next (setPresence n present s) := by
  rw [execPresence_good hrun hb, if_pos hup]

/-- The port that a WELCOME has brought UP (R61, R63). -/
def welcomed (id : Word32) (present : Bool) (p : NestPort) : NestPort :=
  { p with link := .up, adapterId := id, greet := .stopped, presence := if present then .present else .empty }

theorem takeWelcome_training (id : Word32) (present : Bool) (ht : (s.port n).link = .training)
    (he : (s.port n).presence = .empty) : takeWelcome n id present s =
      raiseLink n (if present then raiseCause .presence (s.updPort n (welcomed id present))
        else s.updPort n (welcomed id present)) := by
  unfold takeWelcome
  rw [ht]
  dsimp only
  rw [setPresence_of_empty present (by rw [port_updPort_same]; exact he)]
  cases present with
  | true =>
    rw [if_pos rfl, if_pos rfl, updPort_raiseCause, updPort_updPort, updPort_updPort]
    rfl
  | false =>
    rw [if_neg Bool.false_ne_true, if_neg Bool.false_ne_true, updPort_updPort]
    exact congrArg (raiseLink n) (updPort_congr (by simp [welcomed, ← he]))

/-- The port of nest `n` moved with the Notice Unit: no other port moves. -/
theorem onlyPort_updPort (n : Nest) (f : NestPort → NestPort) (u : NoticeUnit) (s : State) :
    OnlyPort n { s with notice := u } { s.updPort n f with notice := u } := by
  refine ⟨rfl, fun m hm => ?_⟩
  show (s.updPort n f).port m = s.port m
  rw [port_updPort, if_neg hm]

/-- Settles O38: WELCOME by the link state it finds, PRESENCE by the presence it finds. -/
theorem welcomeAndPresence : Obligations.WelcomeAndPresence := by
  refine ⟨fun s n id present hrun ht he => ?_, fun s n id b hrun hup hb => ?_, fun s n hrun hup he => ⟨?_, ?_⟩,
    fun s n hrun hup hp => ⟨?_, _, absenceRule_spec _ n, ?_⟩⟩
  · refine ⟨_, execWelcome_good id hrun (presenceOf_presenceByte present), ?_⟩
    rw [takeWelcome_training id present ht he]
    have port : (s.updPort n (welcomed id present)).port n = welcomed id present (s.port n) := port_updPort_same ..
    cases present with
    | true =>
      refine ⟨onlyPort_updPort n _ _ s, port, ?_, NestSet.has_insert s.notice.links n⟩
      have causes : s.notice.causes ||| 4#7 ||| 2#7 = s.notice.causes ||| 2#7 ||| 4#7 := by
        rw [BitVec.or_assoc, BitVec.or_assoc, BitVec.or_comm 4#7]
      exact congrArg (fun x => { s.notice with causes := x, links := NestSet.insert s.notice.links n }) causes
    | false =>
      refine ⟨onlyPort_updPort n _ _ s, port, ?_, NestSet.has_insert s.notice.links n⟩
      have causes : s.notice.causes ||| 2#7 = s.notice.causes ||| 2#7 ||| 0#7 := BitVec.or_zero.symm
      exact congrArg (fun x => { s.notice with causes := x, links := NestSet.insert s.notice.links n }) causes
  · obtain ⟨present, hb⟩ := presenceOf_of_le hb
    have up : ((s.updPort n fun p => { p with adapterId := id }).port n).link = .up := by
      rw [port_updPort_same]
      exact hup
    rw [execWelcome_good id hrun hb, execPresence_up (s := s.updPort n _) hrun up hb, takeWelcome, hup]
  · rw [execPresence_up hrun hup rfl, setPresence_of_empty _ he]
    rfl
  · rw [execPresence_up hrun hup rfl, setPresence_of_empty _ he]
    rfl
  · have stays : setPresence n true s = s := by simp [setPresence, hp]
    rw [execPresence_up hrun hup rfl, stays]
  · have goes : setPresence n false s = deliverAbsence n (absenceRule n (presenceGone n s)) := by
      simp [setPresence, hp]
    rw [execPresence_up hrun hup rfl, goes, presenceGone, if_pos hp]
    rfl

end Sys2Proof.Machine

end

section
/-! Nest-link frames written out and read back (R55, R56, R57, R58, 11.8): statement O53. -/

namespace Sys2Proof.Machine

/-! ### Fields of a frame, most significant byte first (11.8) -/

theorem beBytes_two (v : Nat) : beBytes 2 v = [BitVec.ofNat 8 (v / 256), BitVec.ofNat 8 v] := rfl

theorem beNat_two (a b : Byte) : beNat [a, b] = 256 * a.toNat + b.toNat := by
  show b.toNat + 256 * (a.toNat + 256 * 0) = _
  omega

theorem ofNat_div_eq_extractLsb' {w : Nat} (x : BitVec w) (k : Nat) :
    BitVec.ofNat 8 (x.toNat / 2 ^ k) = x.extractLsb' k 8 := by
  apply BitVec.eq_of_toNat_eq
  rw [BitVec.toNat_ofNat, BitVec.extractLsb'_toNat, Nat.shiftRight_eq_div_pow]

theorem beBytes_word16 (x : Word16) : beBytes 2 x.toNat = [x.extractLsb' 8 8, x.extractLsb' 0 8] := by
  rw [beBytes_two, ← ofNat_div_eq_extractLsb', ← ofNat_div_eq_extractLsb', Nat.pow_zero, Nat.div_one]
  rfl

theorem beBytes_word32 (x : Word32) : beBytes 4 x.toNat =
    [x.extractLsb' 24 8, x.extractLsb' 16 8, x.extractLsb' 8 8, x.extractLsb' 0 8] := by
  show [BitVec.ofNat 8 (x.toNat / 256 / 256 / 256), BitVec.ofNat 8 (x.toNat / 256 / 256),
    BitVec.ofNat 8 (x.toNat / 256), BitVec.ofNat 8 x.toNat] = _
  simp only [← ofNat_div_eq_extractLsb', Nat.div_div_eq_div_mul, Nat.pow_zero, Nat.div_one]
  rfl

theorem ofNat_beNat_beBytes {k : Nat} (x : BitVec (8 * k)) : BitVec.ofNat (8 * k) (beNat (beBytes k x.toNat)) = x := by
  rw [beNat_beBytes, toNat_mod_bytes, BitVec.ofNat_toNat, BitVec.setWidth_eq]

/-- Words with the same bytes are the same. -/
theorem beBytes_toNat_inj {k : Nat} {x y : BitVec (8 * k)} (h : beBytes k x.toNat = beBytes k y.toNat) : x = y := by
  rw [← ofNat_beNat_beBytes x, h, ofNat_beNat_beBytes]

/-- A tag as it is read is the two bytes side by side (R55). -/
theorem ofNat_beNat_two (a b : Byte) : BitVec.ofNat 16 (beNat [a, b]) = a ++ b := by
  apply BitVec.eq_of_toNat_eq
  rw [beNat_two, BitVec.toNat_append, ← Nat.shiftLeft_add_eq_or_of_lt b.isLt, Nat.shiftLeft_eq, BitVec.toNat_ofNat,
    Nat.mod_eq_of_lt (by omega), Nat.mul_comm]

theorem append_bytes_word16 (x : Word16) : x.extractLsb' 8 8 ++ x.extractLsb' 0 8 = x := by
  rw [← ofNat_beNat_two, ← beBytes_word16]
  exact ofNat_beNat_beBytes (k := 2) x

/-! ### A frame written by 11.8 -/

theorem laneFrame_eq (kind : Byte) (tag : Word16) (status payload : List Byte) : laneFrame kind tag status payload =
    laneBytes (laneCovered kind (tag.extractLsb' 8 8) (tag.extractLsb' 0 8) status payload)
      (crc16 (laneCovered kind (tag.extractLsb' 8 8) (tag.extractLsb' 0 8) status payload)) := by
  have covered : kind :: (beBytes 2 tag.toNat ++ beBytes 2 payload.length ++ status ++ payload) =
      laneCovered kind (tag.extractLsb' 8 8) (tag.extractLsb' 0 8) status payload := by
    rw [beBytes_word16, beBytes_two, laneCovered]
    simp
  unfold laneFrame
  dsimp only
  rw [covered, beBytes_word16]
  rfl

/-! ### A frame read back (R55, R56, R58) -/

/-- The receiver takes the frame whole, checks its CRC and gives its meaning; a frame with another CRC is a
BAD_FRAME. -/
theorem receiveFrame_laneBytes {kind t1 t0 : Byte} {status payload : List Byte} (crc : Word16) (rest : List Byte)
    (hstatus : status.length = if kind = 0x82#8 then 1 else 0) (hlen : payload.length ≤ 1024) :
    receiveFrame (laneBytes (laneCovered kind t1 t0 status payload) crc ++ rest) =
      some (if crc = crc16 (laneCovered kind t1 t0 status payload)
        then laneMeaning kind (t1 ++ t0) payload.length (status ++ payload) else none, rest) := by
  have form : laneBytes (laneCovered kind t1 t0 status payload) crc ++ rest =
      Config.delimiter :: kind :: t1 :: t0 :: BitVec.ofNat 8 (payload.length / 256) ::
        BitVec.ofNat 8 payload.length :: ((status ++ payload) ++ (beBytes 2 crc.toNat ++ rest)) := by
    rw [beBytes_word16]
    simp [laneBytes, laneCovered, Config.delimiter]
  have length : beNat [BitVec.ofNat 8 (payload.length / 256), BitVec.ofNat 8 payload.length] = payload.length := by
    rw [← beBytes_two, beNat_beBytes, Nat.mod_eq_of_lt (by omega)]
  have size : (if kind = 0x82#8 then payload.length + 1 else payload.length) = (status ++ payload).length := by
    rw [List.length_append, hstatus]
    split <;> omega
  have fits : ¬payload.length > Config.maxLinkPayload := Nat.not_lt.mpr hlen
  have crc_length : (beBytes 2 crc.toNat).length = 2 := length_beBytes ..
  have room : ¬((status ++ payload) ++ (beBytes 2 crc.toNat ++ rest)).length < (status ++ payload).length + 2 := by
    rw [List.length_append (bs := _ ++ rest), List.length_append (bs := rest), crc_length]
    omega
  have covered : kind :: t1 :: t0 :: BitVec.ofNat 8 (payload.length / 256) :: BitVec.ofNat 8 payload.length ::
      (status ++ payload) = laneCovered kind t1 t0 status payload := by
    simp [laneCovered]
  have after : ((status ++ payload) ++ (beBytes 2 crc.toNat ++ rest)).drop ((status ++ payload).length + 2) = rest := by
    rw [← List.drop_drop, List.drop_left, List.drop_left' crc_length]
  have field : (((status ++ payload) ++ (beBytes 2 crc.toNat ++ rest)).drop (status ++ payload).length).take 2 =
      beBytes 2 crc.toNat := by
    rw [List.drop_left, List.take_left' crc_length]
  rw [form, receiveFrame, if_neg (fun h => h rfl)]
  dsimp only
  rw [length, size, if_neg fits, if_neg room, List.take_left, covered, after, field, ofNat_beNat_two]
  by_cases good : crc = crc16 (laneCovered kind t1 t0 status payload)
  · rw [if_pos good, if_pos (by rw [good])]
  · rw [if_neg good, if_neg fun h => good (beBytes_toNat_inj (k := 2) h)]

theorem receiveFrame_good {f : LaneIn} {kind t1 t0 : Byte} {status payload : List Byte} (rest : List Byte)
    (hstatus : status.length = if kind = 0x82#8 then 1 else 0) (hlen : payload.length ≤ 1024)
    (hmeans : laneMeaning kind (t1 ++ t0) payload.length (status ++ payload) = some f) :
    receiveFrame (laneBytes (laneCovered kind t1 t0 status payload)
      (crc16 (laneCovered kind t1 t0 status payload)) ++ rest) = some (some f, rest) := by
  rw [receiveFrame_laneBytes _ rest hstatus hlen, if_pos rfl, hmeans]

theorem receiveFrame_laneFrame {f : LaneIn} {kind : Byte} {tag : Word16} {status payload : List Byte}
    (rest : List Byte) (hstatus : status.length = if kind = 0x82#8 then 1 else 0) (hlen : payload.length ≤ 1024)
    (hmeans : laneMeaning kind tag payload.length (status ++ payload) = some f) :
    receiveFrame (laneFrame kind tag status payload ++ rest) = some (some f, rest) := by
  rw [laneFrame_eq]
  exact receiveFrame_good rest hstatus hlen (by rw [append_bytes_word16]; exact hmeans)

/-! ### What each kind of frame is (R57) -/

section
variable (tag : Word16)

theorem laneMeaning_welcome (id : Word32) (present : Bool) :
    laneMeaning 0x81#8 tag (beBytes 4 id.toNat ++ [presenceByte present]).length
      ([] ++ (beBytes 4 id.toNat ++ [presenceByte present])) = some (.welcome id present) := by
  have last : byteAt (beBytes 4 id.toNat ++ [presenceByte present]) 4 = presenceByte present :=
    byteAt_append_right _ _ _ (by rw [length_beBytes])
  have first : (beBytes 4 id.toNat ++ [presenceByte present]).take 4 = beBytes 4 id.toNat :=
    List.take_left' (length_beBytes ..)
  rw [laneMeaning, if_pos rfl, if_pos (by simp), List.nil_append, last, presenceOf_presenceByte, first]
  exact congrArg (fun x => some (LaneIn.welcome x present)) (ofNat_beNat_beBytes (k := 4) id)

theorem laneMeaning_answer (status : Byte) {payload : List Byte} (h : payload.length ≤ 256) :
    laneMeaning 0x82#8 tag payload.length ([status] ++ payload) = some (.answer tag status payload) :=
  if_pos h

theorem laneMeaning_stopped : laneMeaning 0x83#8 tag 0 [] = some (.stopped tag) := rfl

theorem laneMeaning_presence (present : Bool) :
    laneMeaning 0x84#8 tag 1 [presenceByte present] = some (.presence present) := by
  cases present <;> rfl

theorem laneMeaning_note (code : Word16) :
    laneMeaning 0x85#8 tag 2 (beBytes 2 code.toNat) = some (.note code) :=
  congrArg (fun x => some (LaneIn.note x)) (ofNat_beNat_beBytes (k := 2) code)

theorem laneMeaning_chat {payload : List Byte} (h : payload.length ≤ 256) :
    laneMeaning 0x86#8 tag payload.length payload = some (.chat payload) :=
  if_pos h

end

/-- Settles O53: the frame is taken whole and means what its kind says; the frames of the bridge are those of 11.8. -/
theorem laneFrameReadsBack : Obligations.LaneFrameReadsBack := by
  refine ⟨fun f rest hfits => ?_, fun f kind t1 t0 status payload covered rest hf hcovered => ?_,
    fun f covered hcovered => ?_, by decide +kernel⟩
  · cases f with
    | welcome id present =>
      exact receiveFrame_laneFrame rest rfl (by simp) (laneMeaning_welcome 0 id present)
    | answer tag status payload =>
      have short : payload.length ≤ 256 := of_decide_eq_true hfits
      exact receiveFrame_laneFrame rest rfl (by omega) (laneMeaning_answer tag status short)
    | stopped tag => exact receiveFrame_laneFrame rest rfl (Nat.zero_le _) (laneMeaning_stopped tag)
    | presence present => exact receiveFrame_laneFrame rest rfl (by simp) (laneMeaning_presence 0 present)
    | note code => exact receiveFrame_laneFrame rest rfl (by simp) (laneMeaning_note 0 code)
    | chat payload =>
      have short : payload.length ≤ 256 := of_decide_eq_true hfits
      exact receiveFrame_laneFrame rest rfl (by omega) (laneMeaning_chat 0 short)
  · subst hcovered
    cases f with
    | welcome id present =>
      obtain ⟨rfl, rfl, rfl⟩ := hf
      have meaning := laneMeaning_welcome (t1 ++ t0) id present
      rw [beBytes_word32] at meaning
      exact receiveFrame_good rest rfl (by simp) meaning
    | answer tag status payload =>
      obtain ⟨rfl, rfl, rfl, rfl, short⟩ := hf
      exact receiveFrame_good rest rfl (by omega) (laneMeaning_answer _ status short)
    | stopped tag =>
      obtain ⟨rfl, rfl, rfl, rfl⟩ := hf
      exact receiveFrame_good rest rfl (Nat.zero_le _) (laneMeaning_stopped _)
    | presence present =>
      obtain ⟨rfl, rfl, rfl⟩ := hf
      exact receiveFrame_good rest rfl (by simp) (laneMeaning_presence _ present)
    | note code =>
      obtain ⟨rfl, rfl, rfl⟩ := hf
      have meaning := laneMeaning_note (t1 ++ t0) code
      rw [beBytes_word16] at meaning
      exact receiveFrame_good rest rfl (by simp) meaning
    | chat payload =>
      obtain ⟨rfl, rfl, rfl, short⟩ := hf
      exact receiveFrame_good rest rfl (by omega) (laneMeaning_chat _ short)
  · subst hcovered
    cases f with
    | greet n => exact laneFrame_eq ..
    | run tag payload => exact laneFrame_eq ..
    | halt tag => exact laneFrame_eq ..
    | cycle => exact laneFrame_eq ..

end Sys2Proof.Machine

end

section
/-! BAD_FRAMEs and the frames that are discarded (R58, R59): statement O37. -/

namespace Sys2Proof.Machine

variable {s : State} {n : Nest}

/-! ### What a BAD_FRAME does, and what a link that is not UP does with a good frame (R58, R59) -/

/-- BAD_FRAMES increased by one, saturating (R58). -/
def badFrameCounted (p : NestPort) : NestPort :=
  { p with counters := { p.counters with badFrames :=
      if p.counters.badFrames = 4294967295#32 then p.counters.badFrames else p.counters.badFrames + 1#32 } }

theorem countBadFrame_eq (n : Nest) (s : State) :
    countBadFrame n s = if (s.port n).link = .down then s else s.updPort n badFrameCounted := rfl

/-- A command that takes a BAD_FRAME counts it, but in DOWN (R58, R59). -/
theorem counted_unless_down {i : Instr} (h : exec i s = .next (countBadFrame n s)) :
    ((s.port n).link ≠ .down → exec i s = .next (s.updPort n badFrameCounted)) ∧
    ((s.port n).link = .down → exec i s = .next s) := by
  rw [h, countBadFrame_eq]
  exact ⟨fun up => by rw [if_neg up], fun down => by rw [if_pos down]⟩

section
variable {payload : List Byte} {tag : Word16} {status b : Byte}

theorem execAnswer_long (hrun : s.phase = .running) (h : 256 < payload.length) :
    exec (.answer n tag status payload) s = .next (countBadFrame n s) :=
  (takesPlace_true (running_of_phase hrun) s _).trans (congrArg Host.Outcome.next (if_pos h))

theorem execChat_long (hrun : s.phase = .running) (h : 256 < payload.length) :
    exec (.chat n payload) s = .next (countBadFrame n s) :=
  (takesPlace_true (running_of_phase hrun) s _).trans (congrArg Host.Outcome.next (if_pos h))

theorem presenceOf_eq_none (h : 1 < b.toNat) : presenceOf b = none := by
  have zero : b ≠ 0#8 := by bv_omega
  have one : b ≠ 1#8 := by bv_omega
  rw [presenceOf, if_neg zero, if_neg one]

theorem execWelcome_bad (id : Word32) (hrun : s.phase = .running) (h : 1 < b.toNat) :
    exec (.welcome n id b) s = .next (countBadFrame n s) := by
  show execWelcome n id b s = _
  rw [execWelcome, takesPlace_true (running_of_phase hrun), presenceOf_eq_none h]

theorem execPresence_bad (hrun : s.phase = .running) (h : 1 < b.toNat) :
    exec (.presence n b) s = .next (countBadFrame n s) := by
  show execPresence n b s = _
  rw [execPresence, takesPlace_true (running_of_phase hrun), presenceOf_eq_none h]

/-- An ANSWER and a CHAT of at most 256 bytes are discarded but in UP (R59). -/
theorem exec_payload_notUp (hrun : s.phase = .running) (hl : (s.port n).link ≠ .up) (h : payload.length ≤ 256) :
    exec (.answer n tag status payload) s = .next s ∧ exec (.chat n payload) s = .next s := by
  have short : ¬payload.length > Config.maxAnswer := Nat.not_lt.mpr h
  refine ⟨?_, ?_⟩
  · show execAnswer n tag status payload s = _
    rw [execAnswer, takesPlace_true (running_of_phase hrun), if_neg short, if_neg hl]
  · show execChat n payload s = _
    rw [execChat, takesPlace_true (running_of_phase hrun), if_neg short, if_neg hl]

theorem execPresence_notUp (hrun : s.phase = .running) (hl : (s.port n).link ≠ .up) (h : b.toNat ≤ 1) :
    exec (.presence n b) s = .next s := by
  obtain ⟨present, hb⟩ := presenceOf_of_le h
  rw [execPresence_good hrun hb, if_neg hl]

end

theorem exec_unless_up (tag code : Word16) (hl : (s.port n).link ≠ .up) :
    exec (.stopped n tag) s = .next s ∧ exec (.note n code) s = .next s := by
  have off : (s.running && decide ((s.port n).link = .up)) = false := by rw [decide_eq_false hl, Bool.and_false]
  exact ⟨takesPlace_false off s _, takesPlace_false off s _⟩

/-! ### The bytes that are a BAD_FRAME (R58) -/

/-- The receiver abandons a frame at a payload length above 1024, and hunts on from the byte after it (R58). -/
theorem receiveFrame_overlong (kind t1 t0 : Byte) {l1 l0 : Byte} (rest : List Byte)
    (h : 1024 < 256 * l1.toNat + l0.toNat) :
    receiveFrame (0xC3#8 :: kind :: t1 :: t0 :: l1 :: l0 :: rest) = some (none, rest) := by
  have long : beNat [l1, l0] > Config.maxLinkPayload := by rw [beNat_two]; exact h
  rw [receiveFrame, if_neg fun h => h rfl]
  dsimp only
  rw [if_pos long]

/-- A frame whose CRC differs, or whose kind and payload have no meaning, is a BAD_FRAME. -/
theorem isBadFrame_laneBytes {kind t1 t0 : Byte} {status payload : List Byte} {crc : Word16}
    (hstatus : status.length = if kind = 0x82#8 then 1 else 0) (hlen : payload.length ≤ 1024)
    (h : crc ≠ crc16 (laneCovered kind t1 t0 status payload) ∨
      laneMeaning kind (t1 ++ t0) payload.length (status ++ payload) = none) :
    isBadFrame (laneBytes (laneCovered kind t1 t0 status payload) crc) = true := by
  have received := receiveFrame_laneBytes crc [] (t1 := t1) (t0 := t0) hstatus hlen
  rw [List.append_nil] at received
  rw [isBadFrame, received, decide_eq_true_iff]
  rcases h with differs | meaningless
  · rw [if_neg differs]
  · rw [meaningless, ite_self]

section
variable (tag : Word16) {len : Nat} {body : List Byte}

theorem laneMeaning_unknown {kind : Byte} (hk : kind ∉ [0x81#8, 0x83#8, 0x84#8, 0x85#8, 0x86#8])
    (ha : kind ≠ 0x82#8) : laneMeaning kind tag len body = none := by
  simp only [List.mem_cons, List.not_mem_nil, or_false, not_or] at hk
  obtain ⟨h1, h3, h4, h5, h6⟩ := hk
  rw [laneMeaning, if_neg h1, if_neg ha, if_neg h3, if_neg h4, if_neg h5, if_neg h6]

theorem laneMeaning_welcome_none (h : len ≠ 5 ∨ 1 < (byteAt body 4).toNat) :
    laneMeaning 0x81#8 tag len body = none := by
  rw [laneMeaning, if_pos rfl]
  split
  · next five => rw [presenceOf_eq_none (h.resolve_left fun other => other five), Option.map_none]
  · rfl

theorem laneMeaning_presence_none (h : len ≠ 1 ∨ 1 < (byteAt body 0).toNat) :
    laneMeaning 0x84#8 tag len body = none := by
  show (if len = 1 then (presenceOf (byteAt body 0)).map (fun p => LaneIn.presence p) else none) = none
  split
  · next one => rw [presenceOf_eq_none (h.resolve_left fun other => other one), Option.map_none]
  · rfl

theorem laneMeaning_stopped_none (h : len ≠ 0) : laneMeaning 0x83#8 tag len body = none := if_neg h

theorem laneMeaning_note_none (h : len ≠ 2) : laneMeaning 0x85#8 tag len body = none := if_neg h

theorem laneMeaning_chat_none (h : 256 < len) : laneMeaning 0x86#8 tag len body = none := if_neg (Nat.not_le.mpr h)

theorem laneMeaning_answer_none (h : 256 < len) : laneMeaning 0x82#8 tag len body = none := if_neg (Nat.not_le.mpr h)

end

/-- Settles O37: what takes a BAD_FRAME counts it alone, what is discarded changes nothing, and each line of R58 has
its bytes. -/
theorem badFrameIsCounted : Obligations.BadFrameIsCounted := by
  refine ⟨fun s n tag code id status presence payload hrun hlen hp => ⟨fun hl c hc => ?_, fun down => ?_⟩,
    fun s n tag id status presence payload hrun hlen hp c hc => ?_, fun s n bytes hrun hbad => ?_,
    fun kind t1 t0 l1 l0 rest h => ⟨receiveFrame_overlong kind t1 t0 rest h, ?_⟩,
    fun kind t1 t0 payload crc hkind hlen h => isBadFrame_laneBytes (by rw [if_neg hkind]; rfl) hlen ?_,
    fun t1 t0 status payload crc hlen h => isBadFrame_laneBytes rfl hlen ?_⟩
  · obtain ⟨answer, chat⟩ := exec_payload_notUp (tag := tag) (status := status) hrun hl hlen
    obtain ⟨stopped, note⟩ := exec_unless_up tag code hl
    simp only [List.mem_cons, List.not_mem_nil, or_false] at hc
    rcases hc with rfl | rfl | rfl | rfl | rfl
    · exact answer
    · exact stopped
    · exact note
    · exact chat
    · exact execPresence_notUp hrun hl hp
  · obtain ⟨present, hb⟩ := presenceOf_of_le hp
    rw [execWelcome_good id hrun hb, takeWelcome, down]
  · refine counted_unless_down ?_
    simp only [List.mem_cons, List.not_mem_nil, or_false] at hc
    rcases hc with rfl | rfl | rfl | rfl
    · exact execAnswer_long hrun hlen
    · exact execChat_long hrun hlen
    · exact execWelcome_bad id hrun hp
    · exact execPresence_bad hrun hp
  · exact counted_unless_down (takesPlace_true (by rw [running_of_phase hrun, hbad]; rfl) s _)
  · exact decide_eq_true (receiveFrame_overlong kind t1 t0 [] h)
  · rcases h with unknown | ⟨rfl, h⟩ | ⟨rfl, h⟩ | ⟨rfl, h⟩ | ⟨rfl, h⟩ | ⟨rfl, h⟩ | differs
    · exact .inr (laneMeaning_unknown _ unknown hkind)
    · exact .inr (laneMeaning_welcome_none _ h)
    · exact .inr (laneMeaning_stopped_none _ h)
    · exact .inr (laneMeaning_presence_none _ h)
    · exact .inr (laneMeaning_note_none _ h)
    · exact .inr (laneMeaning_chat_none _ h)
    · exact .inl differs
  · exact h.symm.imp id fun long => laneMeaning_answer_none _ long

end Sys2Proof.Machine

end

section
/-! NEST_ACTION HALT and INCLUDE (R152, R153, R156), and an answer that leaves reps (R71, R72, R92): statements O29
and O41. -/

namespace Sys2Proof.Machine

variable {s t u : State} {n : Nest}

/-! ### HALT and INCLUDE -/

theorem haltedStep_of_ne_none (h : haltedStep n t ≠ none) : ∃ c rest, (t.port n).queue = c :: rest ∧
    haltedStep n t = some (c.stream, (t.entry c.entry).stepNumber) := by
  obtain ⟨c, hc⟩ : ∃ c, haltedHead n anyCopy t = some c := by
    simpa [haltedStep, Option.ne_none_iff_exists'] using h
  obtain ⟨rest, hqueue⟩ := haltedHead_eq_some hc
  exact ⟨c, rest, hqueue, by rw [haltedStep, hc]; rfl⟩

/-- The flags of an action that halts a copy and sends no CYCLE (R152). -/
theorem flags_of_halted (x : StreamId × Word16) (excluded : Bool) :
    BitVec.ofNat 8 (bit (some x).isSome 0 + bit false 1 + bit excluded 2) = if excluded then 5#8 else 1#8 := by
  cases excluded <;> rfl

theorem ofNat_toNat_word16 (x : Word16) :
    BitVec.ofNat 8 x.toNat = x.setWidth 8 ∧ BitVec.ofNat 8 (x.toNat / 256) = (x >>> 8).setWidth 8 := by
  refine ⟨BitVec.ofNat_toNat .., ?_⟩
  rw [← BitVec.ofNat_toNat, BitVec.toNat_ushiftRight, Nat.shiftRight_eq_div_pow]

/-- Settles O29: the halt request is that of R78 and its answer names what it halted; INCLUDE clears the flag. -/
theorem haltAndIncludeActions : Obligations.HaltAndIncludeActions := by
  intro s f n
  refine ⟨fun h => ?_, fun h => ⟨_, rfl, ?_⟩⟩
  · obtain ⟨t, ht⟩ : ∃ t, haltHead n anyCopy (passMessage f s) = t := ⟨_, rfl⟩
    have halted : HaltTaken n anyCopy (passMessage f s) t := ht ▸ haltHead_spec _ n anyCopy
    obtain ⟨link, config, standing⟩ := halted.keepsNest
    have unmoved : withDispatchOf s t = s ↔ haltedStep n (passMessage f s) = none := by
      rw [← ht]
      exact withDispatchOf_haltHead_eq_iff (s := s) (t := passMessage f s)
    have run : exec .nestActionHalt s =
        .next (answerAction (reqOf f) n .halt (haltedStep n (passMessage f s)) false 0 t) := by
      rw [← ht]
      exact nestAction_asked (a := .halt) h actHalt
    refine ⟨withDispatchOf s t, _, halted.undispatch, run.trans (congrArg Host.Outcome.next
      (answerAction_eq (s := s) (by simp [← ht]) (by simp [← ht]) n .halt _ false 0)), fun same => ?_, fun moved => ?_⟩
    · rw [actionResult_eq, unmoved.mp same, flags_of_excluded_alone, config, standing, link]
      rfl
    · obtain ⟨c, rest, queue, step⟩ := haltedStep_of_ne_none (mt unmoved.mpr moved)
      obtain ⟨low, high⟩ := ofNat_toNat_word16 (s.entry c.entry).stepNumber
      refine ⟨c, rest, queue, ?_⟩
      rw [actionResult_eq, step, flags_of_halted, config, standing, link, ← low, ← high]
      rfl
  · have run : exec .nestActionInclude s =
        .next (answerAction (reqOf f) n .include_ none false 0 (setExcluded n false (passMessage f s))) :=
      nestAction_asked (a := .include_) h actInclude
    have port : (setExcluded n false (passMessage f s)).port n =
        { s.port n with config := { (s.port n).config with excluded := false } } :=
      port_updPort_same (passMessage f s) n _
    rw [run, answerAction_eq (s := s) (by rfl) (by rfl), actionResult_eq, flags_of_excluded_alone, port]
    rfl

/-! ### An answer that leaves reps -/

/-- The port as an answer that leaves reps has it go on (R72): in GAP, or with the next RUN sent. -/
def goesOn (c : Copy) (s : State) (p : NestPort) : NestPort :=
  if (s.entry c.entry).gap = 0 then runSent c s p
  else { p with gap := .running (s.entry c.entry).gap, service := .gap }

theorem nextRun_eq (n : Nest) (c : Copy) (s : State) : nextRun n c s = s.updPort n (goesOn c s) := by
  unfold nextRun
  dsimp only
  split
  · next none => exact updPort_congr (if_pos none).symm
  · next some => exact updPort_congr (if_neg some).symm

/-- Judging leaves the step alone, its gap and its payload included. -/
theorem goesOn_congr {c : Copy} (htable : u.table = s.table) (hpayload : u.payload = s.payload) :
    goesOn c u = goesOn c s := by
  funext p
  have entry : u.entry c.entry = s.entry c.entry := entry_congr htable _
  have bytes : stepPayload u c.entry = stepPayload s c.entry := by rw [stepPayload, stepPayload, entry, hpayload]
  rw [goesOn, goesOn, runSent, runSent, entry, bytes]

/-- Settles O41: the run is judged, and the copy goes on by R72. -/
theorem answerLeavingReps : Obligations.AnswerLeavingReps := by
  intro s n tag payload c rest hrun hup hs hq hlen hreps
  obtain ⟨u, o, judged, frame, other, own, -, unprofiled, profiled⟩ :=
    judgeAnswer_spec (s.updPort n (runAnswered c)) c.entry n payload false
  have on : goesOn c u = goesOn c s := goesOn_congr (by rw [frame]; rfl) (by rw [frame]; rfl)
  have answered : takeAnswer n c 0#8 payload s = u.updPort n (goesOn c s) := by
    rw [takeAnswer_eq, if_neg (fun h => h rfl), if_pos hreps, judged, nextRun_eq, on]
  have port : u.port n = runAnswered c (s.port n) :=
    (port_congr (by rw [frame]) n).trans (port_updPort_same s n (runAnswered c))
  refine ⟨_, (execAnswer_waiting hrun hup hs hq hlen).trans (congrArg Host.Outcome.next answered), ⟨?_, fun m hm => ?_⟩,
    ?_, other, own, fun h => by rw [updPort_judge, (unprofiled h).1]; rfl, fun h i => ((profiled h).2 i).trans rfl,
    fun h => ?_, fun h => ?_⟩
  · rw [frame]
    rfl
  · rw [port_updPort, if_neg hm]
    refine (port_congr (by rw [frame]) m).trans ((port_updPort s n m _).trans (if_neg hm))
  · rw [updPort_judge, frame]
    rfl
  · rw [port_updPort_same, port, goesOn, if_neg h, runAnswered, hq]
    rfl
  · rw [port_updPort_same, port, goesOn, if_pos h, runAnswered, hq]
    rfl

end Sys2Proof.Machine

end

section
/-! Row images read as they are written (R65, R86, R183, R184, R194, 11.4): statement O54. -/

namespace Sys2Proof.Machine

variable {s : State}

/-! ### A row of a table, read by its number and written with what it holds -/

theorem upd_eq_self {α : Type} {k : Nat} {v : Vector α k} {i : Fin k} {f : α → α} (h : f v[i.val] = v[i.val]) :
    upd v i f = v := by
  apply Vector.ext
  intro j hj
  rw [show (upd v i f)[j] = _ from upd_get v i ⟨j, hj⟩ f]
  split
  · next same => subst same; exact h
  · rfl

theorem toList_getD {α : Type} {k : Nat} (v : Vector α k) (i : Fin k) (d : α) : v.toList.getD i.val d = v[i.val] := by
  simp [List.getD]

theorem updPort_eq_self {n : Nest} {f : NestPort → NestPort} (h : f (s.port n) = s.port n) : s.updPort n f = s := by
  rw [State.updPort, upd_eq_self h]

theorem updProfile_eq_self {r : Fin 64} {f : ProfileRow → ProfileRow} (h : f (s.profile r) = s.profile r) :
    s.updProfile r f = s := by
  rw [State.updProfile, upd_eq_self h]

/-! ### Fields written and read back -/

theorem ofNat_leNat_leBytes {k : Nat} (x : BitVec (8 * k)) : BitVec.ofNat (8 * k) (leNat (leBytes k x.toNat)) = x := by
  rw [leNat_leBytes, toNat_mod_bytes, BitVec.ofNat_toNat, BitVec.setWidth_eq]

theorem toNat_ofNat_row {k : Nat} (i : Fin k) (hk : k ≤ 256) : (BitVec.ofNat 8 i.val).toNat = i.val := by
  rw [BitVec.toNat_ofNat]
  omega

theorem drop_two (x y : Byte) (l : List Byte) : ([x, y] ++ l).drop 2 = l := rfl

theorem ofNat_bit_zero (b : Bool) : BitVec.ofNat 8 (bit b 0) = if b then 1#8 else 0#8 := by cases b <;> rfl

/-! ### Group, Code Set, Nest Config, Allow List and Settings -/

theorem rewrite_group (r : Fin 64) : writeRow .group (rowImage s .group r.val) s = .written s := by
  have image : rowImage s .group r.val =
      [BitVec.ofNat 8 r.val, 0#8] ++ leBytes 4 s.groups[r.val].toNat := by
    rw [← toList_getD s.groups r 0]
    rfl
  have field : leAt (rowImage s .group r.val) 2 4 = leNat (leBytes 4 s.groups[r.val].toNat) := by
    rw [image]
    rfl
  rw [writeGroupRow_of (r := r) (by rw [image]; exact toNat_ofNat_row r (by decide)) s, field, upd_eq_self]
  exact ofNat_leNat_leBytes (k := 4) _

theorem rewrite_codeSet (r : Fin 64) (hfree : codeSetInUse s (r.val / 8) = false) :
    writeRow .codeSet (rowImage s .codeSet r.val) s = .written s := by
  have image : rowImage s .codeSet r.val =
      [BitVec.ofNat 8 r.val, 0#8] ++ leBytes 64 s.judge.codeSets[r.val].toNat := by
    rw [← toList_getD s.judge.codeSets r 0]
    rfl
  have field : ((rowImage s .codeSet r.val).drop 2).take 64 = leBytes 64 s.judge.codeSets[r.val].toNat := by
    rw [image, drop_two, List.take_of_length_le (length_leBytes ..).le]
  rw [writeCodeSetRow_of (r := r) (by rw [image]; exact toNat_ofNat_row r (by decide)) hfree, field, upd_eq_self]
  exact ofNat_leNat_leBytes (k := 64) _

theorem rewrite_nestConfig (n : Nest) (hok : portOk (s.port n) = true) :
    writeRow .nestConfig (rowImage s .nestConfig n.val) s = .written s := by
  obtain ⟨c, hc⟩ : ∃ c, (s.port n).config = c := ⟨_, rfl⟩
  have image : rowImage s .nestConfig n.val = [BitVec.ofNat 8 n.val,
      BitVec.ofNat 8 (bit c.enabled 0 + bit c.excluded 1 + bit c.chatter 2)] ++ leBytes 2 c.haltGrace := by
    rw [← hc, State.port, ← toList_getD s.ports n (NestPort.initial (NestConfig.default false))]
    rfl
  obtain ⟨low, high⟩ : 0 < c.haltGrace ∧ c.haltGrace ≤ 1000 := by
    simp only [portOk, Bool.and_eq_true, decide_eq_true_eq, hc] at hok
    exact hok.2
  have grace : leAt (rowImage s .nestConfig n.val) 2 2 = c.haltGrace := by
    rw [image, leAt_append_right _ _ _ _ (by simp)]
    exact (leAt_leBytes 2 _).trans (Nat.mod_eq_of_lt (by omega))
  have flags : byteAt (rowImage s .nestConfig n.val) 1 =
      BitVec.ofNat 8 (bit c.enabled 0 + bit c.excluded 1 + bit c.chatter 2) := by
    rw [image]
    rfl
  obtain ⟨bit0, bit1, bit2, -⟩ := flags_bits c.enabled c.excluded c.chatter
  have fields : c =
      { enabled := (byteAt (rowImage s .nestConfig n.val) 1).getLsbD 0,
        excluded := (byteAt (rowImage s .nestConfig n.val) 1).getLsbD 1,
        chatter := (byteAt (rowImage s .nestConfig n.val) 1).getLsbD 2,
        haltGrace := leAt (rowImage s .nestConfig n.val) 2 2 } := by
    rw [grace, flags, bit0, bit1, bit2]
  rw [writeNestConfigRow_of (by rw [image]; exact toNat_ofNat_nest n) fields low high s,
    storeNestConfig_same (by rw [hc]), updPort_eq_self (by rw [← hc])]

theorem rewrite_allowList (i : Fin 4) (hok : allowOk s.uplink.allow[i.val] = true) :
    writeRow .allowList (rowImage s .allowList i.val) s = .written s := by
  obtain ⟨a, ha⟩ : ∃ a, s.uplink.allow[i.val] = a := ⟨_, rfl⟩
  rw [ha] at hok
  have image : rowImage s .allowList i.val =
      [BitVec.ofNat 8 i.val, BitVec.ofNat 8 (bit a.valid 0)] ++ beBytes 6 a.addr.toNat := by
    rw [← ha, ← toList_getD s.uplink.allow i { valid := false, addr := 0 }]
    rfl
  have address : (rowImage s .allowList i.val).drop 2 = beBytes 6 a.addr.toNat := by rw [image, drop_two]
  have whole : BitVec.ofNat 48 (beNat (beBytes 6 a.addr.toNat)) = a.addr := ofNat_beNat_beBytes (k := 6) a.addr
  have group : (byteAt (rowImage s .allowList i.val) 2).getLsbD 0 = isGroupAddress a.addr := by
    conv_rhs => rw [← whole, isGroupAddress_ofNat (length_beBytes ..), ← address, byteAt_drop]
  have entry : { valid := a.valid, addr := if a.valid then a.addr else 0 } = a := by
    cases hv : a.valid with
    | true => rw [if_pos rfl, ← hv]
    | false =>
      have zero : a.addr = 0#48 := by simpa [allowOk, hv] using hok
      rw [if_neg Bool.false_ne_true, ← hv]
      exact congrArg (AllowEntry.mk a.valid) zero.symm
  rw [writeAllowRow_of (valid := a.valid) (by rw [image]; exact toNat_ofNat_row i (by decide)) (by rw [image]; simp)
    (by rw [image]; exact ofNat_bit_zero a.valid) (fun hv => ?_) s, address, whole, upd_eq_self (entry.trans ha.symm)]
  rw [group]
  simpa [allowOk, hv] using hok

theorem rewrite_settings (hok : settingsOk s.mgmt.settings = true) :
    writeRow .settings (rowImage s .settings 0) s = .written s := by
  obtain ⟨c, hc⟩ : ∃ c, s.mgmt.settings = c := ⟨_, rfl⟩
  rw [hc] at hok
  simp only [settingsOk, Bool.and_eq_true, decide_eq_true_eq] at hok
  obtain ⟨⟨throttle, payloadLow⟩, replyLow⟩ := hok
  have image : rowImage s .settings 0 = [0#8, 0#8] ++ (leBytes 2 c.throttle ++ (leBytes 2 c.payloadLow ++
      (leBytes 2 c.replyLow ++ [BitVec.ofNat 8 c.mask.toNat, 0#8]))) := by
    rw [← hc]
    rfl
  have word : ∀ {v : Nat}, v < 65536 → leNat (leBytes 2 v) = v := fun hv =>
    (leNat_leBytes 2 _).trans (Nat.mod_eq_of_lt hv)
  have thresholds : c.payloadLow < 65536 ∧ c.replyLow < 65536 :=
    ⟨payloadLow.trans_lt (by decide), replyLow.trans_lt (by decide)⟩
  have field2 : leAt (rowImage s .settings 0) 2 2 = c.throttle := by
    rw [image]
    exact word throttle
  have field4 : leAt (rowImage s .settings 0) 4 2 = c.payloadLow := by
    rw [image]
    exact word thresholds.1
  have field6 : leAt (rowImage s .settings 0) 6 2 = c.replyLow := by
    rw [image]
    exact word thresholds.2
  have mask : byteAt (rowImage s .settings 0) 8 = c.mask.setWidth 8 := by
    rw [image, ← BitVec.ofNat_toNat]
    rfl
  have kept : (c.mask.setWidth 8).setWidth 7 = c.mask := by simp
  rw [writeSettingsRow_of (by rw [image]; rfl) (by rw [field4]; exact payloadLow) (by rw [field6]; exact replyLow)
    (by rw [mask]; simp) s, field2, field4, field6, mask, kept, ← hc]

/-! ### Profile (R84, R86) -/

theorem modeOf_number (m : Mode) : modeOf (BitVec.ofNat 8 m.number).toNat = some m := by cases m <;> rfl

theorem length_slotBytes (m : MeasureSlot) : m.bytes.length = 26 := by simp [MeasureSlot.bytes]

/-- A measure slot is read as its 26 bytes have it (11.4). -/
theorem decodeSlot_bytes (m : MeasureSlot) (rest : List Byte) : decodeSlot (m.bytes ++ rest) = some m := by
  have mode : modeOf (byteAt (m.bytes ++ rest) 0).toNat = some m.mode := modeOf_number m.mode
  have signed : (byteAt (m.bytes ++ rest) 3).getLsbD 0 = m.signed := by
    show (BitVec.ofNat 8 (bit m.signed 0)).getLsbD 0 = m.signed
    cases m.signed <;> rfl
  have field : ∀ {i k : Nat} {x : BitVec (8 * k)}, i + k ≤ 26 →
      ((m.bytes ++ rest).drop i).take k = leBytes k x.toNat →
      BitVec.ofNat (8 * k) (leAt (m.bytes ++ rest) i k) = x := fun inside h => by
    rw [leAt_take _ _ _ (by rw [List.length_append, length_slotBytes]; omega), h, ofNat_leNat_leBytes]
  have gain : BitVec.ofNat 16 (leAt (m.bytes ++ rest) 4 2) = m.gain := field (k := 2) (by decide) rfl
  have bias : BitVec.ofNat 32 (leAt (m.bytes ++ rest) 10 4) = m.bias := field (k := 4) (by decide) rfl
  have low : BitVec.ofNat 32 (leAt (m.bytes ++ rest) 14 4) = m.low := field (k := 4) (by decide) rfl
  have high : BitVec.ofNat 32 (leAt (m.bytes ++ rest) 18 4) = m.high := field (k := 4) (by decide) rfl
  have guard : BitVec.ofNat 32 (leAt (m.bytes ++ rest) 22 4) = m.guard := field (k := 4) (by decide) rfl
  rw [decodeSlot, mode, signed, gain, bias, low, high, guard]
  rfl

theorem slots_eq_four (v : Vector MeasureSlot 4) : v = #v[v[0], v[1], v[2], v[3]] := by
  apply Vector.ext
  intro i hi
  match i, hi with
  | 0, _ => rfl
  | 1, _ => rfl
  | 2, _ => rfl
  | 3, _ => rfl

/-- Four slots are read from an image as they were written into it. -/
theorem decodeSlots_bytes (head : List Byte) (hhead : head.length = 4) (v : Vector MeasureSlot 4) :
    decodeSlots (head ++ v.toList.flatMap MeasureSlot.bytes) = some v := by
  obtain ⟨a, b, c, d, rfl⟩ : ∃ a b c d, v = #v[a, b, c, d] := ⟨_, _, _, _, slots_eq_four v⟩
  have slots : #v[a, b, c, d].toList.flatMap MeasureSlot.bytes =
      a.bytes ++ (b.bytes ++ (c.bytes ++ (d.bytes ++ []))) := rfl
  have skip : ∀ {k : Nat} {x : MeasureSlot} {img rest : List Byte}, img.drop k = x.bytes ++ rest →
      img.drop (k + 26) = rest := fun h => by
    rw [← List.drop_drop, h, List.drop_left' (length_slotBytes _)]
  have first := List.drop_left' (l₂ := #v[a, b, c, d].toList.flatMap MeasureSlot.bytes) hhead
  rw [slots] at first
  have second := skip first
  have third := skip second
  have fourth := skip third
  rw [slots, decodeSlots, first, second, third, fourth]
  simp only [decodeSlot_bytes]

theorem rewrite_profile (r : Fin 64) (hr : 1 ≤ r.val) (hpins : (s.profile r).pins = 0)
    (hok : profileOk (s.profile r) = true) : writeRow .profile (rowImage s .profile r.val) s = .written s := by
  obtain ⟨p, hp⟩ : ∃ p, s.profile r = p := ⟨_, rfl⟩
  rw [hp] at hpins hok
  have image : rowImage s .profile r.val = [BitVec.ofNat 8 r.val, BitVec.ofNat 8 (bit p.defined 0),
      BitVec.ofNat 8 p.pins, 0#8] ++ p.slots.toList.flatMap MeasureSlot.bytes := by
    rw [← hp, State.profile, ← toList_getD s.judge.profiles r ProfileRow.empty]
    rfl
  have number : (byteAt (rowImage s .profile r.val) 0).toNat = r.val := by
    rw [image]
    exact toNat_ofNat_row r (by decide)
  have flag : byteAt (rowImage s .profile r.val) 1 = if p.defined then 1#8 else 0#8 := by
    rw [image]
    exact ofNat_bit_zero p.defined
  have slots : decodeSlots (rowImage s .profile r.val) = some p.slots := by
    rw [image]
    exact decodeSlots_bytes _ rfl p.slots
  generalize rowImage s .profile r.val = img at number flag slots
  have row : ∀ h : (byteAt img 0).toNat < 64, (⟨(byteAt img 0).toNat, h⟩ : Fin 64) = r := fun _ => Fin.ext number
  have taken : 1 ≤ (byteAt img 0).toNat ∧ (byteAt img 0).toNat < 64 ∧ (byteAt img 1).toNat ≤ 1 := by
    refine ⟨number ▸ hr, number ▸ r.isLt, ?_⟩
    rw [flag]
    split <;> decide
  have unpinned : ¬p.pins ≠ 0 := not_not.mpr hpins
  show writeProfileRow img s = _
  rw [writeProfileRow, dif_pos taken]
  dsimp only
  rw [row, hp, if_neg unpinned, flag]
  cases hd : p.defined with
  | true =>
    have valid : p.slots.toList.all MeasureSlot.valid = true := by simpa [profileOk, hd] using hok
    have same : { defined := true, slots := p.slots, pins := 0 } = s.profile r := by rw [hp, ← hd, ← hpins]
    rw [if_pos rfl, if_neg (by decide), slots]
    dsimp only
    rw [if_pos valid, updProfile_eq_self same]
  | false =>
    have cleared : p.slots = ProfileRow.empty.slots := by simpa [profileOk, hd] using hok
    have same : ProfileRow.empty = s.profile r := by
      obtain ⟨defined, slots, pins⟩ := p
      subst hd hpins cleared
      exact hp.symm
    rw [if_neg Bool.false_ne_true, if_pos rfl, updProfile_eq_self same]

/-! ### Every table -/

theorem length_rowImage (s : State) (t : Table) (row : Nat) : (rowImage s t row).length = t.imageSize := by
  cases t with
  | profile =>
    have slots := length_flatMap_const (s.judge.profiles.toList.getD row ProfileRow.empty).slots.toList
      MeasureSlot.bytes 26 (fun m _ => length_slotBytes m)
    rw [Vector.length_toList] at slots
    rw [rowImage, List.length_append, slots]
    rfl
  | _ => simp [rowImage, Table.imageSize]

/-- Settles O54: table by table, the image is read as it was written. -/
theorem rowImageRewriteChangesNothing : Obligations.RowImageRewriteChangesNothing := by
  intro s t row htables hports hfirst hlast hpins hfree
  obtain ⟨profiles, -, allow, settings⟩ := htables
  refine ⟨length_rowImage s t row, s, ?_, rfl⟩
  cases t with
  | group => exact rewrite_group ⟨row, Nat.lt_succ_of_le hlast⟩
  | profile =>
    have inside : row < 64 := Nat.lt_succ_of_le hlast
    exact rewrite_profile ⟨row, inside⟩ hfirst (hpins rfl ⟨row, inside⟩ rfl) (profiles _)
  | codeSet => exact rewrite_codeSet ⟨row, Nat.lt_succ_of_le hlast⟩ (hfree rfl)
  | nestConfig =>
    have inside : row < 32 := Nat.lt_succ_of_le hlast
    exact rewrite_nestConfig ⟨row, inside⟩ (hports _)
  | allowList =>
    have inside : row < 4 := Nat.lt_succ_of_le hlast
    exact rewrite_allowList ⟨row, inside⟩ (allow _)
  | settings =>
    obtain rfl : row = 0 := Nat.le_zero.mp hlast
    exact rewrite_settings settings

end Sys2Proof.Machine

end

section
/-! The queue of commands, which no operation touches (R189): the first part of statement O2. -/

namespace Sys2Proof.Machine

variable (s : State)

/-! ### Folds over the nests, and the operations of acceptance and retirement -/

/-- An operation carried out for each element of a list leaves the queue, if it leaves the queue each time. -/
theorem foldl_pending {α : Type} {f : State → α → State} (h : ∀ t a, (f t a).pending = t.pending) (l : List α)
    (s : State) : (l.foldl f s).pending = s.pending := by
  induction l generalizing s with
  | nil => rfl
  | cons a l ih => exact (ih (f s a)).trans (h s a)

@[simp] theorem trainAll_pending : (trainAll s).pending = s.pending :=
  foldl_pending (fun t n => trainIfReady_pending t n) _ s

@[simp] theorem applyEnable_pending (mask : NestSet) : (applyEnable mask s).pending = s.pending :=
  foldl_pending (fun t n => updPort_pending t n _) _ s

@[simp] theorem endLoading_pending (c : Configuration) : (endLoading c s).pending = s.pending := by
  simp [endLoading]

@[simp] theorem restartState_pending : (restartState s).pending = s.pending := rfl

@[simp] theorem finishMessage_pending : (finishMessage s).pending = s.pending := rfl

@[simp] theorem refuseStep_pending (f : RxFrame) (reason : RefusalReason) (detail : Nat) :
    (refuseStep f reason detail s).pending = s.pending := by
  unfold refuseStep
  dsimp only
  split <;> rfl

@[simp] theorem completed_pending (e : EntryId) : (completed e s).pending = s.pending := rfl

theorem enlist_pending (e : EntryId) (q : StepReq) (target : NestSet) (r : Fin 64) :
    (enlist e q target r s).pending = s.pending := by rw [(enlist_spec e q target r s).frame]

@[simp] theorem testPayloadLow_pending (before : Nat) : (testPayloadLow before s).pending = s.pending := by
  unfold testPayloadLow
  dsimp only
  split
  · exact raiseCause_pending s .payloadLow
  · rfl

theorem accepted_pending (e : EntryId) (q : StepReq) (target : NestSet) (r : Fin 64) :
    (accepted e q target r s).pending = s.pending := by
  unfold accepted
  dsimp only
  rw [testPayloadLow_pending, ← enlist_pending s e q target r]
  split
  · exact chooseCandidate_pending _
  · rfl

@[simp] theorem acceptInto_pending (e : EntryId) (q : StepReq) (target : NestSet) (r : Fin 64) :
    (acceptInto e q target r s).pending = s.pending := by
  rw [acceptInto_eq, foldl_pending (fun t n => absenceRule_pending t n), accepted_pending]

@[simp] theorem takeStep_pending (f : RxFrame) : (takeStep f s).pending = s.pending := by
  unfold takeStep
  split
  · exact refuseStep_pending s f _ _
  · split
    · exact acceptInto_pending s _ _ _ _
    · rfl

@[simp] theorem startRetirement_pending (e : EntryId) : (startRetirement e s).pending = s.pending := rfl

@[simp] theorem reopenIfEmpty_pending (st : StreamId) : (reopenIfEmpty st s).pending = s.pending := by
  unfold reopenIfEmpty
  split <;> rfl

@[simp] theorem endRetirement_pending (e : EntryId) : (endRetirement e s).pending = s.pending := by
  unfold endRetirement
  dsimp only
  split <;> simp

@[simp] theorem freeCells_pending (vs : List Variant) : (freeCells vs s).pending = s.pending := rfl

@[simp] theorem placeSegment_pending (r : Retirement) : (placeSegment r s).pending = s.pending := by
  unfold placeSegment
  dsimp only
  split <;> simp

/-! ### The lane, answers and the Lot Controller -/

@[simp] theorem takeWelcome_pending (n : Nest) (id : Word32) (present : Bool) :
    (takeWelcome n id present s).pending = s.pending := by
  unfold takeWelcome
  split <;> simp

@[simp] theorem takeNote_pending (n : Nest) (code : Word16) : (takeNote n code s).pending = s.pending := by
  unfold takeNote
  dsimp only
  split <;> rfl

@[simp] theorem takeChat_pending (n : Nest) (payload : List Byte) : (takeChat n payload s).pending = s.pending := by
  unfold takeChat
  split <;> rfl

@[simp] theorem judgeAnswer_pending (e : EntryId) (n : Nest) (payload : List Byte) (final : Bool) :
    (judgeAnswer e n payload final s).1.pending = s.pending := by
  obtain ⟨t, o, h, frame, -⟩ := judgeAnswer_spec s e n payload final
  rw [h]
  dsimp only
  rw [frame]

@[simp] theorem offerAnswer_pending (e : EntryId) (n : Nest) (payload : List Byte) :
    (offerAnswer e n payload s).pending = s.pending := by
  obtain ⟨⟨frame, -⟩, -⟩ := offerAnswer_spec s e n payload
  rw [frame]

@[simp] theorem endByAnswer_pending (n : Nest) (c : Copy) (runs : Nat) (o : CopyOutcome) (payload : List Byte) :
    (endByAnswer n c runs o payload s).pending = s.pending := by simp [endByAnswer]

@[simp] theorem nextRun_pending (n : Nest) (c : Copy) : (nextRun n c s).pending = s.pending := by
  rw [nextRun_eq, updPort_pending]

@[simp] theorem takeAnswer_pending (n : Nest) (c : Copy) (status : Byte) (payload : List Byte) :
    (takeAnswer n c status payload s).pending = s.pending := by
  rw [takeAnswer_eq]
  split
  · simp
  · split <;> simp

@[simp] theorem classifyAnswer_pending (n : Nest) (tag : Word16) (status : Byte) (payload : List Byte) :
    (classifyAnswer n tag status payload s).pending = s.pending := by
  unfold classifyAnswer
  split
  · split
    · split
      · exact takeAnswer_pending s n _ status payload
      · rfl
    · exact countLate_pending s n
  · split <;> simp
  all_goals exact countLate_pending s n

@[simp] theorem expireDeadline_pending (n : Nest) (c : Copy) (tag : Word16) :
    (expireDeadline n c tag s).pending = s.pending := by simp [expireDeadline]

@[simp] theorem dropEvent_pending (n : Nest) : (dropEvent n s).pending = s.pending := rfl

@[simp] theorem retrainProgress_pending (n : Nest) : (retrainProgress n s).pending = s.pending := by
  unfold retrainProgress
  split
  · split
    · split <;> rfl
    · rfl
  all_goals rfl

@[simp] theorem abortProgress_pending (n : Nest) (r : Req) (st : StreamId) (marked halted voided : Nat)
    (left : NestSet) : (abortProgress n r st marked halted voided left s).pending = s.pending := by
  unfold abortProgress
  dsimp only
  split <;> rfl

/-! ### Requests -/

@[simp] theorem storeNestConfig_pending (n : Nest) (c : NestConfig) : (storeNestConfig n c s).pending = s.pending := by
  unfold storeNestConfig
  dsimp only
  split
  · simp
  · split <;> simp

theorem writeRow_pending {s t : State} {x : Table} {img : List Byte} (h : writeRow x img s = .written t) :
    t.pending = s.pending := by
  cases x with
  | group =>
    change writeGroupRow img s = _ at h
    unfold writeGroupRow at h
    split at h <;> cases h
    rfl
  | profile =>
    change writeProfileRow img s = _ at h
    unfold writeProfileRow at h
    split at h
    · dsimp only at h
      split at h
      · cases h
      · split at h
        · cases h
          rfl
        · split at h
          · cases h
          · split at h <;> cases h
            rfl
    · cases h
  | codeSet =>
    change writeCodeSetRow img s = _ at h
    unfold writeCodeSetRow at h
    split at h
    · split at h <;> cases h
      rfl
    · cases h
  | nestConfig =>
    change writeNestConfigRow img s = _ at h
    unfold writeNestConfigRow at h
    dsimp only at h
    split at h
    · split at h <;> cases h
      exact storeNestConfig_pending s _ _
    · cases h
  | allowList =>
    change writeAllowRow img s = _ at h
    unfold writeAllowRow at h
    dsimp only at h
    split at h
    · split at h <;> cases h
      rfl
    · cases h
  | settings =>
    change writeSettingsRow img s = _ at h
    unfold writeSettingsRow at h
    dsimp only at h
    split at h <;> cases h
    rfl

theorem writeRows_pending (x : Table) (r : Req) (imgs : List (List Byte)) (done : Nat) (s : State) :
    (writeRows x r done imgs s).pending = s.pending := by
  induction imgs generalizing done s with
  | nil => rfl
  | cons img rest ih =>
    unfold writeRows
    split
    · next h => rw [ih, writeRow_pending h]
    · rfl

theorem putRowsOf_pending (x : Table) (r : Req) (args : List Byte) (s : State) :
    (putRowsOf x r args s).pending = s.pending := by
  unfold putRowsOf
  dsimp only
  split
  · rfl
  · exact writeRows_pending ..

theorem getRowsOf_pending (x : Table) (r : Req) (args : List Byte) (s : State) :
    (getRowsOf x r args s).pending = s.pending := by
  unfold getRowsOf
  dsimp only
  split
  · rfl
  · split <;> rfl

theorem withTable_pending {act : Table → Req → List Byte → State → State}
    (h : ∀ x r args t, (act x r args t).pending = t.pending) (r : Req) (args : List Byte) (s : State) :
    (withTable act r args s).pending = s.pending := by
  unfold withTable
  split
  · rfl
  · rfl
  · exact h ..

theorem withoutArgs_pending {act : Req → State → State} (h : ∀ r t, (act r t).pending = t.pending) (r : Req)
    (args : List Byte) (s : State) : (withoutArgs act r args s).pending = s.pending := by
  unfold withoutArgs
  split
  · exact h r s
  · rfl

theorem releaseSlot_pending (n : Nest) (r : Req) : (releaseSlot n r s).pending = s.pending := by
  unfold releaseSlot
  dsimp only
  split <;> rfl

@[simp] theorem drainStream_pending (st : StreamId) : (drainStream st s).pending = s.pending := by
  unfold drainStream
  split <;> rfl

@[simp] theorem markEntries_pending (st : StreamId) : (markEntries st s).pending = s.pending := rfl

@[simp] theorem answerAction_pending (r : Req) (n : Nest) (a : NestAction) (halted : Option (StreamId × Word16))
    (sent : Bool) (voided : Nat) : (answerAction r n a halted sent voided s).pending = s.pending := rfl

theorem actExclude_pending (r : Req) (n : Nest) : (actExclude r n s).pending = s.pending := by
  unfold actExclude
  dsimp only
  split <;> simp

theorem actRetrain_pending (r : Req) (n : Nest) : (actRetrain r n s).pending = s.pending := by
  unfold actRetrain
  dsimp only
  split <;> simp

/-! ### The uplink -/

theorem takeFrame_pending (frame : List Byte) : (takeFrame frame s).pending = s.pending := by
  unfold takeFrame
  split
  · rfl
  · rfl
  · split <;> rfl

theorem uplinkDown_pending : (uplinkDown s).pending = s.pending := by
  unfold uplinkDown
  dsimp only
  split <;> rfl

end Sys2Proof.Machine

end

section
/-! Every command answers a next state and leaves the queue; one without its event changes nothing: statement O2. -/

namespace Sys2Proof.Machine

variable {s t : State} {n : Nest}

/-! ### The queue of commands -/

/-- The answer is a next state with the queue of commands of `s`. -/
def KeepsQueue (s : State) (o : Host.Outcome State Fault Refusal) : Prop := ∃ t, o = .next t ∧ t.pending = s.pending

namespace KeepsQueue

theorem next (h : t.pending = s.pending) : KeepsQueue s (.next t) := ⟨t, rfl, h⟩

theorem takesPlace {b : Bool} (h : t.pending = s.pending) : KeepsQueue s (takesPlace b s t) :=
  next (by split <;> [exact h; rfl])

theorem runRequest {p : List Byte → Bool} {act : Req → List Byte → State → State}
    (h : ∀ r args t, (act r args t).pending = t.pending) : KeepsQueue s (runRequest p act s) := by
  unfold Machine.runRequest
  split
  · next f _ => exact next (h (reqOf f) _ (passMessage f s))
  · exact next rfl

theorem nestAction {a : NestAction} {act : Req → Nest → State → State}
    (h : ∀ r n t, (act r n t).pending = t.pending) : KeepsQueue s (nestAction a act s) :=
  runRequest fun r args t => by
    split
    · exact h ..
    · rfl

theorem putRows (x : Table) (s : State) : KeepsQueue s (putRows x s) :=
  runRequest fun r args t => withTable_pending putRowsOf_pending r args t

end KeepsQueue

theorem exec_keepsQueue (c : Instr) (s : State) : KeepsQueue s (exec c s) := by
  cases c with
  | powerOn strap => exact .next rfl
  | resetPin strap => exact .next rfl
  | loadingEnd flash => exact .takesPlace (endLoading_pending s _)
  | frameReceived frame => exact .takesPlace (takeFrame_pending s frame)
  | requestWaiting => exact .takesPlace rfl
  | step =>
    show KeepsQueue s (execStep s)
    unfold execStep
    split
    · next f _ => exact .next (takeStep_pending (passMessage f s) f)
    · exact .next rfl
  | requestUnknownCode =>
    show KeepsQueue s (execRequestUnknownCode s)
    unfold execRequestUnknownCode
    exact .runRequest fun _ _ _ => rfl
  | describe =>
    show KeepsQueue s (execDescribe s)
    unfold execDescribe
    exact .runRequest (withoutArgs_pending fun _ _ => rfl)
  | putRowsGroup => exact .putRows .group s
  | putRowsProfile => exact .putRows .profile s
  | putRowsCodeSet => exact .putRows .codeSet s
  | putRowsNestConfig => exact .putRows .nestConfig s
  | putRowsAllowList => exact .putRows .allowList s
  | putRowsSettings => exact .putRows .settings s
  | getRows => exact .runRequest fun r args t => withTable_pending getRowsOf_pending r args t
  | getCounters =>
    show KeepsQueue s (execGetCounters s)
    unfold execGetCounters
    exact .runRequest fun _ _ _ => by split <;> rfl
  | getCountersClear =>
    show KeepsQueue s (execGetCountersClear s)
    unfold execGetCountersClear
    exact .runRequest fun _ _ _ => by split <;> rfl
  | getState =>
    show KeepsQueue s (execGetState s)
    unfold execGetState
    exact .runRequest (withoutArgs_pending fun _ _ => rfl)
  | openLot =>
    show KeepsQueue s (execOpenLot s)
    unfold execOpenLot
    refine .runRequest fun _ _ _ => ?_
    split
    · rfl
    · split
      · rfl
      · split <;> rfl
  | closeLot =>
    refine .runRequest fun r args t => withoutArgs_pending (fun r t => ?_) r args t
    split
    · rfl
    · split <;> rfl
  | abortStream =>
    show KeepsQueue s (execAbortStream s)
    unfold execAbortStream
    exact .runRequest fun _ _ _ => by split <;> simp
  | streamHaltAndVoid n =>
    show KeepsQueue s (execStreamHaltAndVoid n s)
    unfold execStreamHaltAndVoid
    split
    · exact .takesPlace (by simp)
    all_goals exact .next rfl
  | nestActionHalt => exact .nestAction fun _ _ _ => by simp [actHalt]
  | nestActionCycle => exact .nestAction fun _ _ _ => by simp [actCycle]
  | nestActionExclude => exact .nestAction fun r n t => actExclude_pending t r n
  | nestActionInclude => exact .nestAction fun _ _ _ => rfl
  | nestActionRetrain => exact .nestAction fun r n t => actRetrain_pending t r n
  | releaseAttention =>
    show KeepsQueue s (execReleaseAttention s)
    unfold execReleaseAttention
    refine .runRequest fun r _ t => ?_
    split
    · exact releaseSlot_pending t _ r
    · rfl
  | restart =>
    show KeepsQueue s (execRestart s)
    unfold execRestart
    exact .runRequest (withoutArgs_pending fun _ _ => rfl)
  | restartEvent => exact .takesPlace (trainAll_pending (restartState s))
  | uplinkTransmitStart => exact .takesPlace rfl
  | uplinkFrameSent =>
    show KeepsQueue s (execUplinkFrameSent s)
    unfold execUplinkFrameSent
    split
    · exact .takesPlace rfl
    · exact .next rfl
  | uplinkLinkChange up =>
    refine .next ?_
    split
    · split
      · rfl
      · exact uplinkDown_pending _
    · rfl
  | laneSignalPresent n => exact .next (by split <;> simp)
  | laneSignalLost n => exact .next (by split <;> simp)
  | greetRepeat n => exact .takesPlace rfl
  | frameLeavesLane n => exact .takesPlace (by split <;> rfl)
  | badFrame n bytes => exact .takesPlace (countBadFrame_pending s n)
  | welcome n id b => exact .takesPlace (by split <;> simp)
  | presence n b =>
    refine .takesPlace ?_
    split
    · split <;> simp
    · exact countBadFrame_pending s n
  | answer n tag status payload =>
    refine .takesPlace ?_
    split
    · exact countBadFrame_pending s n
    · split <;> simp
  | stopped n tag => exact .takesPlace (by split <;> simp)
  | note n code => exact .takesPlace (takeNote_pending s n code)
  | chat n payload =>
    refine .takesPlace ?_
    split
    · exact countBadFrame_pending s n
    · split <;> simp
  | startHead n =>
    show KeepsQueue s (execStartHead n s)
    unfold execStartHead
    split <;> exact .next rfl
  | deadlineExpiry n =>
    show KeepsQueue s (execDeadlineExpiry n s)
    unfold execDeadlineExpiry
    split
    · exact .next (expireDeadline_pending s n _ _)
    · exact .next rfl
  | gapExpiry n =>
    show KeepsQueue s (execGapExpiry n s)
    unfold execGapExpiry
    split <;> exact .next rfl
  | graceExpiry n => exact .takesPlace rfl
  | stopFailure n => exact .takesPlace (takeStopFailure_pending (dropEvent n s) n)
  | absence n => exact .takesPlace (by simp)
  | stall n => exact .takesPlace (by simp)
  | voidInstruction n =>
    show KeepsQueue s (execVoidInstruction n s)
    unfold execVoidInstruction
    split
    · exact .takesPlace (takeVoids_pending s n _ _)
    · exact .next rfl
  | outcomeDelivered n =>
    show KeepsQueue s (execOutcomeDelivered n s)
    unfold execOutcomeDelivered
    split
    · exact .takesPlace rfl
    · exact .next rfl
  | retirementStart =>
    show KeepsQueue s (execRetirementStart s)
    unfold execRetirementStart
    split <;> exact .next rfl
  | segmentPlaced =>
    show KeepsQueue s (execSegmentPlaced s)
    unfold execSegmentPlaced
    split
    · exact .takesPlace (placeSegment_pending s _)
    · exact .next rfl
  | noticeBuild => exact .takesPlace rfl
  | throttleExpiry => exact .takesPlace rfl
  | timeSinceStartTick => exact .takesPlace rfl
  | resetPinAssertion => exact .next rfl

/-! ### A row that takes a message with none at the Dispatcher (R177, R178, R187) -/

theorem headMessage_eq_none (h : ∀ f, ¬AtDispatcher s f) : headMessage s = none := by
  unfold headMessage
  split
  · next free =>
    obtain ⟨running, task, restart⟩ := free
    cases hd : s.uplink.rx.head? with
    | none => rfl
    | some f => exact absurd ⟨of_decide_eq_true running, task, restart, hd⟩ (h f)
  · rfl

section
variable (h : headMessage s = none)
include h

theorem runRequest_of_none (p : List Byte → Bool) (act : Req → List Byte → State → State) :
    runRequest p act s = .next s := by
  have none_taken : headRequest p s = none := by
    rw [headRequest, h, Option.filter_none, ite_self]
  rw [runRequest, none_taken]

theorem execStep_of_none : execStep s = .next s := by
  have none_taken : headStep s = none := by rw [headStep, h, Option.filter_none]
  rw [execStep, none_taken]

theorem execRequestWaiting_of_none : execRequestWaiting s = .next s :=
  takesPlace_false (by rw [mustWait, h, Option.any_none, Bool.and_false]) s _

theorem exec_messageRow_of_none {c : Instr} (hc : c ∈ messageRows) : exec c s = .next s := by
  simp only [messageRows, List.mem_cons, List.not_mem_nil, or_false] at hc
  rcases hc with rfl | rfl | hc
  · exact execStep_of_none h
  · exact execRequestWaiting_of_none h
  · rcases hc with rfl | rfl | rfl | rfl | rfl | rfl | rfl | rfl | rfl | rfl | rfl | rfl | rfl | rfl | rfl | rfl | rfl |
      rfl | rfl | rfl | rfl | rfl
    all_goals
      simp only [exec, execRequestUnknownCode, execDescribe, execPutRowsGroup, execPutRowsProfile, execPutRowsCodeSet,
        execPutRowsNestConfig, execPutRowsAllowList, execPutRowsSettings, execGetRows, execGetCounters,
        execGetCountersClear, execGetState, execOpenLot, execCloseLot, execAbortStream, execNestActionHalt,
        execNestActionCycle, execNestActionExclude, execNestActionInclude, execNestActionRetrain,
        execReleaseAttention, execRestart, putRows, nestAction, runRequest_of_none h]

end

/-! ### A timer that does not run, and a copy, an event or a report that is not there (R68, R133) -/

theorem isRunning_eq_false {x : Timer} (h : ∀ d, x ≠ .running d) : x.isRunning = false := by
  cases x with
  | running d => exact absurd rfl (h d)
  | stopped => rfl
  | armed => rfl

theorem deadlineDue_running {c : Copy} {tag : Word16} (h : deadlineDue n s = some (c, tag)) :
    s.running = true ∧ (s.port n).service = .waiting tag ∧ (s.port n).deadline.isRunning = true := by
  obtain ⟨rest, hq, hs⟩ := of_deadlineDue h
  unfold deadlineDue at h
  dsimp only at h
  rw [hs, hq] at h
  dsimp only at h
  split at h
  · next due => exact ⟨due.1, hs, due.2⟩
  · cases h

theorem gapDue_running {c : Copy} (h : gapDue n s = some c) :
    s.running = true ∧ (s.port n).service = .gap ∧ (s.port n).gap.isRunning = true := by
  unfold gapDue at h
  dsimp only at h
  split at h
  · split at h
    · assumption
    · cases h
  · cases h

theorem execDeadlineExpiry_of_not (h : ∀ tag, ¬(s.running = true ∧ (s.port n).service = .waiting tag ∧
    (s.port n).deadline.isRunning = true)) : exec (.deadlineExpiry n) s = .next s := by
  have none_due : deadlineDue n s = none :=
    Option.eq_none_iff_forall_ne_some.mpr fun ⟨_, tag⟩ due => h tag (deadlineDue_running due)
  show execDeadlineExpiry n s = _
  rw [execDeadlineExpiry, none_due]

theorem execGapExpiry_of_not (h : ¬(s.running = true ∧ (s.port n).service = .gap ∧
    (s.port n).gap.isRunning = true)) : exec (.gapExpiry n) s = .next s := by
  have none_due : gapDue n s = none := Option.eq_none_iff_forall_ne_some.mpr fun _ due => h (gapDue_running due)
  show execGapExpiry n s = _
  rw [execGapExpiry, none_due]

theorem execRetirementStart_of_not (h : ¬(s.phase = .running ∧ s.retire.candidate ≠ none ∧ s.retire.progress = none)) :
    exec .retirementStart s = .next s := by
  have none_ready : retirable s = none := Option.eq_none_iff_forall_ne_some.mpr fun e ready => by
    obtain ⟨running, candidate, progress, -⟩ := retirable_eq_some s ready
    exact h ⟨running, by simp [candidate], progress⟩
  show execRetirementStart s = _
  rw [execRetirementStart, none_ready]

theorem nextEvent_ne {x : StandingEvent} (h : (s.lotNest n).events.head? ≠ some x) : nextEvent n s ≠ some x := by
  unfold nextEvent
  split
  · exact h
  · nofun

theorem nextEvent_of_stopped (h : s.running = false) : nextEvent n s = none :=
  if_neg (by rw [h]; exact Bool.false_ne_true)

theorem execStopFailure_of_not (h : ∀ e, nextEvent n s ≠ some (.stopFailure e)) :
    exec (.stopFailure n) s = .next s := by
  refine takesPlace_false ?_ s _
  cases hx : nextEvent n s with
  | none => rfl
  | some x =>
    cases x with
    | stopFailure e => exact absurd hx (h e)
    | absence => rfl
    | stall => rfl

theorem execAbsence_of_not (h : nextEvent n s ≠ some .absence) : exec (.absence n) s = .next s :=
  takesPlace_false (decide_eq_false h) s _

theorem execStall_of_not (h : nextEvent n s ≠ some .stall) : exec (.stall n) s = .next s :=
  takesPlace_false (decide_eq_false h) s _

/-! ### While the part does not run (R189) -/

theorem startable_of_stopped (h : s.running = false) : startable n s = none := by
  unfold startable
  dsimp only
  split
  · exact if_neg fun ⟨running, _⟩ => by rw [h] at running; cases running
  · rfl

/-- A command takes place only while the part runs, but for the resets, LOADING_END, the tick and the levels at the
pins. -/
theorem exec_of_stopped (c : Instr) (h : s.phase ≠ .running)
    (hreset : ∀ strap, c ≠ .powerOn strap ∧ c ≠ .resetPin strap) (hload : ∀ flash, c ≠ .loadingEnd flash)
    (hassert : c ≠ .resetPinAssertion) (htick : c ≠ .timeSinceStartTick)
    (hsignal : ∀ n, c ≠ .laneSignalPresent n ∧ c ≠ .laneSignalLost n) (hlevel : ∀ up, c ≠ .uplinkLinkChange up) :
    exec c s = .next s := by
  have stopped : s.running = false := decide_eq_false h
  have not_running : ¬s.running = true := by rw [stopped]; exact Bool.false_ne_true
  have needs_run : ∀ (b : Bool) (t : State), takesPlace (s.running && b) s t = .next s := fun b t =>
    takesPlace_false (by rw [stopped, Bool.false_and]) s t
  have no_event : ∀ n, nextEvent n s = none := fun n => nextEvent_of_stopped stopped
  by_cases hrow : c ∈ messageRows
  · exact exec_messageRow_of_none (headMessage_eq_none fun f hat => h hat.1) hrow
  cases c with
  | powerOn strap => exact absurd rfl (hreset strap).1
  | resetPin strap => exact absurd rfl (hreset strap).2
  | loadingEnd flash => exact absurd rfl (hload flash)
  | resetPinAssertion => exact absurd rfl hassert
  | timeSinceStartTick => exact absurd rfl htick
  | laneSignalPresent n => exact absurd rfl (hsignal n).1
  | laneSignalLost n => exact absurd rfl (hsignal n).2
  | uplinkLinkChange up => exact absurd rfl (hlevel up)
  | step | requestWaiting | requestUnknownCode | describe | putRowsGroup | putRowsProfile | putRowsCodeSet
  | putRowsNestConfig | putRowsAllowList | putRowsSettings | getRows | getCounters | getCountersClear | getState
  | openLot | closeLot | abortStream | nestActionHalt | nestActionCycle | nestActionExclude | nestActionInclude
  | nestActionRetrain | releaseAttention | restart => exact absurd (by simp [messageRows]) hrow
  | frameReceived | restartEvent | badFrame | stopped | note | throttleExpiry => exact needs_run _ _
  | frameLeavesLane | welcome | presence | answer | chat => exact takesPlace_false stopped s _
  | uplinkTransmitStart | noticeBuild | greetRepeat | graceExpiry =>
    exact takesPlace_false (by simp [noticeReady, greetDue, graceDue, stopped]) s _
  | startHead n => exact execStartHead_of_none (startable_of_stopped stopped)
  | deadlineExpiry n => exact execDeadlineExpiry_of_not fun tag due => not_running due.1
  | gapExpiry n => exact execGapExpiry_of_not fun due => not_running due.1
  | stopFailure n => exact execStopFailure_of_not fun e => by rw [no_event]; nofun
  | absence n => exact execAbsence_of_not (by rw [no_event]; nofun)
  | stall n => exact execStall_of_not (by rw [no_event]; nofun)
  | retirementStart => exact execRetirementStart_of_not fun ready => h ready.1
  | streamHaltAndVoid n =>
    show execStreamHaltAndVoid n s = _
    unfold execStreamHaltAndVoid
    split
    · exact needs_run _ _
    all_goals rfl
  | uplinkFrameSent =>
    show execUplinkFrameSent s = _
    unfold execUplinkFrameSent
    split
    · exact takesPlace_false stopped s _
    · rfl
  | voidInstruction n =>
    show execVoidInstruction n s = _
    unfold execVoidInstruction
    split
    · exact takesPlace_false stopped s _
    · rfl
  | outcomeDelivered n =>
    show execOutcomeDelivered n s = _
    unfold execOutcomeDelivered
    split
    · exact takesPlace_false stopped s _
    · rfl
  | segmentPlaced =>
    show execSegmentPlaced s = _
    unfold execSegmentPlaced
    split
    · exact takesPlace_false stopped s _
    · rfl

/-! ### A nest, a queue or a timer that has nothing to give -/

theorem execGreetRepeat_of_not (h : (s.port n).link ≠ .training ∨ ∀ d, (s.port n).greet ≠ .running d) :
    exec (.greetRepeat n) s = .next s := by
  refine takesPlace_false ?_ s _
  rw [greetDue]
  rcases h with link | timer
  · rw [decide_eq_false link, Bool.and_false, Bool.false_and]
  · rw [isRunning_eq_false timer, Bool.and_false]

theorem execGraceExpiry_of_not (h : (∀ tag, (s.port n).service ≠ .halting tag) ∨ ∀ d, (s.port n).grace ≠ .running d) :
    exec (.graceExpiry n) s = .next s := by
  refine takesPlace_false ?_ s _
  rcases h with service | timer
  · refine Bool.eq_false_iff.mpr fun due => ?_
    obtain ⟨tag, halting⟩ := of_graceDue due
    exact service tag halting
  · rw [graceDue, isRunning_eq_false timer, Bool.and_false, Bool.false_and]

theorem takesPlace_self (b : Bool) (s : State) : takesPlace b s s = .next s := by
  rw [takesPlace, ite_self]

theorem execStreamHaltAndVoid_of_not (h : ∀ r st marked halted voided left,
    s.dispatcher.task = some (.abort r st marked halted voided left) → NestSet.has left n = false) :
    exec (.streamHaltAndVoid n) s = .next s := by
  show execStreamHaltAndVoid n s = _
  unfold execStreamHaltAndVoid
  split
  · next task => exact takesPlace_false (by rw [h _ _ _ _ _ _ task, Bool.and_false]) s _
  all_goals rfl

/-- Settles O2: the queue is kept command by command, and each event that cannot take place leaves the state. -/
theorem everyCommandKeepsQueue : Obligations.EveryCommandKeepsQueue := by
  refine ⟨exec_keepsQueue, fun c s h => exec_of_stopped c h,
    fun flash s h => takesPlace_false (decide_eq_false h) s _,
    fun s h c hc => exec_messageRow_of_none (headMessage_eq_none h) hc, fun s n => ?_, fun s => ?_⟩
  · refine ⟨execGreetRepeat_of_not, fun h => execDeadlineExpiry_of_not fun tag ⟨_, service, timer⟩ => ?_,
      fun h => execGapExpiry_of_not fun ⟨_, service, timer⟩ => ?_, execGraceExpiry_of_not, fun h => ?_,
      fun bytes h => takesPlace_false (by rw [h, Bool.and_false]) s _,
      fun h => execStopFailure_of_not fun e => nextEvent_ne (h e), fun h => execAbsence_of_not (nextEvent_ne h),
      fun h => execStall_of_not (nextEvent_ne h), fun h => ?_, fun h => ?_, execStreamHaltAndVoid_of_not⟩
    · rcases h with other | idle
      · exact other tag service
      · rw [isRunning_eq_false idle] at timer
        cases timer
    · rcases h with other | idle
      · exact other service
      · rw [isRunning_eq_false idle] at timer
        cases timer
    · show execFrameLeavesLane n s = _
      rw [execFrameLeavesLane, h]
      exact takesPlace_self _ s
    · show execVoidInstruction n s = _
      rw [execVoidInstruction, h]
    · show execOutcomeDelivered n s = _
      rw [execOutcomeDelivered, h]
  · refine ⟨fun h => takesPlace_false (by rw [decide_eq_false h, Bool.and_false]) s _, fun h => ?_,
      fun h => execRetirementStart_of_not fun ⟨_, candidate, progress⟩ => h.elim candidate fun busy => busy progress,
      fun h => ?_, fun h => takesPlace_false (by rw [isRunning_eq_false h, Bool.and_false]) s _⟩
    · show execUplinkFrameSent s = _
      rw [execUplinkFrameSent, h]
    · show execSegmentPlaced s = _
      rw [execSegmentPlaced, h]

end Sys2Proof.Machine

end

section
/-! The two roundings of judgement (R94, R99): statement O49. -/

namespace Sys2Proof.Machine

/-- A floor of `(p + half) / k`, twice over: `q` is within half of `p / k`, halves up. -/
theorem floor_half_up {p k h : Int} (hk : 0 < k) (hh : 2 * h = k) :
    k * (2 * ((p + h) / k) - 1) ≤ 2 * p ∧ 2 * p < k * (2 * ((p + h) / k) + 1) := by
  have low : k * ((p + h) / k) ≤ p + h := Int.mul_ediv_self_le hk.ne'
  have high : p + h < k * ((p + h) / k) + k := Int.lt_mul_ediv_self_add hk
  constructor <;> linarith

/-- The scaled value before the bias (R94): the product over 2^shift, to the nearest whole number, halves up. -/
theorem scaleExact_nearest (m : MeasureSlot) (x : Int) : ∃ q : Int, scaleExact m x = q + m.bias.toInt ∧
    2 ^ m.shift.toNat * (2 * q - 1) ≤ 2 * (x * m.gain.toInt) ∧
    2 * (x * m.gain.toInt) < 2 ^ m.shift.toNat * (2 * q + 1) := by
  refine ⟨_, rfl, ?_⟩
  cases m.shift.toNat with
  | zero => simp only [if_true, pow_zero]; omega
  | succ k =>
    rw [if_neg k.succ_ne_zero, Nat.add_sub_cancel]
    exact floor_half_up (by positivity) (pow_succ' 2 k).symm

/-- The average of a sum that is not negative (R99), as a floor. -/
theorem roundedAverage_of_nonneg {sum : Int} (h : 0 ≤ sum) (n : Nat) :
    roundedAverage sum n = (2 * sum + n) / (2 * n) := if_pos h

/-- The average of a negative sum mirrors that of its opposite (R99). -/
theorem roundedAverage_of_neg {sum : Int} (h : sum < 0) (n : Nat) :
    roundedAverage sum n = -roundedAverage (-sum) n := by
  rw [roundedAverage_of_nonneg (sum := -sum) (by omega)]
  exact if_neg (Int.not_le.mpr h)

theorem roundedAverage_nearest {sum : Int} (h : 0 ≤ sum) {n : Nat} (hn : 0 < n) :
    n * (2 * roundedAverage sum n - 1) ≤ 2 * sum ∧ 2 * sum < n * (2 * roundedAverage sum n + 1) := by
  have nearest := floor_half_up (p := 2 * sum) (k := 2 * n) (h := n) (by omega) rfl
  rw [← roundedAverage_of_nonneg h] at nearest
  constructor <;> linarith

/-- The average of a sum that is not negative lies between whole bounds of the values averaged. -/
theorem roundedAverage_between_of_nonneg {sum : Int} (h : 0 ≤ sum) {n : Nat} (hn : 0 < n) {a b : Int}
    (ha : n * a ≤ sum) (hb : sum ≤ n * b) : a ≤ roundedAverage sum n ∧ roundedAverage sum n ≤ b := by
  have pos : (0 : Int) < 2 * n := by omega
  rw [roundedAverage_of_nonneg h]
  refine ⟨(Int.le_ediv_iff_mul_le pos).mpr (by linarith), Int.lt_add_one_iff.mp ?_⟩
  exact (Int.ediv_lt_iff_lt_mul pos).mpr (by linarith)

theorem roundedAverage_between {sum : Int} {n : Nat} (hn : 0 < n) {a b : Int} (ha : n * a ≤ sum) (hb : sum ≤ n * b) :
    a ≤ roundedAverage sum n ∧ roundedAverage sum n ≤ b := by
  rcases le_or_gt 0 sum with h | h
  · exact roundedAverage_between_of_nonneg h hn ha hb
  · have mirrored := roundedAverage_between_of_nonneg (sum := -sum) (by omega) hn (a := -b) (b := -a)
      (by linarith) (by linarith)
    rw [roundedAverage_of_neg h]
    omega

/-- Settles O49: both roundings are floors of the value and a half; the average of a negative sum is mirrored. -/
theorem roundingOfScaleAndAverage : Obligations.RoundingOfScaleAndAverage :=
  ⟨scaleExact_nearest, fun _ _ hn =>
    ⟨fun h => roundedAverage_nearest h hn, fun h => roundedAverage_of_neg h _,
      fun _ _ ha hb => roundedAverage_between hn ha hb⟩⟩

end Sys2Proof.Machine

end

section
/-! What a run, and the final run, leave in a slot record (R92 to R103): statement O50. -/

namespace Sys2Proof.Machine

variable {m : MeasureSlot} {payload : List Byte} {r : SlotRecord}

/-! ### The field of a run (R93, R95) -/

theorem leAt_lt (msg : List Byte) (i k : Nat) : leAt msg i k < 2 ^ (8 * k) := by
  have h := leNat_lt ((List.range k).map (fun j => byteAt msg (i + j)))
  rw [List.length_map, List.length_range] at h
  rw [pow_mul]
  exact h

/-- The number a field of `w` bytes stands for, signed or not, is the one that it is congruent to in its range (R93). -/
theorem signedField_spec {w u : Nat} (hw : 1 ≤ w) (hu : u < 2 ^ (8 * w)) :
    signedField w u % 2 ^ (8 * w) = u ∧ -2 ^ (8 * w - 1) ≤ signedField w u ∧ signedField w u < 2 ^ (8 * w - 1) := by
  have double : (2 : Int) ^ (8 * w) = 2 * 2 ^ (8 * w - 1) := by
    rw [← pow_succ', Nat.sub_add_cancel (by omega)]
  have bound : (u : Int) < 2 ^ (8 * w) := by exact_mod_cast hu
  have residue : (u : Int) % 2 ^ (8 * w) = u := Int.emod_eq_of_lt (Int.natCast_nonneg u) bound
  unfold signedField
  split
  · next small =>
    have small : (u : Int) < 2 ^ (8 * w - 1) := by exact_mod_cast small
    exact ⟨residue, by omega, small⟩
  · next large =>
    have large : (2 : Int) ^ (8 * w - 1) ≤ u := by exact_mod_cast Nat.not_lt.mp large
    exact ⟨by rw [Int.sub_emod_right, residue], by omega, by omega⟩

theorem extractRaw_missing (h : payload.length < m.position.toNat + m.width.toNat) : extractRaw m payload = none :=
  if_pos h

theorem extractRaw_present (hw : 1 ≤ m.width.toNat) (h : m.position.toNat + m.width.toNat ≤ payload.length) :
    ∃ x, extractRaw m payload = some x ∧ RawValue m payload x := by
  have bound := leAt_lt payload m.position.toNat m.width.toNat
  refine ⟨_, if_neg (Nat.not_lt.mpr h), ?_⟩
  unfold RawValue
  cases m.signed with
  | true => exact signedField_spec hw bound
  | false =>
    have bound : (leAt payload m.position.toNat m.width.toNat : Int) < 2 ^ (8 * m.width.toNat) := by exact_mod_cast bound
    exact ⟨Int.emod_eq_of_lt (Int.natCast_nonneg _) bound, Int.natCast_nonneg _, bound⟩

theorem clampValue_eq (y : Int) : clampValue y = max (-2147483648) (min 2147483647 y) := by
  unfold clampValue valueMin valueMax
  split_ifs <;> omega

/-! ### One run (R92, R97, R100, R102, R103) -/

theorem judgeRun_off (h : m.mode = .off) (sets : Vector (BitVec 512) 64) : judgeRun m sets payload r = r := by
  rw [judgeRun, h]

/-- In EACH to SPAN a run is judged by its field alone: the value clamped, and whether the clamp changed it. -/
theorem judgeRun_measured (hoff : m.mode ≠ .off) (hcode : m.mode ≠ .code) (sets : Vector (BitVec 512) 64) :
    judgeRun m sets payload r =
      let exact := (extractRaw m payload).map (scaleExact m)
      let y := exact.map clampValue
      let r1 := { r with sat := r.sat || (exact ≠ y) }
      if m.mode = .each then
        { r1 with held := y.elim (holdWorse r.held .missing 0) (fun v => holdWorse r.held (bandTest m v) v) }
      else accumulate r1 y := by
  unfold judgeRun
  cases hm : m.mode with
  | off => exact absurd hm hoff
  | code => exact absurd hm hcode
  | _ => cases extractRaw m payload <;> rfl

theorem judgeRun_missing (hoff : m.mode ≠ .off) (hcode : m.mode ≠ .code) (sets : Vector (BitVec 512) 64)
    (h : payload.length < m.position.toNat + m.width.toNat) : judgeRun m sets payload r =
      if m.mode = .each then { r with held := holdWorse r.held .missing 0 } else accumulate r none := by
  rw [judgeRun_measured hoff hcode, extractRaw_missing h]
  simp

theorem judgeRun_present (hoff : m.mode ≠ .off) (hcode : m.mode ≠ .code) (sets : Vector (BitVec 512) 64)
    (hw : 1 ≤ m.width.toNat) (h : m.position.toNat + m.width.toNat ≤ payload.length) :
    ∃ x y : Int, RawValue m payload x ∧ y = max (-2147483648) (min 2147483647 (scaleExact m x)) ∧
      judgeRun m sets payload r =
        let r1 := { r with sat := r.sat || decide (y ≠ scaleExact m x) }
        if m.mode = .each then { r1 with held := holdWorse r.held (bandTest m y) y } else accumulate r1 (some y) := by
  obtain ⟨x, raw, value⟩ := extractRaw_present hw h
  refine ⟨x, clampValue (scaleExact m x), value, clampValue_eq _, ?_⟩
  rw [judgeRun_measured hoff hcode, raw]
  simp [eq_comm]

theorem judgeRun_code (h : m.mode = .code) (sets : Vector (BitVec 512) 64) :
    judgeRun m sets payload r = codeRun m sets payload r := by
  rw [judgeRun, h]

/-- The twelve bits of a code that its window chooses (R102). -/
theorem windowIndex_of_window {u index : Nat} {window : Byte}
    (h : [u % 4096, u / 4 % 4096, u / 8 % 4096, u / 16][window.toNat]? = some index) : windowIndex window u = index := by
  unfold windowIndex
  generalize window.toNat = k at h
  match k with
  | 0 | 1 | 2 | 3 => exact Option.some.inj h
  | k + 4 => cases h

/-- A chunk row of the Code Set Table holds the bit of its index (R88). -/
theorem codeAccepted_eq {sets : Vector (BitVec 512) 64} {c index : Nat} {chunk : Fin 64}
    (h : chunk.val = 8 * c + index / 512) : codeAccepted sets c index = sets[chunk.val].getLsbD (index % 512) := by
  rw [codeAccepted, ← h, toList_getD]

/-- A code that the answer holds, by the bit of its set (R102, R103). -/
theorem codeRun_present {sets : Vector (BitVec 512) 64} {u index : Nat} {chunk : Fin 64}
    (h : m.position.toNat + 2 ≤ payload.length) (hu : u = leAt payload m.position.toNat 2)
    (hi : [u % 4096, u / 4 % 4096, u / 8 % 4096, u / 16][m.window.toNat]? = some index)
    (hc : chunk.val = 8 * m.codeSet.toNat + index / 512) : codeRun m sets payload r =
      if sets[chunk.val].getLsbD (index % 512) then { r with lastCode := some (BitVec.ofNat 16 u) }
      else { r with
        lastCode := some (BitVec.ofNat 16 u)
        codeState := if r.codeState = .pass then .codeBad else r.codeState
        firstBad := if r.firstBad = none then some (BitVec.ofNat 16 u) else r.firstBad } := by
  unfold codeRun
  rw [if_neg (Nat.not_lt.mpr h), ← hu]
  dsimp only
  rw [windowIndex_of_window hi, codeAccepted_eq hc]
  cases r.firstBad <;> rfl

/-! ### The band test (R100) -/

theorem bandTest_spec (m : MeasureSlot) (v : Int) :
    (bandTest m v = .low ↔ v < m.low.toInt) ∧
    (bandTest m v = .high ↔ m.low.toInt ≤ v ∧ m.high.toInt < v) ∧
    (bandTest m v = .marginal ↔ m.low.toInt ≤ v ∧ v ≤ m.high.toInt ∧
      (v < m.low.toInt + m.guard.toNat ∨ m.high.toInt - m.guard.toNat < v)) ∧
    (bandTest m v = .pass ↔ m.low.toInt + m.guard.toNat ≤ v ∧ v ≤ m.high.toInt - m.guard.toNat) := by
  unfold bandTest
  split_ifs <;> simp only [false_iff, true_iff] <;> omega

/-! ### The final run (R98, R101, R103) -/

theorem comparedValue_missing (h : m.mode = .last ∧ r.last = none ∨ m.mode = .avg ∧ r.n = 0 ∨
    m.mode = .min ∧ r.min = none ∨ m.mode = .max ∧ r.max = none ∨ m.mode = .span ∧ r.min = none) :
    comparedValue m r = none := by
  unfold comparedValue
  rcases h with ⟨hm, hr⟩ | ⟨hm, hr⟩ | ⟨hm, hr⟩ | ⟨hm, hr⟩ | ⟨hm, hr⟩ <;> simp [hm, hr]

theorem comparedValue_whole {v : Int} (h : m.mode = .last ∧ r.last = some v ∨
    m.mode = .avg ∧ r.n ≠ 0 ∧ v = roundedAverage r.sum r.n ∨
    m.mode = .min ∧ r.min = some v ∨ m.mode = .max ∧ r.max = some v) : comparedValue m r = some v := by
  unfold comparedValue
  rcases h with ⟨hm, hr⟩ | ⟨hm, hn, rfl⟩ | ⟨hm, hr⟩ | ⟨hm, hr⟩
  · simp [hm, hr]
  · simp [hm, hn]
  · simp [hm, hr]
  · simp [hm, hr]

theorem comparedValue_span {a b : Int} (hm : m.mode = .span) (ha : r.min = some a) (hb : r.max = some b) :
    comparedValue m r = some (b - a) := by
  simp [comparedValue, hm, ha, hb]

theorem judgeFinal_of_none (hm : m.mode ∈ [Mode.last, .avg, .min, .max, .span]) (h : comparedValue m r = none) :
    judgeFinal m r = { r with verdict := .missing, value := 0 } := by
  unfold judgeFinal
  cases hmode : m.mode with
  | off | each | code => rw [hmode] at hm; simp at hm
  | last | avg | min | max | span => dsimp only; rw [h]

/-- A compared value is clamped from above, which only a span needs, and judged by the band (R98, R100). -/
theorem judgeFinal_of_some {exact : Int} (h : comparedValue m r = some exact) : judgeFinal m r =
    { r with verdict := bandTest m (min exact 2147483647), value := min exact 2147483647,
             sat := r.sat || decide (2147483647 < exact) } := by
  have clamped : (if exact > valueMax then valueMax else exact) = min exact 2147483647 := by
    unfold valueMax
    split_ifs <;> omega
  have changed : decide (min exact 2147483647 ≠ exact) = decide (2147483647 < exact) :=
    decide_eq_decide.mpr (by omega)
  unfold judgeFinal
  cases hmode : m.mode with
  | off | each | code => rw [comparedValue, hmode] at h; cases h
  | last | avg | min | max | span =>
    dsimp only
    rw [h]
    dsimp only
    rw [clamped, changed]

/-! ### The runs of a copy, gathered (R96) -/

/-- What the accumulator of a slot holds after `runs`: the valid runs' count, sum and extremes, and the latest run. -/
structure Gathered (runs : List (Option Int)) (r : SlotRecord) : Prop where
  n : r.n = (runs.filterMap id).length
  sum : r.sum = (runs.filterMap id).sum
  min_none : r.min = none ↔ runs.filterMap id = []
  max_none : r.max = none ↔ runs.filterMap id = []
  min : ∀ a, r.min = some a → a ∈ runs.filterMap id ∧ ∀ y ∈ runs.filterMap id, a ≤ y
  max : ∀ a, r.max = some a → a ∈ runs.filterMap id ∧ ∀ y ∈ runs.filterMap id, y ≤ a
  last : r.last = runs.getLast?.join

theorem gathered_nil : Gathered [] SlotRecord.cleared where
  n := rfl
  sum := rfl
  min_none := by simp [SlotRecord.cleared]
  max_none := by simp [SlotRecord.cleared]
  min := nofun
  max := nofun
  last := rfl

theorem filterMap_id_snoc {α : Type} (runs : List (Option α)) (y : Option α) :
    (runs ++ [y]).filterMap id = runs.filterMap id ++ y.toList := by
  cases y <;> simp

/-- The least of the values so far and one more. -/
theorem least_snoc {l : List Int} {a : Option Int} (hnone : a = none ↔ l = [])
    (h : ∀ b, a = some b → b ∈ l ∧ ∀ y ∈ l, b ≤ y) (y : Int) :
    a.elim y (min y) ∈ l ++ [y] ∧ ∀ z ∈ l ++ [y], a.elim y (min y) ≤ z := by
  simp only [List.mem_append, List.mem_singleton]
  cases a with
  | none => simp [hnone.mp rfl]
  | some a =>
    obtain ⟨mem, least⟩ := h a rfl
    refine ⟨(min_choice y a).symm.imp (fun e => by rwa [Option.elim_some, e]) id, fun z hz => ?_⟩
    rcases hz with hz | rfl
    · exact (min_le_right y a).trans (least z hz)
    · exact min_le_left z a

/-- The greatest of the values so far and one more. -/
theorem greatest_snoc {l : List Int} {a : Option Int} (hnone : a = none ↔ l = [])
    (h : ∀ b, a = some b → b ∈ l ∧ ∀ y ∈ l, y ≤ b) (y : Int) :
    a.elim y (max y) ∈ l ++ [y] ∧ ∀ z ∈ l ++ [y], z ≤ a.elim y (max y) := by
  simp only [List.mem_append, List.mem_singleton]
  cases a with
  | none => simp [hnone.mp rfl]
  | some a =>
    obtain ⟨mem, greatest⟩ := h a rfl
    refine ⟨(max_choice y a).symm.imp (fun e => by rwa [Option.elim_some, e]) id, fun z hz => ?_⟩
    rcases hz with hz | rfl
    · exact (greatest z hz).trans (le_max_right y a)
    · exact le_max_left z a

theorem accumulate_some (r : SlotRecord) (y : Int) : accumulate r (some y) = { r with
    n := r.n + 1, sum := r.sum + y, min := some (r.min.elim y (min y)), max := some (r.max.elim y (max y)),
    last := some y } := by
  unfold accumulate
  cases r.min <;> cases r.max <;> simp only [Option.elim, min_def_lt, max_comm y, max_def_lt]

/-- One run more. -/
theorem Gathered.snoc {runs : List (Option Int)} (h : Gathered runs r) (y : Option Int) :
    Gathered (runs ++ [y]) (accumulate r y) := by
  have values := filterMap_id_snoc runs y
  cases y with
  | none =>
    rw [Option.toList_none, List.append_nil] at values
    exact { n := by rw [values]; exact h.n, sum := by rw [values]; exact h.sum
            min_none := by rw [values]; exact h.min_none, max_none := by rw [values]; exact h.max_none
            min := by rw [values]; exact h.min, max := by rw [values]; exact h.max
            last := by simp [accumulate] }
  | some y =>
    rw [Option.toList_some] at values
    rw [accumulate_some]
    exact { n := by simp [h.n], sum := by simp [h.sum], min_none := by simp, max_none := by simp
            min := fun a ha => by rw [values, ← Option.some.inj ha]; exact least_snoc h.min_none h.min y
            max := fun a ha => by rw [values, ← Option.some.inj ha]; exact greatest_snoc h.max_none h.max y
            last := by simp }

theorem gathered_foldl (runs : List (Option Int)) : Gathered runs (runs.foldl accumulate SlotRecord.cleared) := by
  induction runs using List.reverseRecOn with
  | nil => exact gathered_nil
  | append_singleton runs y ih => rw [List.foldl_append]; exact ih.snoc y

/-! ### The worst run of EACH (R97) -/

/-- `x` is the worst of `runs`, and of runs of its rank the earliest. -/
def WorstOf (runs : List (Verdict × Int)) (x : Verdict × Int) : Prop :=
  ∃ before after, runs = before ++ x :: after ∧ (∀ z ∈ before, rankOfVerdict z.1 < rankOfVerdict x.1) ∧
    ∀ z ∈ after, rankOfVerdict z.1 ≤ rankOfVerdict x.1

/-- What EACH holds after `runs` (R97). -/
def heldAfter (runs : List (Verdict × Int)) (held : Option (Verdict × Int)) : Option (Verdict × Int) :=
  runs.foldl (fun h x => holdWorse h x.1 x.2) held

theorem heldAfter_append_cons (before after : List (Verdict × Int)) (x : Verdict × Int) :
    heldAfter (before ++ x :: after) none = heldAfter after (holdWorse (heldAfter before none) x.1 x.2) :=
  List.foldl_append

/-- A run takes the place of a lower one, and leaves another (R97). -/
theorem holdWorse_some (x z : Verdict × Int) :
    holdWorse (some x) z.1 z.2 = some (if rankOfVerdict x.1 < rankOfVerdict z.1 then z else x) := by
  unfold holdWorse
  dsimp only
  split <;> rfl

/-- A run held stays, if no later one ranks higher. -/
theorem heldAfter_of_le {runs : List (Verdict × Int)} {x : Verdict × Int}
    (h : ∀ z ∈ runs, rankOfVerdict z.1 ≤ rankOfVerdict x.1) : heldAfter runs (some x) = some x := by
  induction runs with
  | nil => rfl
  | cons z runs ih =>
    obtain ⟨hz, hrest⟩ := List.forall_mem_cons.mp h
    rw [heldAfter, List.foldl_cons, holdWorse_some, if_neg (Nat.not_lt.mpr hz)]
    exact ih hrest

/-- What is held ranks below `x`, if every run does. -/
theorem heldAfter_lt {runs : List (Verdict × Int)} {x : Verdict × Int}
    (h : ∀ z ∈ runs, rankOfVerdict z.1 < rankOfVerdict x.1) :
    ∀ z ∈ heldAfter runs none, rankOfVerdict z.1 < rankOfVerdict x.1 := by
  induction runs using List.reverseRecOn with
  | nil => nofun
  | append_singleton runs y ih =>
    rw [List.forall_mem_append, List.forall_mem_singleton] at h
    obtain ⟨hruns, hy⟩ := h
    rw [heldAfter_append_cons]
    cases hw : heldAfter runs none with
    | none => rintro z ⟨⟩; exact hy
    | some w =>
      rw [holdWorse_some]
      rintro z ⟨⟩
      split
      · exact hy
      · exact ih hruns w hw

theorem heldAfter_of_worst {runs : List (Verdict × Int)} {x : Verdict × Int} (h : WorstOf runs x) :
    heldAfter runs none = some x := by
  obtain ⟨before, after, rfl, hbefore, hafter⟩ := h
  have taken : holdWorse (heldAfter before none) x.1 x.2 = some x := by
    cases hw : heldAfter before none with
    | none => rfl
    | some w => rw [holdWorse_some, if_pos (heldAfter_lt hbefore w hw)]
  rw [heldAfter_append_cons, taken]
  exact heldAfter_of_le hafter

/-- Among some runs there is a worst one. -/
theorem exists_worst {runs : List (Verdict × Int)} (h : runs ≠ []) : ∃ x, WorstOf runs x := by
  induction runs using List.reverseRecOn with
  | nil => exact absurd rfl h
  | append_singleton runs z ih =>
    by_cases hnil : runs = []
    · exact ⟨z, [], [], by rw [hnil, List.nil_append], nofun, nofun⟩
    obtain ⟨x, before, after, hruns, hbefore, hafter⟩ := ih hnil
    by_cases hz : rankOfVerdict x.1 < rankOfVerdict z.1
    · refine ⟨z, runs, [], rfl, fun w hw => ?_, nofun⟩
      rw [hruns, List.mem_append, List.mem_cons] at hw
      rcases hw with hw | rfl | hw
      · exact (hbefore w hw).trans hz
      · exact hz
      · exact (hafter w hw).trans_lt hz
    · refine ⟨x, before, after ++ [z], by rw [hruns]; simp, hbefore, fun w hw => ?_⟩
      rcases List.mem_append.mp hw with hw | hw
      · exact hafter w hw
      · rw [List.mem_singleton.mp hw]
        exact Nat.not_lt.mp hz

theorem heldAfter_eq_some_iff {runs : List (Verdict × Int)} (h : runs ≠ []) {x : Verdict × Int} :
    heldAfter runs none = some x ↔ WorstOf runs x := by
  refine ⟨fun hx => ?_, heldAfter_of_worst⟩
  obtain ⟨w, worst⟩ := exists_worst h
  have same : w = x := Option.some.inj ((heldAfter_of_worst worst).symm.trans hx)
  exact same ▸ worst

/-- Settles O50: a run by its mode, the band test, the final run by its mode, and what the runs gather. -/
theorem runsAreGathered : Obligations.RunsAreGathered := by
  refine ⟨fun m sets payload r => ⟨fun h => judgeRun_off h sets, fun hoff hcode hw =>
      ⟨judgeRun_missing hoff hcode sets, judgeRun_present hoff hcode sets hw⟩,
      fun hm => ⟨fun h => ?_, fun h u index chunk hu hi hc => ?_⟩⟩,
    bandTest_spec, fun m r => ⟨fun h => ?_, fun h v y held => ?_, fun h => ⟨fun hr => ?_, fun hr u hu => ?_,
      fun hr u hu => ?_⟩, fun h => ?_, fun v hv h => ?_, fun a b v hm ha hb hv => ?_⟩,
    fun runs r hr => ?_, rfl, fun runs v y hne => heldAfter_eq_some_iff hne⟩
  · rw [judgeRun_code hm, codeRun, if_pos h]
  · rw [judgeRun_code hm, codeRun_present h hu hi hc]
    exact ⟨fun bit => if_pos bit, fun bit => if_neg (by rw [bit]; exact Bool.false_ne_true)⟩
  · rw [judgeFinal, h]
  · rw [judgeFinal, h, held]
  · rw [judgeFinal, h, hr]
  · rw [judgeFinal, h, hr, hu]; rfl
  · rw [judgeFinal, h, hr, hu]; rfl
  · refine judgeFinal_of_none ?_ (comparedValue_missing h)
    rcases h with ⟨hm, -⟩ | ⟨hm, -⟩ | ⟨hm, -⟩ | ⟨hm, -⟩ | ⟨hm, -⟩ <;> rw [hm] <;> decide
  · rw [judgeFinal_of_some (comparedValue_whole h), min_eq_left hv, decide_eq_false (Int.not_lt.mpr hv), Bool.or_false]
  · rw [judgeFinal_of_some (comparedValue_span hm ha hb), hv]
  · rw [hr]
    obtain ⟨n, sum, minNone, maxNone, min, max, last⟩ := gathered_foldl runs
    exact ⟨n, sum, minNone, maxNone, min, max, last⟩

end Sys2Proof.Machine

end

section
/-! The start of a retirement (R107, R127, R133, R134, R138 to R140): statement O46. -/

namespace Sys2Proof.Machine

variable {s : State} {e : EntryId}

/-! ### When it starts (R133) -/

theorem segmentCount_pos (x : StepEntry) : 0 < segmentCount x := by
  rw [segmentCount]
  omega

/-- The REPORT queue has room for the segments of an entry exactly if it holds them besides its own (R131, R133). -/
theorem segmentCount_le_reportRoom (s : State) (e : EntryId) :
    segmentCount (s.entry e) ≤ reportRoom s ↔ s.uplink.report.length + segmentCount (s.entry e) ≤ 32 := by
  have pos := segmentCount_pos (s.entry e)
  have room : reportRoom s = 32 - s.uplink.report.length := rfl
  omega

/-- Every outcome and every stop failure of an entry's copies is taken (R133; log entry 24). -/
theorem outcomesTaken_iff (s : State) (e : EntryId) : outcomesTaken s e = true ↔
    ∀ n : Nest, (∀ o ∈ (s.lotNest n).outcomes, o.1 ≠ e) ∧ .stopFailure e ∉ (s.lotNest n).events := by
  rw [outcomesTaken, toList_eq_map, List.all_map, List.all_eq_true]
  simp only [List.mem_finRange, forall_true_left, Function.comp_apply, Bool.and_eq_true, List.all_eq_true,
    decide_eq_true_eq, List.forall_mem_ne']
  rfl

theorem execRetirementStart_none (hcand : s.retire.candidate = some e)
    (h : ¬(segmentCount (s.entry e) ≤ reportRoom s ∧ outcomesTaken s e = true)) :
    exec .retirementStart s = .next s := by
  have waits : retirable s = none := Option.eq_none_iff_forall_ne_some.mpr fun d ready => by
    obtain ⟨-, candidate, -, room⟩ := retirable_eq_some s ready
    rw [hcand] at candidate
    cases candidate
    exact h room
  show execRetirementStart s = _
  rw [execRetirementStart, waits]

theorem execRetirementStart_some (hrun : s.phase = .running) (hcand : s.retire.candidate = some e)
    (hprog : s.retire.progress = none) (hroom : segmentCount (s.entry e) ≤ reportRoom s)
    (htaken : outcomesTaken s e = true) : exec .retirementStart s = .next (startRetirement e s) := by
  have starts : retirable s = some e := by
    rw [retirable, hcand]
    exact if_pos ⟨running_of_phase hrun, hprog, hroom, htaken⟩
  show execRetirementStart s = _
  rw [execRetirementStart, starts]

/-! ### What it fixes (R107, R138, R139, R140) -/

/-- The state that the header and the records are read from: the entry is REPORTING already. -/
def reporting (e : EntryId) (s : State) : State := s.updEntry e (fun x => { x with state := .reporting })

theorem entry_reporting (e d : EntryId) (s : State) :
    (reporting e s).entry d = if d = e then { s.entry e with state := .reporting } else s.entry d :=
  entry_updEntry s e d _

theorem freeEntries_eq (s : State) :
    freeEntries s = (List.finRange 64).countP (fun d => (s.entry d).state = .free) := by
  rw [freeEntries, toList_eq_map, List.countP_map]
  rfl

/-- An entry that was not FREE counts no more as one when it is REPORTING (R10). -/
theorem freeEntries_reporting (h : (s.entry e).state ≠ .free) : freeEntries (reporting e s) = freeEntries s := by
  rw [freeEntries_eq, freeEntries_eq]
  refine List.countP_congr fun d _ => ?_
  rw [entry_reporting]
  split
  · next hd => simp [hd, h]
  · rfl

theorem nestRecord_eq (s : State) (e : EntryId) (n : Nest) : nestRecord s e n =
    { nest := n, outcome := (s.record e n).outcome, runs := (s.record e n).runs, variant := (s.record e n).variant,
      measures := (List.finRange 4).map (fun i =>
        { verdict := (s.record e n).slots[i.val].verdict, sat := (s.record e n).slots[i.val].sat,
          value := (s.record e n).slots[i.val].value }) } := by
  rw [nestRecord, toList_eq_map, List.map_map]
  rfl

theorem outcomeCounts_eq (s : State) (e : EntryId) : outcomeCounts s e =
    [CopyOutcome.pass, .marginal, .fail, .errored, .timeout, .absent, .halted, .voided, .skipped].map (fun o =>
      allNests.countP (fun n => NestSet.has (s.entry e).target n && (s.record e n).outcome = some o)) := by
  refine List.map_congr_left fun o _ => ?_
  rw [NestSet.toList, List.countP_filter]
  exact List.countP_congr fun n _ => by rw [Bool.and_comm]

theorem size_eq_countP (S : NestSet) : NestSet.size S = allNests.countP (fun n => NestSet.has S n) :=
  List.countP_eq_length_filter.symm

/-- What the start of a retirement holds (R134). -/
def startedRetirement (e : EntryId) (s : State) : Retirement :=
  { entry := e, next := 0, header := reportHeader (reporting e s) e, records := nestRecords (reporting e s) e }

theorem lru_startRetirement (e : EntryId) (s : State) (i : Fin 256) :
    ((startRetirement e s).variantSet i).lru = (s.variantSet i).lru := by
  unfold startRetirement State.variantSet invalidateWays
  simp

/-- Settles O46: the candidate retires with the room and its outcomes taken, and what it fixes is read as it stands. -/
theorem retirementStarts : Obligations.RetirementStarts := by
  intro s e hrun hcand hprog hstate
  have room := segmentCount_le_reportRoom s e
  have taken := outcomesTaken_iff s e
  refine ⟨fun full => ?_, fun ⟨n, left⟩ => ?_, fun hroom htaken => ?_⟩
  · exact execRetirementStart_none hcand fun ⟨fits, _⟩ => absurd (room.mp fits) (Nat.not_le.mpr full)
  · refine execRetirementStart_none hcand fun ⟨_, all⟩ => ?_
    obtain ⟨outcomes, events⟩ := taken.mp all n
    exact left.elim (fun ⟨o, ho⟩ => outcomes _ ho rfl) events
  · refine ⟨startRetirement e s, startedRetirement e s,
      execRetirementStart_some hrun hcand hprog (room.mpr hroom) (taken.mpr htaken), rfl,
      entry_startRetirement e s, fun i => ⟨lru_startRetirement e s i, waysOf_startRetirement e s i⟩, rfl, rfl, ?_, ?_⟩
    · have target : ((reporting e s).entry e).target = (s.entry e).target := by rw [entry_reporting, if_pos rfl]
      show nestRecords (reporting e s) e = _
      rw [nestRecords, target, NestSet.toList]
      exact List.map_congr_left fun n _ => nestRecord_eq (reporting e s) e n
    · show reportHeader (reporting e s) e = _
      rw [reportHeader, entry_reporting, if_pos rfl, outcomeCounts_eq, freeEntries_reporting (by rw [hstate]; nofun),
        freeEntries_eq, size_eq_countP, entry_reporting, if_pos rfl]
      rfl

end Sys2Proof.Machine

end

section
/-! A Profile image written (R84, R86, R87, 11.4): statement O21. -/

namespace Sys2Proof.Machine

variable {s u : State} {f : RxFrame} {img : List Byte} {r : Fin 64}

/-! ### The slots of an image (11.4, R85, R86) -/

theorem leAt_drop (bs : List Byte) (j i k : Nat) : leAt (bs.drop j) i k = leAt bs (j + i) k := by
  unfold leAt
  simp only [byteAt_drop, Nat.add_assoc]

/-- A word and its number are read alike. -/
theorem eq_ofNat_leAt_iff {k : Nat} (x : BitVec (8 * k)) (bs : List Byte) (i : Nat) :
    BitVec.ofNat (8 * k) (leAt bs i k) = x ↔ x.toNat = leAt bs i k := by
  rw [← BitVec.toNat_inj, BitVec.toNat_ofNat, Nat.mod_eq_of_lt (leAt_lt bs i k), eq_comm]

/-- Slot `i` of an image reads as `m` exactly if its 26 bytes are decoded to `m`. -/
theorem slotImage_iff (img : List Byte) (i : Fin 4) (m : MeasureSlot) :
    SlotImage img i m ↔ decodeSlot (img.drop (4 + 26 * i.val)) = some m := by
  obtain ⟨mode, position, width, signed, gain, shift, codeSet, window, bias, low, high, guard⟩ := m
  have word := fun (x : Word16) j => eq_ofNat_leAt_iff (k := 2) x img j
  have long := fun (x : Word32) j => eq_ofNat_leAt_iff (k := 4) x img j
  unfold SlotImage decodeSlot
  dsimp only
  simp only [byteAt_drop, leAt_drop, Option.map_eq_some_iff, MeasureSlot.mk.injEq, Nat.add_zero, ← word, ← long]
  constructor
  · rintro ⟨hmode, rfl, rfl, rfl, rfl, rfl, rfl, rfl, rfl, rfl, rfl, rfl⟩
    exact ⟨mode, hmode, rfl, rfl, rfl, rfl, rfl, rfl, rfl, rfl, rfl, rfl, rfl, rfl⟩
  · rintro ⟨_, hmode, rfl, rfl, rfl, rfl, rfl, rfl, rfl, rfl, rfl, rfl, rfl, rfl⟩
    exact ⟨hmode, rfl, rfl, rfl, rfl, rfl, rfl, rfl, rfl, rfl, rfl, rfl⟩

/-- Four slots are decoded from an image exactly if each is, in its place (11.4). -/
theorem decodeSlots_eq_some_iff (img : List Byte) (slots : Vector MeasureSlot 4) :
    decodeSlots img = some slots ↔ ∀ i : Fin 4, SlotImage img i slots[i.val] := by
  simp only [slotImage_iff]
  constructor
  · intro h i
    unfold decodeSlots at h
    split at h
    case h_1 first second third fourth =>
      obtain rfl := Option.some.inj h
      match i with
      | 0 => exact first
      | 1 => exact second
      | 2 => exact third
      | 3 => exact fourth
    all_goals cases h
  · intro h
    have first : decodeSlot (img.drop 4) = some slots[0] := h 0
    have second : decodeSlot (img.drop 30) = some slots[1] := h 1
    have third : decodeSlot (img.drop 56) = some slots[2] := h 2
    have fourth : decodeSlot (img.drop 82) = some slots[3] := h 3
    rw [decodeSlots, first, second, third, fourth]
    exact congrArg some (slots_eq_four slots).symm

theorem word_eq_one_iff (x : Word16) : x.toInt = 1 ↔ x = 1#16 := by
  rw [← BitVec.toInt_inj]; rfl

theorem word_eq_zero_iff (x : Word32) : x.toInt = 0 ↔ x = 0#32 := by
  rw [← BitVec.toInt_inj]; rfl

/-- The slot checks of R86 are those of the model. -/
theorem slotPasses_iff (m : MeasureSlot) : SlotPasses m ↔ m.valid = true := by
  unfold SlotPasses MeasureSlot.valid
  simp only [word_eq_one_iff, word_eq_zero_iff, Bool.or_eq_true, Bool.and_eq_true, decide_eq_true_eq, ne_eq]
  by_cases hoff : m.mode = .off
  · simp [hoff]
  · by_cases hcode : m.mode = .code <;> simp [hoff, hcode, and_assoc, or_assoc]

theorem all_valid_iff (slots : Vector MeasureSlot 4) :
    slots.toList.all MeasureSlot.valid = true ↔ ∀ i : Fin 4, SlotPasses slots[i.val] := by
  rw [toList_eq_map, List.all_map, List.all_eq_true]
  simp only [List.mem_finRange, forall_true_left, slotPasses_iff]
  rfl

/-! ### One image (R86, R87) -/

/-- What a PUT_ROWS of one image to a known table does is what writing its images does (R183). -/
theorem putRows_one_eq {x : Table} {code : Byte} (hcode : tableOf code.toNat = some x)
    (h : Asked s f .putRows (code :: 1#8 :: img)) (hlen : img.length = x.imageSize) :
    putRows x s = .next (writeRows x (reqOf f) 0 [img] (passMessage f s)) := by
  obtain ⟨hat, room, isPut, args⟩ := h
  have arg : tableArg (argsOf f.msg) = some (some x) := by rw [args]; exact congrArg some hcode
  have takes : isPutRows x f.msg = true := by
    rw [isPutRows, isPut, arg]
    simp
  have size : (code :: 1#8 :: img).length = 2 + 1 * x.imageSize := by simp [hlen]; omega
  have rows : ¬x.maxRows < 1 := by cases x <;> decide
  have piece : piecesOf x.imageSize 1 img = [img] := by
    rw [piecesOf, piecesOf, ← hlen, List.take_length]
  have count : (byteAt (code :: 1#8 :: img) 1).toNat = 1 := rfl
  have image : (code :: 1#8 :: img).drop 2 = img := rfl
  rw [putRows, runRequest_eq hat room takes, withTable, arg, args]
  dsimp only
  rw [putRowsOf, count, image, if_neg (by rw [size]; omega), piece]

/-- A PUT_ROWS of one image that its table refuses is answered with the reason and the row's number, no row written
(R183). -/
theorem putRows_one_refused {x : Table} {code : Byte} {status : Status} (hcode : tableOf code.toNat = some x)
    (h : Asked s f .putRows (code :: 1#8 :: img)) (hlen : img.length = x.imageSize)
    (hw : writeRow x img (passMessage f s) = .refused status) :
    putRows x s = .next (answered f status [0#8, byteAt img 0] s) := by
  rw [putRows_one_eq hcode h hlen, writeRows, hw]
  rfl

/-! ### A Profile image -/

/-- A Profile image that names row `r` and has a known defined byte, by R86 and R87. -/
theorem writeProfileRow_of (hr : (byteAt img 0).toNat = r.val) (hne : r ≠ 0) (hdef : (byteAt img 1).toNat ≤ 1) :
    writeRow .profile img u =
      if (u.profile r).pins ≠ 0 then .refused .inUse
      else if byteAt img 1 = 0#8 then .written (u.updProfile r (fun _ => ProfileRow.empty))
      else
        match decodeSlots img with
        | none => .refused .badRow
        | some slots =>
          if slots.toList.all MeasureSlot.valid then
            .written (u.updProfile r (fun _ => { defined := true, slots := slots, pins := 0 }))
          else .refused .badRow := by
  have low : 1 ≤ r.val := Nat.one_le_iff_ne_zero.mpr fun h0 => hne (Fin.ext h0)
  have inside : 1 ≤ (byteAt img 0).toNat ∧ (byteAt img 0).toNat < 64 ∧ (byteAt img 1).toNat ≤ 1 :=
    ⟨hr ▸ low, hr ▸ r.isLt, hdef⟩
  obtain rfl : (⟨(byteAt img 0).toNat, inside.2.1⟩ : Fin 64) = r := Fin.ext hr
  exact dif_pos inside

theorem writeProfileRow_good {slots : Vector MeasureSlot 4} (hr : (byteAt img 0).toNat = r.val) (hne : r ≠ 0)
    (hdef : byteAt img 1 = 1#8) (hpins : (u.profile r).pins = 0)
    (hslots : ∀ i : Fin 4, SlotImage img i slots[i.val] ∧ SlotPasses slots[i.val]) :
    writeRow .profile img u = .written (u.updProfile r fun _ => { defined := true, slots := slots, pins := 0 }) := by
  have decoded := (decodeSlots_eq_some_iff img slots).mpr fun i => (hslots i).1
  have valid := (all_valid_iff slots).mpr fun i => (hslots i).2
  rw [writeProfileRow_of hr hne (by rw [hdef]; decide), if_neg (not_not.mpr hpins), hdef, if_neg (by decide), decoded]
  exact if_pos valid

/-- One slot that reads as no slot, or as none that passes, spoils the image. -/
theorem writeProfileRow_bad (hr : (byteAt img 0).toNat = r.val) (hne : r ≠ 0) (hdef : byteAt img 1 = 1#8)
    (hpins : (u.profile r).pins = 0) (hbad : ∃ i : Fin 4, ∀ m, SlotImage img i m → ¬SlotPasses m) :
    writeRow .profile img u = .refused .badRow := by
  obtain ⟨i, hbad⟩ := hbad
  rw [writeProfileRow_of hr hne (by rw [hdef]; decide), if_neg (not_not.mpr hpins), hdef, if_neg (by decide)]
  cases hd : decodeSlots img with
  | none => rfl
  | some slots =>
    have invalid : ¬slots.toList.all MeasureSlot.valid = true := fun valid =>
      hbad _ ((decodeSlots_eq_some_iff img slots).mp hd i) ((all_valid_iff slots).mp valid i)
    exact if_neg invalid

theorem writeProfileRow_cleared (hr : (byteAt img 0).toNat = r.val) (hne : r ≠ 0) (hdef : byteAt img 1 = 0#8)
    (hpins : (u.profile r).pins = 0) :
    writeRow .profile img u = .written (u.updProfile r fun _ => ProfileRow.empty) := by
  rw [writeProfileRow_of hr hne (by rw [hdef]; decide), if_neg (not_not.mpr hpins), if_pos hdef]

theorem writeProfileRow_pinned (hr : (byteAt img 0).toNat = r.val) (hne : r ≠ 0) (hdef : (byteAt img 1).toNat ≤ 1)
    (hpins : (u.profile r).pins ≠ 0) : writeRow .profile img u = .refused .inUse := by
  rw [writeProfileRow_of hr hne hdef, if_pos hpins]

/-- Settles O21: the writing of the one image, by the pin count, the defined byte and the slots. -/
theorem putRowsProfileReplacesUnpinnedRow : Obligations.PutRowsProfileReplacesUnpinnedRow := by
  intro s f img r hne h hlen hr
  refine ⟨fun slots hpins hdef hslots => ?_, fun hpins hdef hbad => ?_, fun hpins hdef => ?_, fun hpins hdef => ?_⟩
  · exact putRows_one (x := .profile) rfl h hlen (writeProfileRow_good hr hne hdef hpins hslots)
  · exact putRows_one_refused (x := .profile) rfl h hlen (writeProfileRow_bad hr hne hdef hpins hbad)
  · have written := writeProfileRow_cleared (u := passMessage f s) hr hne hdef hpins
    exact ⟨ProfileRow.empty, rfl, rfl, by decide, putRows_one (x := .profile) rfl h hlen written⟩
  · exact putRows_one_refused (x := .profile) rfl h hlen (writeProfileRow_pinned hr hne hdef hpins)

end Sys2Proof.Machine

end

section
/-! The rows of the Profile, Allow List and Settings tables, which most operations do not touch: the first part of
statement O58. -/

namespace Sys2Proof.Machine

/-- The rows that the checks of R84, R86, R174 and R185 are about, and the pin counts with them. -/
def storedRows (s : State) : Vector ProfileRow 64 × Vector AllowEntry 4 × Settings :=
  (s.judge.profiles, s.uplink.allow, s.mgmt.settings)

variable (s : State)

/-! ### The operations on nests, copies and the units -/

@[simp] theorem storedRows_updPort (n : Nest) (f : NestPort → NestPort) :
    storedRows (s.updPort n f) = storedRows s := rfl

@[simp] theorem storedRows_endHalt (n : Nest) : storedRows (endHalt n s) = storedRows s := rfl

@[simp] theorem storedRows_countLate (n : Nest) : storedRows (countLate n s) = storedRows s := rfl

@[simp] theorem storedRows_raiseLink (n : Nest) : storedRows (raiseLink n s) = storedRows s := rfl

@[simp] theorem storedRows_setExcluded (n : Nest) (b : Bool) : storedRows (setExcluded n b s) = storedRows s := rfl

@[simp] theorem storedRows_passMessage (f : RxFrame) : storedRows (passMessage f s) = storedRows s := rfl

@[simp] theorem storedRows_finishCopy (n : Nest) (e : EntryId) (r : Nat) (o : CopyOutcome) :
    storedRows (finishCopy n e r o s) = storedRows s := by simp [storedRows]

@[simp] theorem storedRows_deliverStopFailure (n : Nest) (e : EntryId) (o : CopyOutcome) :
    storedRows (deliverStopFailure n e o s) = storedRows s := by simp [storedRows]

@[simp] theorem storedRows_haltHead (n : Nest) (p : Copy → Bool) : storedRows (haltHead n p s) = storedRows s := by
  simp [storedRows]

@[simp] theorem storedRows_voidQueued (n : Nest) (p : Copy → Bool) :
    storedRows (voidQueued n p s) = storedRows s := by simp [storedRows]

@[simp] theorem storedRows_haltAndVoid (n : Nest) (st : StreamId) :
    storedRows (haltAndVoid n st s) = storedRows s := by simp [haltAndVoid]

@[simp] theorem storedRows_takeVoids (n : Nest) (cs ds : List VoidCause) :
    storedRows (takeVoids n cs ds s) = storedRows s := by simp [storedRows]

@[simp] theorem storedRows_takeWaitingVoids (n : Nest) : storedRows (takeWaitingVoids n s) = storedRows s := by
  simp [storedRows]

@[simp] theorem storedRows_absenceRule (n : Nest) : storedRows (absenceRule n s) = storedRows s := by
  simp [storedRows]

@[simp] theorem storedRows_trainIfReady (n : Nest) : storedRows (trainIfReady n s) = storedRows s := by
  simp [storedRows]

@[simp] theorem storedRows_linkDown (n : Nest) : storedRows (linkDown n s) = storedRows s := by simp [storedRows]

@[simp] theorem storedRows_setPresence (n : Nest) (p : Bool) : storedRows (setPresence n p s) = storedRows s := by
  simp [storedRows]

@[simp] theorem storedRows_countBadFrame (n : Nest) : storedRows (countBadFrame n s) = storedRows s := by
  simp [storedRows]

@[simp] theorem storedRows_loseIfClear (n : Nest) : storedRows (loseIfClear n s) = storedRows s := by
  simp [storedRows]

@[simp] theorem storedRows_takeStopFailure (n : Nest) : storedRows (takeStopFailure n s) = storedRows s := by
  simp [storedRows]

@[simp] theorem storedRows_sendCycle (n : Nest) : storedRows (sendCycle n s) = storedRows s := by
  simp [storedRows]

@[simp] theorem storedRows_excludeStanding (n : Nest) : storedRows (excludeStanding n s) = storedRows s := by
  simp [storedRows]

/-! ### Folds over the nests -/

/-- An operation carried out for each element of a list leaves the rows, if it leaves them each time. -/
theorem storedRows_foldl {α : Type} {f : State → α → State} (h : ∀ t a, storedRows (f t a) = storedRows t)
    (l : List α) (s : State) : storedRows (l.foldl f s) = storedRows s := by
  induction l generalizing s with
  | nil => rfl
  | cons a l ih => exact (ih (f s a)).trans (h s a)

@[simp] theorem storedRows_trainAll : storedRows (trainAll s) = storedRows s :=
  storedRows_foldl (fun t n => storedRows_trainIfReady t n) _ s

@[simp] theorem storedRows_applyEnable (mask : NestSet) : storedRows (applyEnable mask s) = storedRows s :=
  storedRows_foldl (fun t n => storedRows_updPort t n _) _ s

/-! ### The lane, answers and the Lot Controller -/

@[simp] theorem storedRows_takeWelcome (n : Nest) (id : Word32) (present : Bool) :
    storedRows (takeWelcome n id present s) = storedRows s := by
  unfold takeWelcome
  split <;> simp

@[simp] theorem storedRows_takeNote (n : Nest) (code : Word16) : storedRows (takeNote n code s) = storedRows s := by
  unfold takeNote
  dsimp only
  split <;> rfl

@[simp] theorem storedRows_takeChat (n : Nest) (payload : List Byte) :
    storedRows (takeChat n payload s) = storedRows s := by
  unfold takeChat
  split <;> rfl

@[simp] theorem storedRows_judgeAnswer (e : EntryId) (n : Nest) (payload : List Byte) (final : Bool) :
    storedRows (judgeAnswer e n payload final s).1 = storedRows s := by
  obtain ⟨t, o, h, frame, -⟩ := judgeAnswer_spec s e n payload final
  rw [h]
  dsimp only
  rw [frame]
  rfl

@[simp] theorem storedRows_offerAnswer (e : EntryId) (n : Nest) (payload : List Byte) :
    storedRows (offerAnswer e n payload s) = storedRows s := by
  obtain ⟨⟨frame, -⟩, -⟩ := offerAnswer_spec s e n payload
  rw [frame]
  rfl

@[simp] theorem storedRows_endByAnswer (n : Nest) (c : Copy) (runs : Nat) (o : CopyOutcome) (payload : List Byte) :
    storedRows (endByAnswer n c runs o payload s) = storedRows s := by simp [endByAnswer]

@[simp] theorem storedRows_nextRun (n : Nest) (c : Copy) : storedRows (nextRun n c s) = storedRows s := by
  rw [nextRun_eq, storedRows_updPort]

@[simp] theorem storedRows_takeAnswer (n : Nest) (c : Copy) (status : Byte) (payload : List Byte) :
    storedRows (takeAnswer n c status payload s) = storedRows s := by
  rw [takeAnswer_eq]
  split
  · simp
  · split <;> simp

@[simp] theorem storedRows_classifyAnswer (n : Nest) (tag : Word16) (status : Byte) (payload : List Byte) :
    storedRows (classifyAnswer n tag status payload s) = storedRows s := by
  unfold classifyAnswer
  split
  · split
    · split
      · exact storedRows_takeAnswer s n _ status payload
      · rfl
    · exact storedRows_countLate s n
  · split <;> simp
  all_goals exact storedRows_countLate s n

@[simp] theorem storedRows_expireDeadline (n : Nest) (c : Copy) (tag : Word16) :
    storedRows (expireDeadline n c tag s) = storedRows s := by simp [expireDeadline]

@[simp] theorem storedRows_dropEvent (n : Nest) : storedRows (dropEvent n s) = storedRows s := rfl

@[simp] theorem storedRows_retrainProgress (n : Nest) : storedRows (retrainProgress n s) = storedRows s := by
  unfold retrainProgress
  split
  · split
    · split <;> rfl
    · rfl
  all_goals rfl

@[simp] theorem storedRows_abortProgress (n : Nest) (r : Req) (st : StreamId) (marked halted voided : Nat)
    (left : NestSet) : storedRows (abortProgress n r st marked halted voided left s) = storedRows s := by
  unfold abortProgress
  dsimp only
  split <;> rfl

/-! ### Requests -/

@[simp] theorem storedRows_storeNestConfig (n : Nest) (c : NestConfig) :
    storedRows (storeNestConfig n c s) = storedRows s := by
  unfold storeNestConfig
  dsimp only
  split
  · simp
  · split <;> simp

theorem storedRows_getRowsOf (x : Table) (r : Req) (args : List Byte) :
    storedRows (getRowsOf x r args s) = storedRows s := by
  unfold getRowsOf
  dsimp only
  split
  · rfl
  · split <;> rfl

theorem storedRows_releaseSlot (n : Nest) (r : Req) : storedRows (releaseSlot n r s) = storedRows s := by
  unfold releaseSlot
  dsimp only
  split <;> rfl

@[simp] theorem storedRows_drainStream (st : StreamId) : storedRows (drainStream st s) = storedRows s := by
  unfold drainStream
  split <;> rfl

@[simp] theorem storedRows_answerAction (r : Req) (n : Nest) (a : NestAction)
    (halted : Option (StreamId × Word16)) (sent : Bool) (voided : Nat) :
    storedRows (answerAction r n a halted sent voided s) = storedRows s := rfl

theorem storedRows_actExclude (r : Req) (n : Nest) : storedRows (actExclude r n s) = storedRows s := by
  unfold actExclude
  dsimp only
  split <;> simp

theorem storedRows_actRetrain (r : Req) (n : Nest) : storedRows (actRetrain r n s) = storedRows s := by
  have link : storedRows (trainIfReady n (linkDown n s)) = storedRows s := by simp
  unfold actRetrain
  dsimp only
  split
  · exact link
  · exact link

/-! ### The uplink -/

theorem storedRows_takeFrame (frame : List Byte) : storedRows (takeFrame frame s) = storedRows s := by
  unfold takeFrame
  split
  · rfl
  · rfl
  · split <;> rfl

theorem storedRows_endSending (x : Sending) : storedRows (endSending x s) = storedRows s := by
  have allow : (dropSent x.cls s.uplink).allow = s.uplink.allow := by cases x.cls <;> rfl
  simp [storedRows, endSending, allow]

theorem storedRows_uplinkDown : storedRows (uplinkDown s) = storedRows s := by
  unfold uplinkDown
  dsimp only
  split
  · next x _ => exact storedRows_endSending s x
  · rfl

theorem storedRows_refuseStep (f : RxFrame) (reason : RefusalReason) (detail : Nat) :
    storedRows (refuseStep f reason detail s) = storedRows s := by
  unfold refuseStep
  dsimp only
  split <;> rfl

@[simp] theorem storedRows_testPayloadLow (before : Nat) : storedRows (testPayloadLow before s) = storedRows s := by
  unfold testPayloadLow
  dsimp only
  split <;> rfl

end Sys2Proof.Machine

end

section
/-! What each command does to the rows of the tables, to their pin counts and to the names that the entries hold:
statement O58. -/

namespace Sys2Proof.Machine

variable {s t u : State}

/-! ### The checks of the rows (R84, R86, R174, R185) -/

/-- The checks of the tables do not read the pin counts. -/
theorem TablesOk.congr (h : TablesOk s) (defined : ∀ r, (t.profile r).defined = (s.profile r).defined)
    (slots : ∀ r, (t.profile r).slots = (s.profile r).slots) (allow : t.uplink.allow = s.uplink.allow)
    (settings : t.mgmt.settings = s.mgmt.settings) : TablesOk t := by
  obtain ⟨profiles, row0, addresses, row⟩ := h
  refine ⟨fun r => ?_, (defined 0).trans row0, by rwa [allow], by rwa [settings]⟩
  have ok := profiles r
  rwa [profileOk, ← defined, ← slots] at ok

/-- An operation keeps the rows to their checks, and the pin count of every Profile row. -/
structure RowsKept (s t : State) : Prop where
  checks : TablesOk s → TablesOk t
  pins : ∀ r, (t.profile r).pins = (s.profile r).pins

namespace RowsKept

theorem trans (h : RowsKept s t) (k : RowsKept t u) : RowsKept s u :=
  ⟨fun hs => k.checks (h.checks hs), fun r => (k.pins r).trans (h.pins r)⟩

theorem of_rows (h : storedRows t = storedRows s) : RowsKept s t := by
  simp only [storedRows, Prod.mk.injEq] at h
  obtain ⟨profiles, allow, settings⟩ := h
  have profile : ∀ r, t.profile r = s.profile r := fun r => congrArg (fun v => v[r.val]) profiles
  exact ⟨fun hs => hs.congr (fun r => by rw [profile]) (fun r => by rw [profile]) allow settings,
    fun r => by rw [profile]⟩

theorem refl (s : State) : RowsKept s s := of_rows rfl

/-- A Profile row replaced by one that passes the checks and is pinned as often. -/
theorem updProfile {r : Fin 64} {row : ProfileRow} (hr : r ≠ 0) (ok : profileOk row = true)
    (pins : row.pins = (s.profile r).pins) : RowsKept s (s.updProfile r fun _ => row) := by
  refine ⟨fun ⟨profiles, row0, allow, settings⟩ => ⟨fun x => ?_, ?_, allow, settings⟩, fun x => ?_⟩
  · rw [profile_updProfile]
    split
    · exact ok
    · exact profiles x
  · rwa [profile_updProfile, if_neg hr.symm]
  · rw [profile_updProfile]
    split
    · next h => rw [h, pins]
    · rfl

/-- The Allow List replaced by entries that pass the check (R174). -/
theorem allow (profiles : t.judge.profiles = s.judge.profiles) (settings : t.mgmt.settings = s.mgmt.settings)
    (ok : ∀ i : Fin 4, allowOk s.uplink.allow[i.val] = true → allowOk t.uplink.allow[i.val] = true) :
    RowsKept s t := by
  have profile : ∀ r, t.profile r = s.profile r := fun r => congrArg (fun v => v[r.val]) profiles
  refine ⟨fun ⟨rows, row0, addresses, row⟩ => 
    ⟨fun r => by rw [profile]; exact rows r, by rwa [profile], fun i => ok i (addresses i), by rwa [settings]⟩,
    fun r => by rw [profile]⟩

end RowsKept

/-! ### One row written (R86, R174, R185) -/

/-- A Profile image written replaces an unpinned row of the table by one that passes the checks, unpinned as it was. -/
theorem writeProfileRow_written {img : List Byte} (written : writeProfileRow img s = .written t) :
    ∃ (r : Fin 64) (row : ProfileRow), r ≠ 0 ∧ profileOk row = true ∧ row.pins = (s.profile r).pins ∧
      t = s.updProfile r fun _ => row := by
  unfold writeProfileRow at written
  split at written
  · next taken =>
    have hne : (⟨(byteAt img 0).toNat, taken.2.1⟩ : Fin 64) ≠ 0 := fun h0 =>
      absurd (congrArg Fin.val h0) (Nat.one_le_iff_ne_zero.mp taken.1)
    dsimp only at written
    split at written
    · cases written
    · next unpinned =>
      have hpins := not_not.mp unpinned
      split at written
      · cases written
        exact ⟨_, _, hne, by decide, hpins.symm, rfl⟩
      · split at written
        · cases written
        · split at written
          · next valid =>
            cases written
            refine ⟨_, _, hne, ?_, hpins.symm, rfl⟩
            exact valid
          · cases written
  · cases written

theorem writeAllowRow_kept {img : List Byte} (written : writeAllowRow img s = .written t) : RowsKept s t := by
  unfold writeAllowRow at written
  dsimp only at written
  split at written
  · next inside =>
    split at written <;> cases written
    next taken =>
    refine .allow rfl rfl fun i ok => ?_
    dsimp only
    rw [upd_get]
    split
    · cases hv : decide (byteAt img 1 = 1#8) with
      | false => rfl
      | true =>
        have single := (not_or.mp taken).2
        rw [hv] at single
        simpa [allowOk] using single
    · exact ok
  · cases written

theorem writeSettingsRow_kept {img : List Byte} (h : writeSettingsRow img s = .written t) : RowsKept s t := by
  unfold writeSettingsRow at h
  dsimp only at h
  split at h <;> cases h
  next taken =>
  refine ⟨fun ⟨profiles, row0, allow, _⟩ => ⟨profiles, row0, allow, ?_⟩, fun r => rfl⟩
  simp only [not_or, not_lt] at taken
  obtain ⟨-, payload, reply, -⟩ := taken
  simp [settingsOk, leAt_two_lt, payload, reply]

theorem RowsKept.writeRow {x : Table} {img : List Byte} (h : writeRow x img s = .written t) : RowsKept s t := by
  cases x with
  | group =>
    change writeGroupRow img s = _ at h
    unfold writeGroupRow at h
    split at h <;> cases h
    exact .of_rows rfl
  | profile =>
    obtain ⟨r, row, hne, ok, pins, rfl⟩ := writeProfileRow_written (img := img) (s := s) h
    exact .updProfile hne ok pins
  | codeSet =>
    change writeCodeSetRow img s = _ at h
    unfold writeCodeSetRow at h
    split at h
    · split at h <;> cases h
      exact .of_rows rfl
    · cases h
  | nestConfig =>
    change writeNestConfigRow img s = _ at h
    unfold writeNestConfigRow at h
    dsimp only at h
    split at h
    · split at h <;> cases h
      exact .of_rows (storedRows_storeNestConfig ..)
    · cases h
  | allowList => exact writeAllowRow_kept h
  | settings => exact writeSettingsRow_kept h

theorem RowsKept.writeRows (x : Table) (r : Req) (imgs : List (List Byte)) (done : Nat) (s : State) :
    RowsKept s (writeRows x r done imgs s) := by
  induction imgs generalizing done s with
  | nil => exact .of_rows rfl
  | cons img rest ih =>
    unfold Machine.writeRows
    split
    · next h => exact (RowsKept.writeRow h).trans (ih _ _)
    · exact .of_rows rfl

theorem RowsKept.putRowsOf (x : Table) (r : Req) (args : List Byte) (s : State) :
    RowsKept s (putRowsOf x r args s) := by
  unfold Machine.putRowsOf
  dsimp only
  split
  · exact .of_rows rfl
  · exact .writeRows ..

/-! ### The configuration loaded (R188) -/

theorem allowOk_imageAllow (image : List Byte) (i : Nat) : allowOk (imageAllow image i) = true := by
  unfold imageAllow
  dsimp only
  split
  · next h => simp [allowOk, h.2]
  · rfl

theorem allowOk_configurationOf (strap : BitVec 4) (flash : Option (List Byte)) (i : Fin 4) :
    allowOk (configurationOf strap flash).allow[i.val] = true := by
  unfold configurationOf
  split
  · match i with
    | 0 | 1 | 2 | 3 => exact allowOk_imageAllow ..
  · simp [allowOk]

theorem RowsKept.endLoading (strap : BitVec 4) (flash : Option (List Byte)) (s : State) :
    RowsKept s (endLoading (configurationOf strap flash) s) := by
  have enabled := RowsKept.of_rows (storedRows_applyEnable s (configurationOf strap flash).enable)
  refine enabled.trans (.trans ?_ (.of_rows (storedRows_trainAll _)))
  exact .allow rfl rfl fun i _ => allowOk_configurationOf strap flash i

end Sys2Proof.Machine

end

section
/-! The commands that leave the pin counts, and the checks of every command: statement O58. -/

namespace Sys2Proof.Machine

variable {s t u : State}

/-- The commands that change pin counts: a step accepted, a retirement ended, and the resets (R87, R187, R189). -/
def repins : Instr → Bool
  | .powerOn _ | .resetPin _ | .restartEvent | .step | .segmentPlaced => true
  | _ => false

namespace RowsKept

theorem of_takesPlace {b : Bool} (h : takesPlace b s u = .next t) (hu : RowsKept s u) : RowsKept s t := by
  rcases takesPlace_cases h with rfl | rfl
  · exact refl t
  · exact hu

theorem of_runRequest {p : List Byte → Bool} {act : Req → List Byte → State → State}
    (h : runRequest p act s = .next t) (ha : ∀ r args u, RowsKept u (act r args u)) : RowsKept s t := by
  rcases runRequest_cases h with rfl | ⟨f, rfl⟩
  · exact refl t
  · exact (of_rows (storedRows_passMessage s f)).trans (ha ..)

theorem of_nestAction {a : NestAction} {act : Req → Nest → State → State} (h : nestAction a act s = .next t)
    (ha : ∀ r n u, storedRows (act r n u) = storedRows u) : RowsKept s t := by
  refine of_runRequest h fun r args u => of_rows ?_
  split
  · exact ha ..
  · rfl

theorem withTable {act : Table → Req → List Byte → State → State} (h : ∀ x r args u, RowsKept u (act x r args u))
    (r : Req) (args : List Byte) (u : State) : RowsKept u (withTable act r args u) := by
  unfold Machine.withTable
  split
  · exact of_rows rfl
  · exact of_rows rfl
  · exact h ..

theorem withoutArgs {act : Req → State → State} (h : ∀ r u, storedRows (act r u) = storedRows u) (r : Req)
    (args : List Byte) (u : State) : RowsKept u (withoutArgs act r args u) := by
  unfold Machine.withoutArgs
  split
  · exact of_rows (h ..)
  · exact of_rows rfl

theorem putRows {x : Table} (h : putRows x s = .next t) : RowsKept s t :=
  of_runRequest h (withTable putRowsOf)

theorem getRows (h : execGetRows s = .next t) : RowsKept s t :=
  of_runRequest h (withTable fun x r args u => of_rows (storedRows_getRowsOf u x r args))

end RowsKept

/-- A command that changes no pin count keeps the rows to their checks, and the pin counts. -/
theorem exec_rowsKept (c : Instr) (hc : repins c = false) (h : exec c s = .next t) : RowsKept s t := by
  cases c with
  | powerOn | resetPin | restartEvent | step | segmentPlaced => cases hc
  | loadingEnd flash => exact .of_takesPlace h (.endLoading ..)
  | frameReceived frame => exact .of_takesPlace h (.of_rows (storedRows_takeFrame s frame))
  | requestWaiting => exact .of_takesPlace h (.of_rows rfl)
  | requestUnknownCode =>
    change execRequestUnknownCode s = _ at h
    exact .of_runRequest h fun _ _ _ => .of_rows rfl
  | describe => exact .of_runRequest h (.withoutArgs fun _ _ => rfl)
  | putRowsGroup | putRowsProfile | putRowsCodeSet | putRowsNestConfig | putRowsAllowList | putRowsSettings =>
    exact .putRows h
  | getRows => exact .getRows h
  | getCounters =>
    change execGetCounters s = _ at h
    refine .of_runRequest h fun _ _ _ => .of_rows ?_
    split <;> rfl
  | getCountersClear =>
    change execGetCountersClear s = _ at h
    refine .of_runRequest h fun _ _ _ => .of_rows ?_
    split <;> rfl
  | getState => exact .of_runRequest h (.withoutArgs fun _ _ => rfl)
  | openLot =>
    change execOpenLot s = _ at h
    refine .of_runRequest h fun _ _ _ => .of_rows ?_
    split
    · rfl
    · split
      · rfl
      · split <;> rfl
  | closeLot =>
    refine .of_runRequest h (.withoutArgs fun _ _ => ?_)
    split
    · rfl
    · split <;> rfl
  | abortStream =>
    change execAbortStream s = _ at h
    refine .of_runRequest h fun r args u => .of_rows ?_
    split
    · rfl
    · exact storedRows_drainStream ..
  | streamHaltAndVoid n =>
    change execStreamHaltAndVoid n s = _ at h
    unfold execStreamHaltAndVoid at h
    split at h
    · exact .of_takesPlace h (.of_rows (by simp))
    all_goals cases h; exact .refl s
  | nestActionHalt => exact .of_nestAction h fun _ _ _ => by simp [actHalt]
  | nestActionCycle => exact .of_nestAction h fun _ _ _ => by simp [actCycle]
  | nestActionExclude => exact .of_nestAction h fun r n u => storedRows_actExclude u r n
  | nestActionInclude => exact .of_nestAction h fun _ _ _ => rfl
  | nestActionRetrain => exact .of_nestAction h fun r n u => storedRows_actRetrain u r n
  | releaseAttention =>
    change execReleaseAttention s = _ at h
    refine .of_runRequest h fun r args u => .of_rows ?_
    split
    · exact storedRows_releaseSlot ..
    · rfl
  | restart => exact .of_runRequest h (.withoutArgs fun _ _ => rfl)
  | uplinkTransmitStart => exact .of_takesPlace h (.of_rows rfl)
  | uplinkFrameSent =>
    change execUplinkFrameSent s = _ at h
    unfold execUplinkFrameSent at h
    split at h
    · exact .of_takesPlace h (.of_rows (storedRows_endSending ..))
    · cases h; exact .refl s
  | uplinkLinkChange up =>
    cases h
    refine .of_rows ?_
    split
    · split
      · rfl
      · exact storedRows_uplinkDown _
    · rfl
  | laneSignalPresent n => cases h; exact .of_rows (by split <;> [exact storedRows_trainIfReady ..; rfl])
  | laneSignalLost n => cases h; exact .of_rows (by split <;> [exact storedRows_linkDown ..; rfl])
  | greetRepeat n => exact .of_takesPlace h (.of_rows rfl)
  | frameLeavesLane n => exact .of_takesPlace h (.of_rows (by split <;> rfl))
  | badFrame n bytes => exact .of_takesPlace h (.of_rows (storedRows_countBadFrame s n))
  | welcome n id b => exact .of_takesPlace h (.of_rows (by split <;> simp))
  | presence n b =>
    refine .of_takesPlace h (.of_rows ?_)
    split
    · split <;> simp
    · exact storedRows_countBadFrame s n
  | answer n tag status payload =>
    refine .of_takesPlace h (.of_rows ?_)
    split
    · exact storedRows_countBadFrame s n
    · split <;> simp
  | stopped n tag => exact .of_takesPlace h (.of_rows (by split <;> simp))
  | note n code => exact .of_takesPlace h (.of_rows (storedRows_takeNote s n code))
  | chat n payload =>
    refine .of_takesPlace h (.of_rows ?_)
    split
    · exact storedRows_countBadFrame s n
    · split <;> simp
  | startHead n =>
    change execStartHead n s = _ at h
    unfold execStartHead at h
    split at h <;> cases h <;> exact .of_rows rfl
  | deadlineExpiry n =>
    change execDeadlineExpiry n s = _ at h
    unfold execDeadlineExpiry at h
    split at h <;> cases h
    · exact .of_rows (storedRows_expireDeadline s n _ _)
    · exact .refl s
  | gapExpiry n =>
    change execGapExpiry n s = _ at h
    unfold execGapExpiry at h
    split at h <;> cases h <;> exact .of_rows rfl
  | graceExpiry n => exact .of_takesPlace h (.of_rows rfl)
  | stopFailure n => exact .of_takesPlace h (.of_rows (storedRows_takeStopFailure (dropEvent n s) n))
  | absence n => exact .of_takesPlace h (.of_rows (by simp))
  | stall n => exact .of_takesPlace h (.of_rows (storedRows_loseIfClear (dropEvent n s) n))
  | voidInstruction n =>
    change execVoidInstruction n s = _ at h
    unfold execVoidInstruction at h
    split at h
    · exact .of_takesPlace h (.of_rows (storedRows_takeVoids s n _ _))
    · cases h; exact .refl s
  | outcomeDelivered n =>
    change execOutcomeDelivered n s = _ at h
    unfold execOutcomeDelivered at h
    split at h
    · exact .of_takesPlace h (.of_rows rfl)
    · cases h; exact .refl s
  | retirementStart =>
    change execRetirementStart s = _ at h
    unfold execRetirementStart at h
    split at h <;> cases h <;> exact .of_rows rfl
  | noticeBuild => exact .of_takesPlace h (.of_rows rfl)
  | throttleExpiry => exact .of_takesPlace h (.of_rows rfl)
  | timeSinceStartTick => exact .of_takesPlace h (.of_rows rfl)
  | resetPinAssertion => cases h; exact .of_rows rfl

/-! ### The resets (R187, R189) -/

theorem TablesOk.powerOn (strap : BitVec 4) (s : State) : TablesOk (powerOnState strap s) :=
  tablesOk_reset.congr (fun _ => rfl) (fun _ => rfl) rfl rfl

theorem profile_restartState (r : Fin 64) : (restartState s).profile r = { s.profile r with pins := 0 } :=
  mapTable_get ..

/-! ### A step accepted (R12) -/

theorem storedRows_accepted (e : EntryId) (q : StepReq) (target : NestSet) (r : Fin 64) (s : State) :
    storedRows (acceptInto e q target r s) = storedRows (enlist e q target r s) := by
  rw [acceptInto_eq, storedRows_foldl (fun t n => storedRows_absenceRule t n), accepted, storedRows_testPayloadLow]
  split
  · show storedRows (chooseCandidate (completed e (enlist e q target r s))) = _
    simp only [storedRows, chooseCandidate_judge, chooseCandidate_uplink, chooseCandidate_mgmt]
    rfl
  · rfl

theorem profile_enlist (e : EntryId) (q : StepReq) (target : NestSet) (r x : Fin 64) (s : State) :
    (enlist e q target r s).profile x =
      if x = r ∧ r ≠ 0 then { s.profile x with pins := (s.profile x).pins + 1 } else s.profile x := by
  have h : (enlist e q target r s).profile x = (if r = 0 then s.judge.profiles
      else upd s.judge.profiles r (fun p => { p with pins := p.pins + 1 }))[x.val] := by
    rw [State.profile, (enlist_spec e q target r s).frame]
  rw [h]
  by_cases hr : r = 0
  · simp only [if_pos hr]
    exact (if_neg fun ⟨_, hne⟩ => hne hr).symm
  · simp only [if_neg hr]
    rw [upd_get]
    by_cases hx : x = r
    · rw [if_pos hx, if_pos ⟨hx, hr⟩, hx]; rfl
    · rw [if_neg hx, if_neg fun h => hx h.1]; rfl

theorem TablesOk.acceptInto (h : TablesOk s) (e : EntryId) (q : StepReq) (target : NestSet) (r : Fin 64) :
    TablesOk (acceptInto e q target r s) := by
  have frame := (enlist_spec e q target r s).frame
  refine (RowsKept.of_rows (storedRows_accepted e q target r s)).checks
    (h.congr (fun x => ?_) (fun x => ?_) (by rw [frame]) (by rw [frame]))
  all_goals rw [profile_enlist]; split <;> rfl

/-! ### A segment placed (R135, R136) -/

theorem TablesOk.endRetirement (h : TablesOk s) (e : EntryId) : TablesOk (endRetirement e s) := by
  refine h.congr (fun x => ?_) (fun x => ?_) ?_ ?_
  · rw [profile_endRetirement]; split <;> rfl
  · rw [profile_endRetirement]; split <;> rfl
  · rw [endRetirement_eq, chooseCandidate_uplink, retired_eq, givenBack_eq]
  · rw [endRetirement_eq, chooseCandidate_mgmt, retired_eq, givenBack_eq]

/-- A segment placed, and with the last the retirement ended, with the tables and the entries as they were before it
(R135, R136). -/
theorem placeSegment_ends (r : Retirement) (s : State) : ∃ u, u.table = s.table ∧ storedRows u = storedRows s ∧
    (placeSegment r s = u ∨ placeSegment r s = endRetirement r.entry u) := by
  unfold placeSegment
  dsimp only
  split
  · refine ⟨_, ?_, ?_, .inr rfl⟩ <;> rfl
  · refine ⟨_, ?_, ?_, .inl rfl⟩ <;> rfl

theorem TablesOk.placeSegment (h : TablesOk s) (r : Retirement) : TablesOk (placeSegment r s) := by
  obtain ⟨u, -, rows, hu | hu⟩ := placeSegment_ends r s <;> rw [hu]
  · exact (RowsKept.of_rows rows).checks h
  · exact ((RowsKept.of_rows rows).checks h).endRetirement _

/-! ### Every command -/

theorem execStep_tablesOk (hs : TablesOk s) (h : execStep s = .next t) : TablesOk t := by
  unfold execStep at h
  split at h <;> cases h
  case h_2 => exact hs
  next f _ =>
    have pass : TablesOk (passMessage f s) := (RowsKept.of_rows (storedRows_passMessage s f)).checks hs
    have taken : TablesOk (takeStep f (passMessage f s)) := by
      unfold takeStep
      split
      · exact (RowsKept.of_rows (storedRows_refuseStep ..)).checks pass
      · split
        · exact pass.acceptInto ..
        · exact pass
    exact (RowsKept.of_rows rfl).checks taken

theorem segmentPlaced_tablesOk (hs : TablesOk s) (h : execSegmentPlaced s = .next t) : TablesOk t := by
  unfold execSegmentPlaced at h
  split at h
  · next r _ =>
    rcases takesPlace_cases h with rfl | rfl
    · exact hs
    · exact hs.placeSegment r
  · cases h; exact hs

theorem restartEvent_tablesOk (hs : TablesOk s) (h : execRestartEvent s = .next t) : TablesOk t := by
  rcases takesPlace_cases h with h | h <;> rw [h]
  · exact hs
  · have cleared : TablesOk (restartState s) :=
      hs.congr (fun r => by rw [profile_restartState]) (fun r => by rw [profile_restartState]) rfl rfl
    exact (RowsKept.of_rows (storedRows_trainAll _)).checks cleared

/-- Every command keeps the rows of the tables to their checks. -/
theorem exec_tablesOk (c : Instr) (hs : TablesOk s) (h : exec c s = .next t) : TablesOk t := by
  cases hc : repins c with
  | false => exact (exec_rowsKept c hc h).checks hs
  | true =>
    cases c with
    | powerOn strap => cases h; exact .powerOn strap s
    | resetPin strap => cases h; exact .powerOn strap s
    | restartEvent => exact restartEvent_tablesOk hs h
    | step => exact execStep_tablesOk hs h
    | segmentPlaced => exact segmentPlaced_tablesOk hs h
    | _ => cases hc

end Sys2Proof.Machine

end

section
/-! The names that the entries hold, and the pin counts with them (R87): statement O58. -/

namespace Sys2Proof.Machine

variable {s t u : State}

/-- An operation leaves each entry the Profile row that it names, and FREE or not as it was. -/
structure NamesKept (s t : State) : Prop where
  entry : ∀ e, ((t.entry e).state = .free ↔ (s.entry e).state = .free) ∧ (t.entry e).profile = (s.entry e).profile

namespace NamesKept

theorem trans (h : NamesKept s t) (k : NamesKept t u) : NamesKept s u := by
  refine ⟨fun e => ?_⟩
  obtain ⟨free, profile⟩ := h.entry e
  obtain ⟨free', profile'⟩ := k.entry e
  exact ⟨free'.trans free, profile'.trans profile⟩

theorem of_table (h : t.table = s.table) : NamesKept s t := by
  refine ⟨fun e => ?_⟩
  rw [entry_congr h e]
  exact ⟨.rfl, rfl⟩

theorem finishCopy (n : Nest) (e : EntryId) (r : Nat) (o : CopyOutcome) (s : State) :
    NamesKept s (finishCopy n e r o s) := by
  refine ⟨fun d => ?_⟩
  rw [entry_finishCopy]
  split
  · next hd =>
    subst hd
    dsimp only
    split
    · next last => exact ⟨⟨nofun, fun free => by rw [last.2] at free; cases free⟩, rfl⟩
    · exact ⟨.rfl, rfl⟩
  · exact ⟨.rfl, rfl⟩

theorem of_ends (h : EndsCopies s t) : NamesKept s t := by
  induction h with
  | apart entries _ _ _ => exact ⟨fun e => by rw [entries e]; exact ⟨.rfl, rfl⟩⟩
  | ended n e r o s => exact .finishCopy n e r o s
  | trans _ _ h k => exact h.trans k

theorem of_takesPlace {b : Bool} (h : takesPlace b s u = .next t) (hu : EndsCopies s u) : NamesKept s t :=
  of_ends (.of_takesPlace h hu)

/-- An answer offered moves variants alone (R109, R110). -/
theorem offerAnswer (e : EntryId) (n : Nest) (payload : List Byte) (s : State) :
    NamesKept s (offerAnswer e n payload s) := by
  refine ⟨fun d => ?_⟩
  obtain ⟨⟨-, entries, -⟩, -⟩ := offerAnswer_spec s e n payload
  rw [entries d]
  exact ⟨.rfl, rfl⟩

theorem endByAnswer (n : Nest) (c : Copy) (runs : Nat) (o : CopyOutcome) (payload : List Byte) (s : State) :
    NamesKept s (endByAnswer n c runs o payload s) :=
  (of_ends ((EndsCopies.updPort n _ s).trans ((EndsCopies.ended n c.entry runs o _).trans
    (.deliverStopFailure ..)))).trans (offerAnswer c.entry n payload _)

theorem takeAnswer (n : Nest) (c : Copy) (status : Byte) (payload : List Byte) (s : State) :
    NamesKept s (takeAnswer n c status payload s) := by
  have counted := EndsCopies.updPort n (runAnswered c) s
  rw [takeAnswer_eq]
  split
  · exact (of_ends counted).trans (endByAnswer ..)
  · split
    · exact of_ends (counted.trans ((EndsCopies.judgeAnswer ..).trans (.nextRun ..)))
    · exact (of_ends (counted.trans (.judgeAnswer ..))).trans (endByAnswer ..)

theorem answer {n : Nest} {tag : Word16} {status : Byte} {payload : List Byte}
    (h : execAnswer n tag status payload s = .next t) : NamesKept s t := by
  rcases takesPlace_cases h with rfl | rfl
  · exact .of_table rfl
  split
  · exact of_ends (.countBadFrame ..)
  split
  case isFalse => exact .of_table rfl
  unfold classifyAnswer
  split
  · split
    · split
      · exact .takeAnswer ..
      · exact .of_table rfl
    · exact of_ends (.countLate ..)
  · split
    · exact of_ends ((EndsCopies.countLate ..).trans (.endHalt ..))
    · exact of_ends (.countLate ..)
  all_goals exact of_ends (.countLate ..)

/-- The entry whose retirement begins was COMPLETE, and is REPORTING (R133, R134). -/
theorem retirementStart (hs : StoresOk s) (h : execRetirementStart s = .next t) : NamesKept s t := by
  unfold execRetirementStart at h
  split at h <;> cases h
  case h_2 => exact .of_table rfl
  next e he =>
    obtain ⟨-, candidate, -⟩ := retirable_eq_some s he
    obtain ⟨core, -⟩ := (storesOk_iff s).mp hs
    obtain ⟨complete, -⟩ := core.candidate e candidate
    refine ⟨fun d => ?_⟩
    rw [entry_startRetirement]
    split
    · next hd => subst hd; exact ⟨by simp [complete], rfl⟩
    · exact ⟨.rfl, rfl⟩

end NamesKept

/-- A command that changes no pin count leaves the entries the rows that they name. -/
theorem exec_namesKept (c : Instr) (hc : repins c = false) (hs : StoresOk s) (h : exec c s = .next t) :
    NamesKept s t := by
  cases c with
  | powerOn | resetPin | restartEvent | step | segmentPlaced => cases hc
  | answer n tag status payload => exact .answer h
  | retirementStart => exact .retirementStart hs h
  | loadingEnd flash => exact .of_takesPlace h (.endLoading ..)
  | frameReceived frame => exact .of_takesPlace h (.takeFrame ..)
  | requestWaiting => exact .of_takesPlace h (.of_eq rfl rfl rfl rfl)
  | requestUnknownCode => exact .of_ends (requestUnknownCode_ends h)
  | describe | getState => exact .of_ends (.of_runRequest h (EndsCopies.withoutArgs fun _ _ => .respond ..))
  | putRowsGroup | putRowsProfile | putRowsCodeSet | putRowsNestConfig | putRowsAllowList | putRowsSettings =>
    exact .of_ends (putRows_ends h)
  | getRows => exact .of_ends (.of_runRequest h (EndsCopies.withTable EndsCopies.getRowsOf))
  | getCounters => exact .of_ends (getCounters_ends h)
  | getCountersClear => exact .of_ends (getCountersClear_ends h)
  | openLot => exact .of_ends (openLot_ends h)
  | closeLot => exact .of_ends (closeLot_ends h)
  | abortStream => exact .of_ends (abortStream_ends h)
  | streamHaltAndVoid n => exact .of_ends (streamHaltAndVoid_ends h)
  | nestActionHalt => exact .of_ends (.of_nestAction h .actHalt)
  | nestActionCycle => exact .of_ends (.of_nestAction h .actCycle)
  | nestActionExclude => exact .of_ends (.of_nestAction h .actExclude)
  | nestActionInclude => exact .of_ends (.of_nestAction h .actInclude)
  | nestActionRetrain => exact .of_ends (.of_nestAction h .actRetrain)
  | releaseAttention => exact .of_ends (releaseAttention_ends h)
  | restart => exact .of_ends (restart_ends h)
  | uplinkTransmitStart => exact .of_takesPlace h (.of_eq rfl rfl rfl rfl)
  | uplinkFrameSent => exact .of_ends (uplinkFrameSent_ends h)
  | uplinkLinkChange up => exact .of_ends (uplinkLinkChange_ends h)
  | laneSignalPresent n => exact .of_ends (laneSignalPresent_ends h)
  | laneSignalLost n => exact .of_ends (laneSignalLost_ends h)
  | greetRepeat n => exact .of_takesPlace h (.updPort ..)
  | frameLeavesLane n => exact .of_ends (frameLeavesLane_ends h)
  | badFrame n bytes => exact .of_takesPlace h (.countBadFrame ..)
  | welcome n id presence => exact .of_ends (welcome_ends h)
  | presence n presence => exact .of_ends (presence_ends h)
  | stopped n tag => exact .of_takesPlace h (.ite (fun _ => .endHalt ..) fun _ => .countLate ..)
  | note n code => exact .of_takesPlace h (.takeNote ..)
  | chat n payload =>
    exact .of_takesPlace h (.ite (fun _ => .countBadFrame ..) fun _ =>
      .ite (fun _ => .takeChat ..) fun _ => .refl s)
  | startHead n => exact .of_ends (startHead_ends h)
  | deadlineExpiry n => exact .of_ends (deadlineExpiry_ends h)
  | gapExpiry n => exact .of_ends (gapExpiry_ends h)
  | graceExpiry n => exact .of_takesPlace h ((EndsCopies.updPort n _ s).trans (.deliverEvent ..))
  | stopFailure n => exact .of_takesPlace h ((EndsCopies.dropEvent n s).trans (.takeStopFailure ..))
  | absence n =>
    exact .of_takesPlace h ((EndsCopies.dropEvent n s).trans ((EndsCopies.loseIfClear ..).trans
      (.retrainProgress ..)))
  | stall n =>
    exact .of_takesPlace h ((EndsCopies.dropEvent n s).trans ((EndsCopies.loseIfClear ..).trans (.updLotNest ..)))
  | voidInstruction n => exact .of_ends (voidInstruction_ends h)
  | outcomeDelivered n => exact .of_ends (outcomeDelivered_ends h)
  | noticeBuild | throttleExpiry | timeSinceStartTick => exact .of_takesPlace h (.of_eq rfl rfl rfl rfl)
  | resetPinAssertion => cases h; exact .of_table rfl

/-! ### The pin counts (R87) -/

/-- Entry `e` names Profile row `r` and is not FREE. -/
def namesRow (s : State) (r : Fin 64) (e : EntryId) : Bool := (s.entry e).state ≠ .free && (s.entry e).profile = r

theorem namesRow_eq_false {r : Fin 64} {e : EntryId} (h : (s.entry e).state = .free) : namesRow s r e = false := by
  simp [namesRow, h]

theorem pinsOk_iff (s : State) :
    PinsOk s ↔ ∀ r : Fin 64, r ≠ 0 → (s.profile r).pins = (List.finRange 64).countP (namesRow s r) := Iff.rfl

/-- Two predicates that differ at one element at most count as many, but for that element. -/
theorem countP_finRange_add {n : Nat} {p q : Fin n → Bool} (e : Fin n) (h : ∀ d, d ≠ e → p d = q d) :
    (List.finRange n).countP p + (q e).toNat = (List.finRange n).countP q + (p e).toNat := by
  have split : ∀ f : Fin n → Bool,
      (List.finRange n).countP f = ((List.finRange n).erase e).countP f + (f e).toNat := fun f => by
    rw [(List.perm_cons_erase (List.mem_finRange e)).countP_eq, List.countP_cons]
    cases f e <;> rfl
  have rest : ((List.finRange n).erase e).countP p = ((List.finRange n).erase e).countP q :=
    List.countP_congr fun d hd => by rw [h d ((List.nodup_finRange n).mem_erase_iff.mp hd).1]
  rw [split p, split q, rest]
  omega

/-- The names and the pin counts kept, the pin counts still agree with the names. -/
theorem PinsOk.congr (h : PinsOk s) (entries : NamesKept s t) (pins : ∀ r, (t.profile r).pins = (s.profile r).pins) :
    PinsOk t := by
  rw [pinsOk_iff] at h ⊢
  intro r hr
  have same : namesRow t r = namesRow s r := funext fun e => by
    obtain ⟨free, profile⟩ := entries.entry e
    simp [namesRow, free, profile]
  rw [pins, h r hr, same]

theorem pinsOk_of_initial (ht : t.table = StepTable.initial) (pins : ∀ r, (t.profile r).pins = 0) : PinsOk t := by
  rw [pinsOk_iff]
  intro r _
  rw [pins, List.countP_eq_zero.mpr fun e _ => by rw [namesRow_eq_false (by rw [entry_of_initial ht]; rfl)]; simp]

/-- A FREE entry filled names one row more, which is pinned once more (R12). -/
theorem PinsOk.enlist (h : PinsOk s) {e : EntryId} (hfree : (s.entry e).state = .free) (q : StepReq)
    (target : NestSet) (r : Fin 64) : PinsOk (enlist e q target r s) := by
  rw [pinsOk_iff] at h ⊢
  intro x hx
  have entry := (enlist_spec e q target r s).entry
  have others : ∀ d, d ≠ e → namesRow (Machine.enlist e q target r s) x d = namesRow s x d := fun d hd => by
    rw [namesRow, entry, if_neg hd]; rfl
  have filled : namesRow (Machine.enlist e q target r s) x e = decide (r = x) := by
    rw [namesRow, entry, if_pos rfl]; rfl
  have count := countP_finRange_add e others
  rw [filled, namesRow_eq_false hfree] at count
  rw [profile_enlist]
  by_cases hr : x = r
  · subst hr
    rw [if_pos ⟨rfl, hx⟩]
    simp only [decide_true, Bool.toNat_true, Bool.toNat_false] at count
    have := h x hx
    dsimp only
    omega
  · rw [if_neg fun both => hr both.1, h x hx]
    simp only [decide_eq_false (Ne.symm hr), Bool.toNat_false] at count
    omega

/-- What acceptance does after the fan-out leaves the entries the rows that they name (R12, R20, R45). -/
theorem namesKept_acceptInto (e : EntryId) (q : StepReq) (target : NestSet) (r : Fin 64) (s : State) :
    NamesKept (enlist e q target r s) (acceptInto e q target r s) := by
  have entry := (enlist_spec e q target r s).entry e
  rw [if_pos rfl] at entry
  have emptied : NamesKept (enlist e q target r s) (completeEmpty e (enlist e q target r s)) := by
    refine ⟨fun d => ?_⟩
    rw [show completeEmpty e (enlist e q target r s) = chooseCandidate (completed e (enlist e q target r s)) from rfl,
      entry_congr (chooseCandidate_table _), entry_completed]
    split
    · next hd => subst hd; rw [entry]; exact ⟨⟨nofun, nofun⟩, rfl⟩
    · exact ⟨.rfl, rfl⟩
  have whole : NamesKept (enlist e q target r s) (accepted e q target r s) := by
    refine .trans ?_ (.of_ends (.testPayloadLow ..))
    split
    · exact emptied
    · exact .of_table rfl
  rw [acceptInto_eq]
  exact whole.trans (.of_ends (.absences ..))

theorem PinsOk.acceptInto (h : PinsOk s) {e : EntryId} (hfree : (s.entry e).state = .free) (q : StepReq)
    (target : NestSet) (r : Fin 64) : PinsOk (acceptInto e q target r s) :=
  (h.enlist hfree q target r).congr (namesKept_acceptInto e q target r s)
    (RowsKept.of_rows (storedRows_accepted e q target r s)).pins

/-- An entry that ends its retirement is FREE and names no row, and its row is pinned once less (R136). -/
theorem PinsOk.endRetirement (h : PinsOk s) {e : EntryId} (hused : (s.entry e).state ≠ .free) :
    PinsOk (endRetirement e s) := by
  rw [pinsOk_iff] at h ⊢
  intro x hx
  have others : ∀ d, d ≠ e → namesRow (Machine.endRetirement e s) x d = namesRow s x d := fun d hd => by
    rw [namesRow, entry_endRetirement, if_neg hd]; rfl
  have freed : namesRow (Machine.endRetirement e s) x e = false :=
    namesRow_eq_false (by rw [entry_endRetirement, if_pos rfl])
  have named : namesRow s x e = decide ((s.entry e).profile = x) := by simp [namesRow, hused]
  have count := countP_finRange_add e others
  rw [freed, named] at count
  rw [profile_endRetirement]
  by_cases hp : x = (s.entry e).profile
  · rw [if_pos ⟨hp, hx⟩]
    simp only [decide_eq_true hp.symm, Bool.toNat_true, Bool.toNat_false] at count
    have := h x hx
    dsimp only
    omega
  · rw [if_neg fun both => hp both.1, h x hx]
    simp only [decide_eq_false (Ne.symm hp), Bool.toNat_false] at count
    omega

theorem PinsOk.placeSegment (h : PinsOk s) (hs : StoresOk s) {r : Retirement} (hr : s.retire.progress = some r) :
    PinsOk (placeSegment r s) := by
  obtain ⟨core, -⟩ := (storesOk_iff s).mp hs
  obtain ⟨reporting, -⟩ := core.progress r hr
  obtain ⟨u, table, rows, hu⟩ := placeSegment_ends r s
  have before : PinsOk u := h.congr (.of_table table) (RowsKept.of_rows rows).pins
  rcases hu with hu | hu <;> rw [hu]
  · exact before
  · exact before.endRetirement (by rw [entry_congr table, reporting]; nofun)

/-! ### Every command -/

theorem execStep_pinsOk (hs : PinsOk s) (h : execStep s = .next t) : PinsOk t := by
  unfold execStep at h
  split at h <;> cases h
  case h_2 => exact hs
  next f _ =>
    have pass : PinsOk (passMessage f s) := hs.congr (.of_table rfl) fun _ => rfl
    have taken : PinsOk (takeStep f (passMessage f s)) := by
      unfold takeStep
      split
      · exact pass.congr (.of_ends (.refuseStep ..)) (RowsKept.of_rows (storedRows_refuseStep ..)).pins
      · split
        · next he => exact pass.acceptInto (chooseEntry_free he) _ _ _
        · exact pass
    exact taken.congr (.of_table rfl) fun _ => rfl

theorem segmentPlaced_pinsOk (hst : StoresOk s) (hs : PinsOk s) (h : execSegmentPlaced s = .next t) : PinsOk t := by
  unfold execSegmentPlaced at h
  split at h
  · next r hr =>
    rcases takesPlace_cases h with rfl | rfl
    · exact hs
    · exact hs.placeSegment hst hr
  · cases h; exact hs

theorem restartEvent_pinsOk (hs : PinsOk s) (h : execRestartEvent s = .next t) : PinsOk t := by
  rcases takesPlace_cases h with h | h <;> rw [h]
  · exact hs
  · have cleared : PinsOk (restartState s) := pinsOk_of_initial rfl fun r => by rw [profile_restartState]
    exact cleared.congr (.of_ends (.trainAll _)) (RowsKept.of_rows (storedRows_trainAll _)).pins

theorem pinsOk_powerOn (strap : BitVec 4) (s : State) : PinsOk (powerOnState strap s) :=
  pinsOk_of_initial rfl fun r => congrArg ProfileRow.pins (profile_reset r)

/-- Every command keeps the pin counts to the entries, with the stores in agreement. -/
theorem exec_pinsOk (c : Instr) (hst : StoresOk s) (hs : PinsOk s) (h : exec c s = .next t) : PinsOk t := by
  cases hc : repins c with
  | false => exact hs.congr (exec_namesKept c hc hst h) (exec_rowsKept c hc h).pins
  | true =>
    cases c with
    | powerOn strap => cases h; exact pinsOk_powerOn strap s
    | resetPin strap => cases h; exact pinsOk_powerOn strap s
    | restartEvent => exact restartEvent_pinsOk hs h
    | step => exact execStep_pinsOk hs h
    | segmentPlaced => exact segmentPlaced_pinsOk hst hs h
    | _ => cases hc

/-- Settles O58: most commands leave the rows, the pin counts and the names of the entries; an image written passes
the checks of its table, and a step accepted, a retirement ended and a reset move both sides of R87 alike. -/
theorem stepKeepsTables : Obligations.StepKeepsTables := by
  refine ⟨fun s t hs h => ?_, fun s t hst hs h => ?_⟩ <;> rcases step_cases h with rfl | ⟨c, rest, h⟩
  · exact hs
  · exact exec_tablesOk c (s := { s with pending := rest }) hs h
  · exact hs
  · exact exec_pinsOk c (s := { s with pending := rest }) hst hs h

end Sys2Proof.Machine

end

section
/-! The digest of a payload and the set of an answer (R113, R117): for statement O51. -/

namespace Sys2Proof.Machine

/-! ### The words of a payload (R113) -/

theorem digestWords_eq_map (payload : List Byte) : digestWords payload =
    (List.range ((payload.length + 1) / 2)).map (fun i =>
      (byteAt payload (2 * i)).toNat + 256 * (byteAt payload (2 * i + 1)).toNat) := by
  induction payload using digestWords.induct with
  | case1 => rfl
  | case2 a => simp [digestWords, byteAt]
  | case3 a b rest ih =>
    have words : ((a :: b :: rest).length + 1) / 2 = (rest.length + 1) / 2 + 1 := by
      simp only [List.length_cons]; omega
    rw [digestWords, ih, words, List.range_succ_eq_map, List.map_cons, List.map_map]
    rfl

theorem digestWords_lt (payload : List Byte) : ∀ w ∈ digestWords payload, w < 65536 := by
  intro w hw
  rw [digestWords_eq_map] at hw
  obtain ⟨i, -, rfl⟩ := List.mem_map.mp hw
  have low := (byteAt payload (2 * i)).isLt
  have high := (byteAt payload (2 * i + 1)).isLt
  omega

theorem digestWords_all_zero_iff (payload : List Byte) :
    (∀ w ∈ digestWords payload, w = 0) ↔ ∀ x ∈ payload, x = 0#8 := by
  have zero : ∀ x : Byte, x.toNat = 0 ↔ x = 0#8 := fun x => BitVec.toNat_inj (y := 0#8)
  induction payload using digestWords.induct with
  | case1 => simp [digestWords]
  | case2 a => simp [digestWords, zero]
  | case3 a b rest ih => simp [digestWords, ih, zero, and_assoc]

/-! ### The sum with end-around carry (R113) -/

theorem addEndAround_lt {a w : Nat} (ha : a < 65536) (hw : w < 65536) : addEndAround a w < 65536 := by
  unfold addEndAround; split <;> omega

theorem addEndAround_eq_zero_iff (a w : Nat) : addEndAround a w = 0 ↔ a = 0 ∧ w = 0 := by
  unfold addEndAround; split <;> omega

/-- Two words are added in either order: the carries that come out of both orders are as many. -/
theorem addEndAround_right_comm {v w : Nat} (hv : v < 65536) (hw : w < 65536) (a : Nat) :
    addEndAround (addEndAround a v) w = addEndAround (addEndAround a w) v := by
  unfold addEndAround; repeat' split
  all_goals omega

theorem foldl_addEndAround_lt {ws : List Nat} (hws : ∀ w ∈ ws, w < 65536) {a : Nat} (ha : a < 65536) :
    ws.foldl addEndAround a < 65536 := by
  induction ws generalizing a with
  | nil => exact ha
  | cons w ws ih =>
    obtain ⟨hw, hws⟩ := List.forall_mem_cons.mp hws
    exact ih hws (addEndAround_lt ha hw)

theorem foldl_addEndAround_eq_zero_iff (ws : List Nat) (a : Nat) :
    ws.foldl addEndAround a = 0 ↔ a = 0 ∧ ∀ w ∈ ws, w = 0 := by
  induction ws generalizing a with
  | nil => simp
  | cons w ws ih => rw [List.foldl_cons, ih, addEndAround_eq_zero_iff, List.forall_mem_cons, and_assoc]

theorem foldl_addEndAround_perm {a b : List Nat} (h : a.Perm b) (hlt : ∀ w ∈ a, w < 65536) (c : Nat) :
    a.foldl addEndAround c = b.foldl addEndAround c :=
  h.foldl_eq' (fun v hv w hw z => addEndAround_right_comm (hlt v hv) (hlt w hw) z) c

/-! ### The digest and the set (R113, R117) -/

theorem toNat_digest (payload : List Byte) :
    (digest payload).toNat = (digestWords payload).foldl addEndAround 0 := by
  rw [digest, BitVec.toNat_ofNat, Nat.mod_eq_of_lt (foldl_addEndAround_lt (digestWords_lt payload) (by decide))]

theorem digest_eq_zero_iff (payload : List Byte) : digest payload = 0#16 ↔ ∀ x ∈ payload, x = 0#8 := by
  rw [← BitVec.toNat_inj, toNat_digest, BitVec.toNat_zero, foldl_addEndAround_eq_zero_iff, digestWords_all_zero_iff]
  exact and_iff_right rfl

theorem val_setIndex (e : EntryId) (d : Word16) : (setIndex e d).val = (d.toNat % 256) ^^^ (4 * e.val) := by
  have bound : 4 * e.val < 2 ^ 8 := by omega
  rw [setIndex, BitVec.val_toFin, BitVec.toNat_xor, BitVec.toNat_ofNat, BitVec.toNat_ofNat, Nat.mod_eq_of_lt bound]

theorem setIndex_injective {e f : EntryId} {d : Word16} (h : setIndex e d = setIndex f d) : e = f := by
  have values := congrArg Fin.val h
  rw [val_setIndex, val_setIndex, Nat.xor_right_inj] at values
  exact Fin.ext (by omega)

end Sys2Proof.Machine

end

section
/-! What offering an answer does (R112, R114, R118 to R122): statement O51. -/

namespace Sys2Proof.Machine

variable (s : State)

/-! ### The lookup (R118) -/

theorem findHit_eq_none_iff (e : EntryId) (payload : List Byte) :
    findHit s e payload = none ↔ ∀ w : Fin 2, ¬WayMatches s e payload w := by
  simp only [Fin.forall_fin_two, wayMatches_iff, findHit]
  split
  · split <;> simp_all
  · split <;> simp_all

/-- Of two ways that match, the one hit stores its payload where the other does not, or is way 0 (R118). -/
theorem findHit_eq_some {e : EntryId} {payload : List Byte} {w : Fin 2} (h : findHit s e payload = some w) :
    WayMatches s e payload w ∧ ∀ o : Fin 2, o ≠ w → WayMatches s e payload o →
      (WayStores s (setIndex e (digest payload)) w ∧ ¬WayStores s (setIndex e (digest payload)) o) ∨
      ((WayStores s (setIndex e (digest payload)) w ↔ WayStores s (setIndex e (digest payload)) o) ∧ w = 0) := by
  simp only [wayMatches_iff, wayStores_iff]
  simp only [findHit] at h
  split at h
  · next both =>
    obtain ⟨match0, match1⟩ := both
    split at h
    · next stored =>
      cases h
      refine ⟨match1, fun o ho _ => .inl ?_⟩
      obtain rfl : o = 0 := by omega
      exact stored
    · next stored =>
      cases h
      refine ⟨match0, fun o ho _ => ?_⟩
      obtain rfl : o = 1 := by omega
      by_cases stored0 : wayHasCell s (s.variantSet (setIndex e (digest payload))).ways[0] = true
      · by_cases stored1 : wayHasCell s (s.variantSet (setIndex e (digest payload))).ways[1] = true
        · exact .inr ⟨iff_of_true stored0 stored1, rfl⟩
        · exact .inl ⟨stored0, stored1⟩
      · exact .inr ⟨iff_of_false stored0 fun stored1 => stored ⟨stored1, stored0⟩, rfl⟩
  · next notBoth =>
    split at h
    · next match0 =>
      cases h
      refine ⟨match0, fun o ho match1 => ?_⟩
      obtain rfl : o = 1 := by omega
      exact absurd ⟨match0, match1⟩ notBoth
    · next match0 =>
      split at h <;> cases h
      next match1 =>
      refine ⟨match1, fun o ho hm => ?_⟩
      obtain rfl : o = 0 := by omega
      exact absurd hm match0

/-! ### A hit and a miss (R119 to R122) -/

theorem otherWay_eq_add_one (w : Fin 2) : otherWay w = w + 1 := by
  revert w; decide

/-- What a hit changes: the variant that way `w` holds, the record of the nest, and the mark (R119, R122). -/
theorem coalesceHit_spec {e : EntryId} {payload : List Byte} {w : Fin 2} {x : Way} (n : Nest)
    (hx : (s.variantSet (setIndex e (digest payload))).ways[w.val] = some x) {t : State}
    (ht : t = coalesceHit e n payload w s) :
    OnlyVariants s t ∧ RecordsIndex e n x.index s t ∧ t.mgmt = s.mgmt ∧ t.notice = s.notice ∧
    (∀ d : EntryId, t.entry d = if d = e
      then { s.entry e with
        variants := (s.entry e).variants.modify x.index (fun v => { v with nests := v.nests ||| NestSet.single n }) }
      else s.entry d) ∧
    t.coalesce = { s.coalesce with
      sets := upd s.coalesce.sets (setIndex e (digest payload)) (fun vs => { vs with lru := w + 1 }) } := by
  simp only [coalesceHit, hx, otherWay_eq_add_one] at ht
  subst ht
  exact ⟨rfl, recordsIndex_of s (u := s.updEntry e _) rfl rfl, rfl, rfl, fun d => entry_updEntry s e d _, rfl⟩

theorem fillWay_spec (vs : VariantSet) : (vs.ways[0] = none → fillWay vs = 0) ∧
    (vs.ways[0] ≠ none → vs.ways[1] = none → fillWay vs = 1) ∧
    (vs.ways[0] ≠ none → vs.ways[1] ≠ none → fillWay vs = vs.lru) := by
  unfold fillWay
  cases vs.ways[0] <;> cases vs.ways[1] <;> simp

/-- A miss evicts from the way it fills, creates a variant, and marks the other way (R120, R121, R122). -/
theorem coalesceMiss_spec (e : EntryId) (n : Nest) (payload : List Byte) {i : Fin 256}
    (hi : i = setIndex e (digest payload)) {w : Fin 2} (hw : w = fillWay (s.variantSet i)) :
    ∃ a b : State, Evicted i w s a ∧ VariantCreated e n payload (.resident i w) a b ∧
      coalesceMiss e n payload s = b.updVariantSet i (fun vs =>
        { ways := upd vs.ways w (fun _ => some
            { entry := e, digest := digest payload, length := payload.length,
              index := (s.entry e).variants.length }),
          lru := w + 1 }) := by
  refine ⟨_, _, evict_spec s i w, createVariant_spec _ e n payload _, ?_⟩
  subst hi hw
  unfold coalesceMiss
  simp only [otherWay_eq_add_one] <;> rfl

/-! ### The nest sets of an entry's variants (R112) -/

/-- The nest sets of `vs'` are disjoint, and nest `n` is in one of them (R112). -/
def NestJoined (n : Nest) (vs' : List Variant) : Prop :=
  DisjointNests vs' ∧ ∃ v ∈ vs', NestSet.has v.nests n = true

theorem disjointNests_congr {vs vs' : List Variant} (h : vs'.map Variant.nests = vs.map Variant.nests) :
    DisjointNests vs' ↔ DisjointNests vs := by
  have onNests : ∀ l : List Variant, DisjointNests l ↔ (l.map Variant.nests).Pairwise
      (fun a b => ∀ n : Nest, ¬(NestSet.has a n = true ∧ NestSet.has b n = true)) :=
    fun l => by rw [List.pairwise_map]; rfl
  rw [onNests, onNests, h]

theorem no_variant_has_congr {vs vs' : List Variant} (h : vs'.map Variant.nests = vs.map Variant.nests) (n : Nest) :
    (∀ v ∈ vs', NestSet.has v.nests n = false) ↔ ∀ v ∈ vs, NestSet.has v.nests n = false := by
  have onNests : ∀ l : List Variant,
      (∀ v ∈ l, NestSet.has v.nests n = false) ↔ ∀ S ∈ l.map Variant.nests, NestSet.has S n = false :=
    fun l => by rw [List.forall_mem_map]
  rw [onNests, onNests, h]

/-- A variant of nest `n` alone joins variants that do not hold it (R114, R120). -/
theorem nestJoined_append {n : Nest} {vs : List Variant} {v : Variant} (hv : v.nests = NestSet.single n)
    (disjoint : DisjointNests vs) (free : ∀ v ∈ vs, NestSet.has v.nests n = false) : NestJoined n (vs ++ [v]) := by
  refine ⟨List.pairwise_append.mpr ⟨disjoint, List.pairwise_singleton _ _, ?_⟩, v, by simp, ?_⟩
  · intro a ha b hb m ⟨hasA, hasB⟩
    rw [List.mem_singleton.mp hb, hv, NestSet_has_single, decide_eq_true_iff] at hasB
    rw [hasB, free a ha] at hasA
    cases hasA
  · rw [hv, NestSet_has_single]; simp

theorem VariantCreated.nestJoined {s t : State} {e : EntryId} {n : Nest} {payload : List Byte} {place : Residence}
    (h : VariantCreated e n payload place s t) (disjoint : DisjointNests (s.entry e).variants)
    (free : ∀ v ∈ (s.entry e).variants, NestSet.has v.nests n = false) : NestJoined n (t.entry e).variants := by
  obtain ⟨-, -, v, -, -, nests, -, entry, -⟩ := h
  rw [entry, if_pos rfl]
  exact nestJoined_append nests disjoint free

/-- Nest `n` joins one of the variants, none of which holds it (R119). -/
theorem nestJoined_modify {n : Nest} {vs : List Variant} {k : Nat} (hk : k < vs.length)
    (disjoint : DisjointNests vs) (free : ∀ v ∈ vs, NestSet.has v.nests n = false) :
    NestJoined n (vs.modify k (fun v => { v with nests := NestSet.insert v.nests n })) := by
  have has : ∀ (j : Nat) (hj : j < vs.length) (m : Nest), NestSet.has
      ((vs.modify k (fun v => { v with nests := NestSet.insert v.nests n }))[j]'(by simpa using hj)).nests m =
        (NestSet.has vs[j].nests m || decide (k = j ∧ m = n)) := fun j hj m => by
    rw [List.getElem_modify]
    split
    · next hkj => simp [NestSet.has_insert, hkj]
    · next hkj => simp [hkj]
  constructor
  · refine List.pairwise_iff_getElem.mpr fun i j hi hj hij m => ?_
    rw [List.length_modify] at hi hj
    have apart := List.pairwise_iff_getElem.mp disjoint i j hi hj hij m
    have freeI := free vs[i] (List.getElem_mem hi)
    have freeJ := free vs[j] (List.getElem_mem hj)
    rw [has i hi, has j hj]
    by_cases hm : m = n
    · subst hm
      simp only [freeI, freeJ, Bool.false_or, decide_eq_true_iff]
      omega
    · simpa [hm] using apart
  · exact ⟨_, List.getElem_mem (by simpa using hk), (has k hk n).trans (by simp)⟩

/-- An offer to an entry that keeps replies, none of whose variants holds the nest, joins the nest to one of them and
keeps their nest sets disjoint (R112). -/
theorem nestJoined_offerAnswer {e : EntryId} {n : Nest} (payload : List Byte) (hc : (s.entry e).capture ≠ .none)
    (disjoint : DisjointNests (s.entry e).variants)
    (free : ∀ v ∈ (s.entry e).variants, NestSet.has v.nests n = false) :
    NestJoined n ((offerAnswer e n payload s).entry e).variants := by
  unfold offerAnswer
  split
  · contradiction
  · exact (createVariant_spec s e n payload .uncached).nestJoined disjoint free
  · split
    · next w hit =>
      obtain ⟨x, v, hx, -, -, -, hv, -⟩ := (findHit_eq_some s hit).1
      obtain ⟨-, -, -, -, entry, -⟩ := coalesceHit_spec s n hx rfl
      rw [entry, if_pos rfl]
      exact nestJoined_modify (List.getElem?_eq_some_iff.mp hv).1 disjoint free
    · obtain ⟨a, b, evicted, created, hb⟩ := coalesceMiss_spec s e n payload rfl rfl
      have nests := nests_evict evicted e
      rw [hb, entry_congr (updVariantSet_table ..)]
      exact created.nestJoined ((disjointNests_congr nests).mpr disjoint) ((no_variant_has_congr nests n).mpr free)

/-- Settles O51: the digest from its words, the set by its low byte, and an offer by the capture: nothing, a variant
created, or what the lookup finds. -/
theorem digestAndSet : Obligations.DigestAndSet := by
  refine ⟨fun _ _ => rfl, fun payload => by rw [toNat_digest, digestWords_eq_map],
    fun a b h hlt => foldl_addEndAround_perm h hlt 0, fun payload _ => digest_eq_zero_iff payload,
    fun e f d => ⟨val_setIndex e d, setIndex_injective⟩, ?_⟩
  rintro s t e n payload i rfl ht
  refine ⟨fun hc => ?_, fun hc => ?_,
    fun hc => ⟨findHit_eq_none_iff s e payload, fun w => findHit_eq_some s, ?_, ?_⟩,
    fun hc disjoint free => ht ▸ nestJoined_offerAnswer s payload hc disjoint free⟩
  · exact ht.trans ((offerAnswer_spec s e n payload).2 hc)
  · rw [ht]; simp only [offerAnswer, hc]
    exact createVariant_spec s e n payload .uncached
  · intro w x hit hx
    simp only [offerAnswer, hc, hit] at ht
    exact coalesceHit_spec s n hx ht
  · intro miss
    simp only [offerAnswer, hc, miss] at ht
    obtain ⟨a, b, evicted, created, hb⟩ := coalesceMiss_spec s e n payload rfl rfl
    obtain ⟨fills0, fills1, fillsMark⟩ := fillWay_spec (s.variantSet (setIndex e (digest payload)))
    exact ⟨_, a, b, fills0, fills1, fillsMark, evicted, created, ht.trans hb⟩

end Sys2Proof.Machine

end

section
/-! What a command can do to the uplink's queues and to what is owed to them: for statement O56. -/

namespace Sys2Proof.Machine

variable {s t u : State}

/-! ### The queues and what is owed to them (R131, R175, R177, R179) -/

/-- What `QueuesOk` speaks of. -/
def traffic (s : State) : Uplink × Dispatcher × Option Retirement := (s.uplink, s.dispatcher, s.retire.progress)

theorem traffic_eq_iff : traffic t = traffic s ↔
    t.uplink = s.uplink ∧ t.dispatcher = s.dispatcher ∧ t.retire.progress = s.retire.progress := by
  simp [traffic]

theorem owedResponses_congr (h : t.dispatcher.task = s.dispatcher.task) : owedResponses t = owedResponses s := by
  unfold owedResponses; rw [h]

theorem owedSegments_congr (h : t.retire.progress = s.retire.progress) : owedSegments t = owedSegments s := by
  unfold owedSegments; rw [h]

theorem owedResponses_le_one (s : State) : owedResponses s ≤ 1 := by
  unfold owedResponses; split <;> omega

theorem owedResponses_of_none (h : s.dispatcher.task = none) : owedResponses s = 0 := by
  simp [owedResponses, h]

theorem owedResponses_of_some {x : Task} (h : s.dispatcher.task = some x) : owedResponses s = 1 := by
  simp [owedResponses, h]

theorem owedSegments_of_none (h : s.retire.progress = none) : owedSegments s = 0 := by
  simp only [owedSegments, h]

theorem owedSegments_of_some {r : Retirement} (h : s.retire.progress = some r) :
    owedSegments s = r.header.segmentCount - r.next := by simp only [owedSegments, h]

/-- No queue holds more in `t` than in `s`, up to `k` responses, given or owed, and the retirement in progress is the
same. -/
structure Grows (k : Nat) (s t : State) : Prop where
  rx : t.uplink.rx.length ≤ s.uplink.rx.length
  response : t.uplink.response.length + owedResponses t ≤ s.uplink.response.length + owedResponses s + k
  notice : t.uplink.notice.length ≤ s.uplink.notice.length
  report : t.uplink.report.length ≤ s.uplink.report.length
  chatter : t.uplink.chatter.length ≤ s.uplink.chatter.length
  progress : t.retire.progress = s.retire.progress

namespace Grows

variable {k : Nat}

theorem of_traffic (h : traffic t = traffic s) : Grows k s t := by
  obtain ⟨uplink, dispatcher, progress⟩ := traffic_eq_iff.mp h
  have owed := owedResponses_congr (congrArg Dispatcher.task dispatcher)
  exact ⟨by rw [uplink], by rw [uplink, owed]; omega, by rw [uplink], by rw [uplink], by rw [uplink], progress⟩

theorem refl (s : State) : Grows k s s := of_traffic rfl

/-- What grows the queues may come behind what leaves them as they are. -/
theorem behind (g : Grows k t u) (h : traffic t = traffic s) : Grows k s u := by
  obtain ⟨uplink, dispatcher, progress⟩ := traffic_eq_iff.mp h
  have owed := owedResponses_congr (congrArg Dispatcher.task dispatcher)
  obtain ⟨rx, response, notice, report, chatter, same⟩ := g
  rw [uplink] at rx response notice report chatter
  exact ⟨rx, owed ▸ response, notice, report, chatter, same.trans progress⟩

theorem trans_zero (g : Grows 0 s t) (h : Grows k t u) : Grows k s u where
  rx := h.rx.trans g.rx
  response := by have := g.response; have := h.response; omega
  notice := h.notice.trans g.notice
  report := h.report.trans g.report
  chatter := h.chatter.trans g.chatter
  progress := h.progress.trans g.progress

theorem ite {p : Prop} [Decidable p] (h : p → Grows k s t) (h' : ¬p → Grows k s u) :
    Grows k s (if p then t else u) := by
  split
  · exact h ‹_›
  · exact h' ‹_›

/-- With room for the responses gained every queue stays within its capacity (R175, R177, R179). -/
theorem queuesOk (g : Grows k s t) (room : s.uplink.response.length + owedResponses s + k ≤ Config.responseCapacity)
    (h : QueuesOk s) : QueuesOk t := by
  obtain ⟨rx, -, notice, report, chatter, placing⟩ := h
  refine ⟨g.rx.trans rx, g.response.trans room, g.notice.trans notice, ?_, g.chatter.trans chatter, ?_⟩
  · rw [owedSegments_congr g.progress]
    exact (Nat.add_le_add_right g.report _).trans report
  · rw [g.progress]; exact placing

/-- A response given is one response more (R177). -/
theorem respond (r : Req) (x : Status) (result : List Byte) (s : State) : Grows 1 s (respond r x result s) where
  rx := by simp [Machine.respond, finishMessage]
  response := by
    rw [owedResponses_congr (t := Machine.respond r x result s) (s := s) rfl]
    simp only [Machine.respond, finishMessage, List.length_append, List.length_singleton]
    omega
  notice := le_rfl
  report := le_rfl
  chatter := le_rfl
  progress := rfl

/-- A task begun owes one response at most (R146, R152). -/
theorem owes {d : Dispatcher} (h : traffic t = traffic s) : Grows 1 s { t with dispatcher := d } := by
  refine behind (t := t) ⟨le_rfl, ?_, le_rfl, le_rfl, le_rfl, rfl⟩ h
  have := owedResponses_le_one { t with dispatcher := d }
  show t.uplink.response.length + _ ≤ _
  omega

/-- A task that goes on owes what it owed. -/
theorem goesOn {d : Dispatcher} (h : s.dispatcher.task ≠ none) : Grows 0 s { s with dispatcher := d } := by
  obtain ⟨x, hx⟩ := Option.ne_none_iff_exists'.mp h
  refine ⟨le_rfl, ?_, le_rfl, le_rfl, le_rfl, rfl⟩
  have := owedResponses_le_one { s with dispatcher := d }
  rw [owedResponses_of_some hx]
  show s.uplink.response.length + _ ≤ _
  omega

/-- The response that a task owed is given, and the task is gone (R150, R152). -/
theorem settles (r : Req) (x : Status) (result : List Byte) (h : s.dispatcher.task ≠ none) :
    Grows 0 s (Machine.respond r x result { s with dispatcher := { s.dispatcher with task := none } }) := by
  obtain ⟨y, hy⟩ := Option.ne_none_iff_exists'.mp h
  obtain ⟨rx, response, notice, report, chatter, progress⟩ :=
    respond r x result { s with dispatcher := { s.dispatcher with task := none } }
  refine ⟨rx, ?_, notice, report, chatter, progress⟩
  rw [owedResponses_of_some hy]
  rw [owedResponses_of_none (s := { s with dispatcher := { s.dispatcher with task := none } }) rfl] at response
  exact response

end Grows

/-- What gains no response keeps every queue within its capacity. -/
theorem QueuesOk.grows (h : QueuesOk s) (g : Grows 0 s t) : QueuesOk t := by
  obtain ⟨-, response, -⟩ := id h
  exact g.queuesOk response h

end Sys2Proof.Machine

end

section
/-! The operations that leave the uplink's queues, and what is owed to them, as they are: for statement O56. -/

namespace Sys2Proof.Machine

variable (s : State)

/-- An operation carried out for each element of a list leaves the queues, if it leaves them each time. -/
theorem traffic_foldl {α : Type} {f : State → α → State} (h : ∀ t a, traffic (f t a) = traffic t) (l : List α)
    (s : State) : traffic (l.foldl f s) = traffic s := by
  induction l generalizing s with
  | nil => rfl
  | cons a l ih => exact (ih (f s a)).trans (h s a)

theorem traffic_absenceRule (n : Nest) : traffic (absenceRule n s) = traffic s := by simp [traffic]

theorem traffic_trainIfReady (n : Nest) : traffic (trainIfReady n s) = traffic s := by simp [traffic]

theorem traffic_linkDown (n : Nest) : traffic (linkDown n s) = traffic s := by simp [traffic]

theorem traffic_countBadFrame (n : Nest) : traffic (countBadFrame n s) = traffic s := by simp [traffic]

theorem traffic_countLate (n : Nest) : traffic (countLate n s) = traffic s := by simp [traffic]

theorem traffic_trainAll : traffic (trainAll s) = traffic s :=
  traffic_foldl traffic_trainIfReady _ s

theorem traffic_updPort (n : Nest) (f : NestPort → NestPort) : traffic (s.updPort n f) = traffic s := rfl

theorem traffic_applyEnable (mask : NestSet) : traffic (applyEnable mask s) = traffic s :=
  traffic_foldl (fun t n => traffic_updPort t n _) _ s

/-! ### The lane, and answers -/

theorem traffic_takeWelcome (n : Nest) (id : Word32) (present : Bool) :
    traffic (takeWelcome n id present s) = traffic s := by
  unfold takeWelcome
  split <;> simp [traffic]

theorem traffic_takeNote (n : Nest) (code : Word16) : traffic (takeNote n code s) = traffic s := by
  unfold takeNote; dsimp only
  split <;> rfl

theorem traffic_judgeAnswer (e : EntryId) (n : Nest) (payload : List Byte) (final : Bool) :
    traffic (judgeAnswer e n payload final s).1 = traffic s := by
  obtain ⟨t, o, h, frame, -⟩ := judgeAnswer_spec s e n payload final
  rw [h]; dsimp only; rw [frame]; rfl

theorem traffic_endByAnswer (n : Nest) (c : Copy) (runs : Nat) (o : CopyOutcome) (payload : List Byte) :
    traffic (endByAnswer n c runs o payload s) = traffic s := by
  unfold endByAnswer
  obtain ⟨⟨frame, -⟩, -⟩ := offerAnswer_spec (deliverStopFailure n c.entry o (finishCopy n c.entry runs o
    (s.updPort n fun p => { p with queue := p.queue.tail, service := .idle }))) c.entry n payload
  rw [frame]
  simp [traffic]

theorem traffic_takeAnswer (n : Nest) (c : Copy) (status : Byte) (payload : List Byte) :
    traffic (takeAnswer n c status payload s) = traffic s := by
  rw [takeAnswer_eq]
  split
  · exact traffic_endByAnswer ..
  · split
    · rw [nextRun_eq]; exact traffic_judgeAnswer ..
    · exact (traffic_endByAnswer ..).trans (traffic_judgeAnswer ..)

theorem traffic_classifyAnswer (n : Nest) (tag : Word16) (status : Byte) (payload : List Byte) :
    traffic (classifyAnswer n tag status payload s) = traffic s := by
  unfold classifyAnswer
  split
  · split
    · split
      · exact traffic_takeAnswer ..
      · rfl
    · exact traffic_countLate s n
  · split <;> simp [traffic]
  all_goals exact traffic_countLate s n

theorem traffic_expireDeadline (n : Nest) (c : Copy) (tag : Word16) :
    traffic (expireDeadline n c tag s) = traffic s := by simp [expireDeadline, traffic]

/-! ### Tables and streams -/

theorem traffic_storeNestConfig (n : Nest) (c : NestConfig) : traffic (storeNestConfig n c s) = traffic s := by
  unfold storeNestConfig; dsimp only
  split
  · exact traffic_linkDown ..
  · split
    · exact traffic_trainIfReady ..
    · rfl

theorem traffic_drainStream (st : StreamId) : traffic (drainStream st s) = traffic s := by
  rw [drainStream_eq]; rfl

/-! ### Acceptance and retirement -/

theorem traffic_testPayloadLow (before : Nat) : traffic (testPayloadLow before s) = traffic s := by
  unfold testPayloadLow; dsimp only
  split <;> rfl

theorem traffic_acceptInto (e : EntryId) (q : StepReq) (target : NestSet) (r : Fin 64) :
    traffic (acceptInto e q target r s) = traffic s := by
  have enlisted : traffic (enlist e q target r s) = traffic s := by rw [(enlist_spec e q target r s).frame]; rfl
  rw [acceptInto_eq, traffic_foldl fun t n => traffic_absenceRule t n]
  unfold accepted; dsimp only
  rw [traffic_testPayloadLow]
  split
  · rw [← enlisted]; simp [traffic, completeEmpty]
  · exact enlisted

end Sys2Proof.Machine

end

section
/-! The requests, each with one response at most, given or owed (R177, R181): for statement O56. -/

namespace Sys2Proof.Machine

variable {s t u : State}

/-- The Dispatcher takes a message only with no request under way (R177, R178). -/
theorem task_of_headMessage {f : RxFrame} (h : headMessage s = some f) : s.dispatcher.task = none := by
  unfold headMessage at h
  split at h
  · next idle =>
    obtain ⟨-, task, -⟩ := idle
    exact task
  · cases h

/-- A request is taken only with room in the RESPONSE queue and no request under way (R177, R178). -/
theorem headRequest_eq_some {p : List Byte → Bool} {f : RxFrame} (h : headRequest p s = some f) :
    s.uplink.response.length < Config.responseCapacity ∧ s.dispatcher.task = none := by
  unfold headRequest at h
  split at h
  · next room => exact ⟨of_decide_eq_true room, task_of_headMessage (Option.filter_eq_some_iff.mp h).1⟩
  · cases h

/-- A request with one response at most keeps every queue within its capacity (R177). -/
theorem QueuesOk.runRequest {p : List Byte → Bool} {act : Req → List Byte → State → State}
    (ha : ∀ r args u, Grows 1 u (act r args u)) (hs : QueuesOk s) (h : runRequest p act s = .next t) : QueuesOk t := by
  unfold Machine.runRequest at h
  split at h <;> cases h
  case h_2 => exact hs
  next f hf =>
    obtain ⟨room, idle⟩ := headRequest_eq_some hf
    have passed : QueuesOk (passMessage f s) := hs
    refine (ha (reqOf f) _ (passMessage f s)).queuesOk ?_ passed
    rw [owedResponses_of_none (s := passMessage f s) idle]
    exact room

namespace Grows

theorem withTable {act : Table → Req → List Byte → State → State} (h : ∀ x r args u, Grows 1 u (act x r args u))
    (r : Req) (args : List Byte) (u : State) : Grows 1 u (withTable act r args u) := by
  unfold Machine.withTable
  split
  · exact respond ..
  · exact respond ..
  · exact h ..

theorem withoutArgs {act : Req → State → State} (h : ∀ r u, Grows 1 u (act r u)) (r : Req) (args : List Byte)
    (u : State) : Grows 1 u (withoutArgs act r args u) := by
  unfold Machine.withoutArgs
  exact ite (fun _ => h ..) fun _ => respond ..

/-! ### The tables (R183, R184) -/

theorem writeRow {x : Table} {img : List Byte} (h : writeRow x img s = .written t) : Grows 0 s t := by
  cases x <;> simp only [Machine.writeRow] at h
  case group =>
    unfold writeGroupRow at h
    split at h <;> cases h
    exact of_traffic rfl
  case profile =>
    unfold writeProfileRow at h; dsimp only at h
    repeat' split at h
    all_goals cases h
    all_goals exact of_traffic rfl
  case codeSet =>
    unfold writeCodeSetRow at h
    split at h
    · split at h <;> cases h
      exact of_traffic rfl
    · cases h
  case nestConfig =>
    unfold writeNestConfigRow at h; dsimp only at h
    split at h
    · split at h <;> cases h
      exact of_traffic (traffic_storeNestConfig ..)
    · cases h
  case allowList =>
    unfold writeAllowRow at h; dsimp only at h
    split at h
    · split at h <;> cases h
      exact ⟨le_rfl, le_rfl, le_rfl, le_rfl, le_rfl, rfl⟩
    · cases h
  case settings =>
    unfold writeSettingsRow at h; dsimp only at h
    split at h <;> cases h
    exact of_traffic rfl

theorem writeRows (x : Table) (r : Req) (imgs : List (List Byte)) (done : Nat) (s : State) :
    Grows 1 s (writeRows x r done imgs s) := by
  induction imgs generalizing done s with
  | nil => exact respond ..
  | cons img rest ih =>
    unfold Machine.writeRows
    split
    · next h => exact (writeRow h).trans_zero (ih ..)
    · exact respond ..

theorem putRowsOf (x : Table) (r : Req) (args : List Byte) (s : State) : Grows 1 s (putRowsOf x r args s) := by
  unfold Machine.putRowsOf
  exact ite (fun _ => respond ..) fun _ => writeRows ..

theorem getRowsOf (x : Table) (r : Req) (args : List Byte) (s : State) : Grows 1 s (getRowsOf x r args s) := by
  unfold Machine.getRowsOf
  refine ite (fun _ => respond ..) fun _ => ?_
  split <;> exact respond ..

/-! ### Nest actions (R152 to R157) and the slots (R171) -/

theorem answerAction (r : Req) (n : Nest) (a : NestAction) (halted : Option (StreamId × Word16)) (sent : Bool)
    (voided : Nat) (s : State) : Grows 1 s (answerAction r n a halted sent voided s) := respond ..

theorem actHalt (r : Req) (n : Nest) (s : State) : Grows 1 s (actHalt r n s) :=
  (answerAction ..).behind (by simp [traffic])

theorem actCycle (r : Req) (n : Nest) (s : State) : Grows 1 s (actCycle r n s) :=
  (answerAction ..).behind (by simp [traffic])

theorem actExclude (r : Req) (n : Nest) (s : State) : Grows 1 s (actExclude r n s) := by
  unfold Machine.actExclude
  exact ite (fun _ => (answerAction ..).behind (by simp [traffic])) fun _ => (answerAction ..).behind (by simp [traffic])

theorem actInclude (r : Req) (n : Nest) (s : State) : Grows 1 s (actInclude r n s) := (answerAction ..).behind rfl

theorem actRetrain (r : Req) (n : Nest) (s : State) : Grows 1 s (actRetrain r n s) := by
  have link : traffic (trainIfReady n (linkDown n s)) = traffic s := by simp [traffic]
  unfold Machine.actRetrain
  exact ite (fun _ => (answerAction ..).behind link) fun _ => owes link

theorem releaseSlot (n : Nest) (r : Req) (s : State) : Grows 1 s (releaseSlot n r s) := by
  unfold Machine.releaseSlot; dsimp only
  split
  · exact (respond ..).behind rfl
  all_goals exact respond ..

end Grows

namespace QueuesOk

theorem nestAction {a : NestAction} {act : Req → Nest → State → State} (ha : ∀ r n u, Grows 1 u (act r n u)) :
    QueuesOk s → nestAction a act s = .next t → QueuesOk t :=
  runRequest fun r args u => by
    split
    · exact ha ..
    · exact .respond ..

theorem requestUnknownCode : QueuesOk s → execRequestUnknownCode s = .next t → QueuesOk t :=
  runRequest fun _ _ _ => .respond ..

theorem putRows {x : Table} : QueuesOk s → putRows x s = .next t → QueuesOk t :=
  runRequest (.withTable .putRowsOf)

theorem getCounters : QueuesOk s → execGetCounters s = .next t → QueuesOk t :=
  runRequest fun _ _ _ => by split <;> exact .respond ..

theorem getCountersClear : QueuesOk s → execGetCountersClear s = .next t → QueuesOk t :=
  runRequest fun _ _ _ => by
    split
    · exact (Grows.respond ..).behind rfl
    · exact .respond ..

theorem openLot : QueuesOk s → execOpenLot s = .next t → QueuesOk t :=
  runRequest fun _ _ _ => by
    split
    · exact .respond ..
    · exact .ite (fun _ => .respond ..) fun _ => .ite (fun _ => .respond ..) fun _ => (Grows.respond ..).behind rfl

theorem closeLot : QueuesOk s → execCloseLot s = .next t → QueuesOk t :=
  runRequest (.withoutArgs fun _ _ => .ite (fun _ => .respond ..) fun _ => .ite (fun _ => .respond ..) fun _ =>
    (Grows.respond ..).behind rfl)

theorem abortStream : QueuesOk s → execAbortStream s = .next t → QueuesOk t :=
  runRequest fun _ _ u => by
    split
    · exact .respond ..
    · next st _ => exact .owes ((rfl : _ = traffic (drainStream st u)).trans (traffic_drainStream u st))

theorem releaseAttention : QueuesOk s → execReleaseAttention s = .next t → QueuesOk t :=
  runRequest fun _ _ _ => by
    split
    · exact .releaseSlot ..
    · exact .respond ..

theorem restart : QueuesOk s → execRestart s = .next t → QueuesOk t :=
  runRequest (.withoutArgs fun r u =>
    have ⟨rx, response, notice, report, chatter, progress⟩ := Grows.respond r .ok (byte (entriesInUse u)) u
    ⟨rx, response, notice, report, chatter, progress⟩)

end QueuesOk

end Sys2Proof.Machine

end

section
/-! The commands that are no requests, and statement O56. -/

namespace Sys2Proof.Machine

variable {s t : State}

namespace Grows

/-! ### The uplink (R180) -/

theorem dropSent_le (c : TxClass) (u : Uplink) : (dropSent c u).rx.length ≤ u.rx.length ∧
    (dropSent c u).response.length ≤ u.response.length ∧ (dropSent c u).notice.length ≤ u.notice.length ∧
    (dropSent c u).report.length ≤ u.report.length ∧ (dropSent c u).chatter.length ≤ u.chatter.length := by
  cases c <;> simp [dropSent]

theorem endSending (x : Sending) (s : State) : Grows 0 s (endSending x s) := by
  obtain ⟨rx, response, notice, report, chatter⟩ := dropSent_le x.cls s.uplink
  exact ⟨rx, Nat.add_le_add_right response _, notice, report, chatter, rfl⟩

theorem uplinkDown (s : State) : Grows 0 s (uplinkDown s) := by
  unfold Machine.uplinkDown; dsimp only
  split
  · next x _ =>
    obtain ⟨rx, response, notice, report, chatter, progress⟩ := endSending x s
    exact ⟨rx, response, notice, report, chatter, progress⟩
  · exact ⟨le_rfl, le_rfl, le_rfl, le_rfl, le_rfl, rfl⟩

/-! ### Tasks under way (R148, R150, R152) -/

theorem abortProgress (n : Nest) (r : Req) (st : StreamId) (marked halted voided : Nat) (left : NestSet)
    (h : s.dispatcher.task ≠ none) : Grows 0 s (abortProgress n r st marked halted voided left s) := by
  unfold Machine.abortProgress
  exact ite (fun _ => settles _ _ _ h) fun _ => goesOn h

theorem retrainProgress (n : Nest) (s : State) : Grows 0 s (retrainProgress n s) := by
  unfold Machine.retrainProgress
  split
  · next ht =>
    have task : s.dispatcher.task ≠ none := by rw [ht]; exact Option.some_ne_none _
    exact ite (fun _ => ite (fun _ => settles _ _ _ task) fun _ => goesOn task) fun _ => refl s
  all_goals exact refl s

/-! ### Resets (R187, R188, R189) -/

theorem endLoading (c : Configuration) (s : State) : Grows 0 s (endLoading c s) := by
  have enabled : Grows 0 s (applyEnable c.enable s) := of_traffic (traffic_applyEnable s _)
  unfold Machine.endLoading; dsimp only
  generalize applyEnable c.enable s = u at enabled ⊢
  have configured : Grows 0 u { u with
      phase := .running, uplink := { u.uplink with mac := c.mac, allow := c.allow, linkUp := u.phyUp },
      mgmt := { u.mgmt with fromFlash := c.fromFlash } } := ⟨le_rfl, le_rfl, le_rfl, le_rfl, le_rfl, rfl⟩
  exact enabled.trans_zero (configured.trans_zero (of_traffic (traffic_trainAll _)))

end Grows

namespace QueuesOk

/-- An event that takes place keeps the queues when what it does keeps them. -/
theorem takesPlace {b : Bool} {u : State} (hs : QueuesOk s) (h : takesPlace b s u = .next t)
    (hu : b = true → QueuesOk u) : QueuesOk t := by
  unfold Machine.takesPlace at h
  cases h
  split
  · exact hu ‹_›
  · exact hs

/-- An event that gains the queues nothing keeps them. -/
theorem event {b : Bool} {u : State} (hs : QueuesOk s) (h : Machine.takesPlace b s u = .next t) (g : Grows 0 s u) :
    QueuesOk t :=
  hs.takesPlace h fun _ => hs.grows g

theorem restartEvent (hs : QueuesOk s) (h : execRestartEvent s = .next t) : QueuesOk t := by
  have cleared : Grows 0 State.reset (restartState s) := ⟨le_rfl, le_rfl, le_rfl, le_rfl, le_rfl, rfl⟩
  exact hs.takesPlace h fun _ => queuesOk_reset.grows (cleared.trans_zero (.of_traffic (traffic_trainAll _)))

/-! ### Frames that join a queue (R10, R81, R164, R175) -/

theorem takeFrame (hs : QueuesOk s) (frame : List Byte) : QueuesOk (takeFrame frame s) := by
  unfold Machine.takeFrame
  split
  · exact hs.grows (.of_traffic rfl)
  · exact hs.grows (.of_traffic rfl)
  · split
    · next room =>
      obtain ⟨-, others⟩ := hs
      refine ⟨?_, others⟩
      rw [List.length_append, List.length_singleton]
      exact room
    · exact hs.grows (.of_traffic rfl)

theorem takeChat (hs : QueuesOk s) (n : Nest) (payload : List Byte) : QueuesOk (takeChat n payload s) := by
  unfold Machine.takeChat
  split
  · next room =>
    obtain ⟨rx, response, notice, report, -, placing⟩ := hs
    refine ⟨rx, response, notice, report, ?_, placing⟩
    rw [List.length_append, List.length_singleton]
    exact room.2
  · exact hs.grows (.of_traffic rfl)

theorem buildNotice (hs : QueuesOk s) (room : s.uplink.notice.length < Config.noticeCapacity) :
    QueuesOk (buildNotice s) := by
  obtain ⟨rx, response, -, report, chatter, placing⟩ := hs
  refine ⟨rx, response, ?_, report, chatter, placing⟩
  show (s.uplink.notice ++ [builtNotice s]).length ≤ _
  rw [List.length_append, List.length_singleton]
  exact room

/-- A REFUSAL joins the RESPONSE queue with room for it alone, no request being under way (R10, R177). -/
theorem refuseStep (hs : QueuesOk s) (idle : s.dispatcher.task = none) (f : RxFrame) (reason : RefusalReason)
    (detail : Nat) : QueuesOk (refuseStep f reason detail s) := by
  unfold Machine.refuseStep; dsimp only
  split
  · next room =>
    obtain ⟨rx, -, others⟩ := hs
    refine ⟨rx, ?_, others⟩
    show (s.uplink.response ++ [_]).length + owedResponses s ≤ _
    rw [owedResponses_of_none idle, List.length_append, List.length_singleton]
    exact room
  · exact hs.grows (.of_traffic rfl)

theorem finishMessage (hs : QueuesOk s) : QueuesOk (finishMessage s) := by
  refine hs.grows ⟨?_, le_rfl, le_rfl, le_rfl, le_rfl, rfl⟩
  simp [Machine.finishMessage]

theorem step (hs : QueuesOk s) (h : execStep s = .next t) : QueuesOk t := by
  unfold execStep at h
  split at h <;> cases h
  case h_2 => exact hs
  next f hf =>
    have passed : QueuesOk (passMessage f s) := hs
    refine finishMessage ?_
    unfold takeStep
    split
    · exact passed.refuseStep (task_of_headMessage (Option.filter_eq_some_iff.mp hf).1) ..
    · split
      · exact passed.grows (.of_traffic (traffic_acceptInto ..))
      · exact passed

/-! ### Segments (R131, R133, R134, R135) -/

/-- A retirement starts with room in the REPORT queue for every segment it then owes (R133, R134). -/
theorem startRetirement (hs : QueuesOk s) {e : EntryId} (he : retirable s = some e) :
    QueuesOk (startRetirement e s) := by
  obtain ⟨-, -, -, room, -⟩ := retirable_eq_some s he
  have count : (startedRetirement e s).header.segmentCount = segmentCount (s.entry e) := by
    show segmentCount ((reporting e s).entry e) = _
    rw [entry_reporting, if_pos rfl]; rfl
  have started : (Machine.startRetirement e s).retire.progress = some (startedRetirement e s) := rfl
  obtain ⟨rx, response, notice, -, chatter, -⟩ := hs
  refine ⟨rx, response, notice, ?_, chatter, fun r hr => ?_⟩
  · rw [owedSegments_of_some started, count]
    exact (segmentCount_le_reportRoom s e).mp room
  · cases started.symm.trans hr
    rw [count]; exact segmentCount_pos _

/-- A segment placed is one that was owed, and with the last the retirement is over (R135, R136). -/
theorem placeSegment (hs : QueuesOk s) {r : Retirement} (hr : s.retire.progress = some r) :
    QueuesOk (placeSegment r s) := by
  obtain ⟨rx, response, notice, report, chatter, placing⟩ := hs
  have next := placing r hr
  rw [owedSegments_of_some hr] at report
  have placed : (segmentQueued r s).uplink.report.length = s.uplink.report.length + 1 := List.length_append
  rcases Nat.lt_or_eq_of_le (Nat.succ_le_of_lt next) with more | last
  · rw [placeSegment_not_last more]
    refine ⟨rx, response, notice, ?_, chatter, fun x hx => ?_⟩
    · rw [owedSegments_of_some rfl]
      show (segmentQueued r s).uplink.report.length + (r.header.segmentCount - (r.next + 1)) ≤ _
      omega
    · cases hx; exact more
  · have ended : (endRetirement r.entry (segmentQueued r s)).retire.progress = none := by
      rw [endRetirement_eq, chooseCandidate_retire_progress, retired_progress]
    rw [placeSegment_last last]
    have frame := endRetirement_frame r.entry (segmentQueued r s)
    generalize endRetirement r.entry (segmentQueued r s) = u at ended frame ⊢
    have uplink : u.uplink = (segmentQueued r s).uplink := by rw [frame]
    have owed : owedResponses u = owedResponses s := owedResponses_congr (by rw [frame]; rfl)
    unfold QueuesOk
    rw [uplink, owed, owedSegments_of_none ended, ended]
    refine ⟨rx, response, notice, ?_, chatter, nofun⟩
    omega

theorem segmentPlaced (hs : QueuesOk s) (h : execSegmentPlaced s = .next t) : QueuesOk t := by
  unfold execSegmentPlaced at h
  split at h
  · next hr => exact hs.takesPlace h fun _ => hs.placeSegment hr
  · cases h; exact hs

/-! ### Events that give way to another operation -/

theorem streamHaltAndVoid {n : Nest} (hs : QueuesOk s) (h : execStreamHaltAndVoid n s = .next t) : QueuesOk t := by
  unfold execStreamHaltAndVoid at h
  split at h
  · next st _ _ _ _ ht =>
    have task : (haltAndVoid n st s).dispatcher.task ≠ none := by
      rw [haltAndVoid_dispatcher, ht]; exact Option.some_ne_none _
    exact hs.event h ((Grows.abortProgress _ _ _ _ _ _ _ task).behind (by simp [traffic, haltAndVoid]))
  all_goals cases h; exact hs

theorem uplinkFrameSent (hs : QueuesOk s) (h : execUplinkFrameSent s = .next t) : QueuesOk t := by
  unfold execUplinkFrameSent at h
  split at h
  · exact hs.event h (.endSending ..)
  · cases h; exact hs

theorem uplinkLinkChange {up : Bool} (hs : QueuesOk s) (h : execUplinkLinkChange up s = .next t) : QueuesOk t := by
  cases h
  have seen : QueuesOk { s with phyUp := up } := hs
  split
  · split
    · exact seen
    · exact seen.grows (.uplinkDown _)
  · exact seen

end QueuesOk

/-- Every command keeps every queue of the uplink within its capacity. -/
theorem exec_queuesOk (c : Instr) (hs : QueuesOk s) (h : exec c s = .next t) : QueuesOk t := by
  cases c with
  | powerOn strap => cases h; exact queuesOk_reset.grows ⟨le_rfl, le_rfl, le_rfl, le_rfl, le_rfl, rfl⟩
  | resetPin strap => cases h; exact queuesOk_reset.grows ⟨le_rfl, le_rfl, le_rfl, le_rfl, le_rfl, rfl⟩
  | loadingEnd flash => exact hs.event h (.endLoading ..)
  | frameReceived frame => exact hs.takesPlace h fun _ => hs.takeFrame frame
  | requestWaiting => exact hs.event h ⟨le_rfl, le_rfl, le_rfl, le_rfl, le_rfl, rfl⟩
  | step => exact hs.step h
  | requestUnknownCode => exact hs.requestUnknownCode h
  | describe => exact .runRequest (.withoutArgs fun _ _ => .respond ..) hs h
  | putRowsGroup | putRowsProfile | putRowsCodeSet | putRowsNestConfig | putRowsAllowList | putRowsSettings =>
    exact hs.putRows h
  | getRows => exact .runRequest (.withTable .getRowsOf) hs h
  | getCounters => exact hs.getCounters h
  | getCountersClear => exact hs.getCountersClear h
  | getState => exact .runRequest (.withoutArgs fun _ _ => .respond ..) hs h
  | openLot => exact hs.openLot h
  | closeLot => exact hs.closeLot h
  | abortStream => exact hs.abortStream h
  | streamHaltAndVoid n => exact hs.streamHaltAndVoid h
  | nestActionHalt => exact .nestAction .actHalt hs h
  | nestActionCycle => exact .nestAction .actCycle hs h
  | nestActionExclude => exact .nestAction .actExclude hs h
  | nestActionInclude => exact .nestAction .actInclude hs h
  | nestActionRetrain => exact .nestAction .actRetrain hs h
  | releaseAttention => exact hs.releaseAttention h
  | restart => exact hs.restart h
  | restartEvent => exact hs.restartEvent h
  | uplinkTransmitStart => exact hs.event h ⟨le_rfl, le_rfl, le_rfl, le_rfl, le_rfl, rfl⟩
  | uplinkFrameSent => exact hs.uplinkFrameSent h
  | uplinkLinkChange up => exact hs.uplinkLinkChange h
  | laneSignalPresent n =>
    cases h
    refine hs.grows (.of_traffic ?_)
    split
    · exact traffic_trainIfReady ..
    · rfl
  | laneSignalLost n =>
    cases h
    refine hs.grows (.of_traffic ?_)
    split
    · exact traffic_linkDown ..
    · rfl
  | greetRepeat n => exact hs.event h (.of_traffic rfl)
  | frameLeavesLane n => exact hs.event h (.of_traffic (by split <;> rfl))
  | badFrame n bytes => exact hs.event h (.of_traffic (traffic_countBadFrame s n))
  | welcome n id b =>
    refine hs.event h (.of_traffic ?_)
    split
    · exact traffic_takeWelcome ..
    · exact traffic_countBadFrame s n
  | presence n b =>
    refine hs.event h (.of_traffic ?_)
    split
    · split <;> simp [traffic]
    · exact traffic_countBadFrame s n
  | answer n tag status payload =>
    refine hs.event h (.of_traffic ?_)
    split
    · exact traffic_countBadFrame s n
    · split
      · exact traffic_classifyAnswer ..
      · rfl
  | stopped n tag => exact hs.event h (.of_traffic (by split <;> simp [traffic]))
  | note n code => exact hs.event h (.of_traffic (traffic_takeNote s n code))
  | chat n payload =>
    refine hs.takesPlace h fun _ => ?_
    split
    · exact hs.grows (.of_traffic (traffic_countBadFrame s n))
    · split
      · exact hs.takeChat ..
      · exact hs
  | startHead n =>
    change execStartHead n s = _ at h
    unfold execStartHead at h
    split at h <;> cases h
    · exact hs.grows (.of_traffic rfl)
    · exact hs
  | deadlineExpiry n =>
    change execDeadlineExpiry n s = _ at h
    unfold execDeadlineExpiry at h
    split at h <;> cases h
    · exact hs.grows (.of_traffic (traffic_expireDeadline ..))
    · exact hs
  | gapExpiry n =>
    change execGapExpiry n s = _ at h
    unfold execGapExpiry at h
    split at h <;> cases h
    · exact hs.grows (.of_traffic rfl)
    · exact hs
  | graceExpiry n => exact hs.event h (.of_traffic rfl)
  | stopFailure n => exact hs.event h (.of_traffic (by simp [traffic, dropEvent]))
  | absence n => exact hs.event h ((Grows.retrainProgress ..).behind (by simp [traffic, dropEvent]))
  | stall n => exact hs.event h (.of_traffic (by simp [traffic, dropEvent]))
  | voidInstruction n =>
    change execVoidInstruction n s = _ at h
    unfold execVoidInstruction at h
    split at h
    · exact hs.event h (.of_traffic (by simp [traffic]))
    · cases h; exact hs
  | outcomeDelivered n =>
    change execOutcomeDelivered n s = _ at h
    unfold execOutcomeDelivered at h
    split at h
    · exact hs.event h (.of_traffic rfl)
    · cases h; exact hs
  | retirementStart =>
    change execRetirementStart s = _ at h
    unfold execRetirementStart at h
    split at h <;> cases h
    · exact hs.startRetirement ‹_›
    · exact hs
  | segmentPlaced => exact hs.segmentPlaced h
  | noticeBuild =>
    refine hs.takesPlace h fun ready => hs.buildNotice ?_
    simp only [noticeReady, Bool.and_eq_true, decide_eq_true_eq] at ready
    exact ready.2
  | throttleExpiry => exact hs.event h (.of_traffic rfl)
  | timeSinceStartTick => exact hs.event h (.of_traffic rfl)
  | resetPinAssertion =>
    cases h
    exact hs.grows ⟨le_rfl, Nat.add_le_add_left (Nat.zero_le _) _, le_rfl, le_rfl, le_rfl, rfl⟩

/-- Settles O56: no command lets a queue grow beyond its capacity, what is owed to it counted in. -/
theorem stepKeepsQueues : Obligations.StepKeepsQueues := by
  intro s t hs h
  unfold Machine.step at h
  split at h
  · cases h; exact hs
  · next c rest _ =>
    have rest_ok : QueuesOk { s with pending := rest } := hs
    exact exec_queuesOk c rest_ok h

end Sys2Proof.Machine

end

section
/-! The packing of variants into segments (R132, R141, R142): statement O52. -/

namespace Sys2Proof.Machine

/-- The bytes of the body of a variant segment (R141). -/
def bodySize (g : List Variant) : Nat := (g.map variantSize).sum

theorem bodySize_cons (v : Variant) (g : List Variant) : bodySize (v :: g) = variantSize v + bodySize g := by
  simp [bodySize]

theorem bodySize_reverse (g : List Variant) : bodySize g.reverse = bodySize g := by
  simp [bodySize, List.map_reverse, List.sum_reverse]

theorem variantSize_le {v : Variant} (h : v.length ≤ Config.maxAnswer) : variantSize v ≤ 266 := by
  have : v.length ≤ 256 := h
  unfold variantSize
  split <;> omega

theorem bodySize_le {g : List Variant} (h : ∀ v ∈ g, variantSize v ≤ 266) : bodySize g ≤ g.length * 266 := by
  have := List.sum_le_card_nsmul (g.map variantSize) 266 (by simpa using h)
  simpa [bodySize] using this

/-- The first variant of segment `h` did not fit segment `g` (R142). -/
def Overfills (g h : List Variant) : Prop := ∀ v ∈ h.head?, Config.segmentPayload < bodySize g + variantSize v

/-! ### Packing, with the segment open (R142) -/

/-- With a segment open, the first segment begins with the variant that opened it. -/
theorem packVariants_head (vs cur : List Variant) (size : Nat) (h : cur ≠ []) :
    ∀ g ∈ (packVariants vs cur size).head?, g.head? = cur.getLast? := by
  induction vs, cur, size using packVariants.induct with
  | case1 => exact absurd rfl h
  | case2 =>
    rw [packVariants]
    rintro g ⟨⟩
    exact List.head?_reverse
  | case3 => exact absurd rfl h
  | case4 v vs c cs size fits ih =>
    rw [packVariants, if_pos fits]
    simpa using ih (List.cons_ne_nil _ _)
  | case5 v vs c cs size full ih =>
    rw [packVariants, if_neg full]
    rintro g ⟨⟩
    exact List.head?_reverse

/-- No segment is empty, and none is longer than a body may be, if the open one is not. -/
theorem packVariants_fits (vs cur : List Variant) (size : Nat) (hsize : size = bodySize cur)
    (hfit : size ≤ Config.segmentPayload) (hvs : ∀ v ∈ vs, variantSize v ≤ Config.segmentPayload) :
    ∀ g ∈ packVariants vs cur size, g ≠ [] ∧ bodySize g ≤ Config.segmentPayload := by
  have closes : ∀ c cs, bodySize (c :: cs) ≤ Config.segmentPayload →
      (c :: cs).reverse ≠ [] ∧ bodySize (c :: cs).reverse ≤ Config.segmentPayload := fun c cs hc =>
    ⟨by simp, by rwa [bodySize_reverse]⟩
  induction vs, cur, size using packVariants.induct with
  | case1 => simp [packVariants]
  | case2 c cs size =>
    rw [packVariants]
    simpa using closes c cs (hsize ▸ hfit)
  | case3 v vs size ih =>
    obtain ⟨hv, hrest⟩ := List.forall_mem_cons.mp hvs
    rw [packVariants]
    exact ih (by simp [bodySize]) hv hrest
  | case4 v vs c cs size fits ih =>
    obtain ⟨-, hrest⟩ := List.forall_mem_cons.mp hvs
    rw [packVariants, if_pos fits]
    exact ih (by rw [hsize, bodySize_cons v, Nat.add_comm]) fits hrest
  | case5 v vs c cs size full ih =>
    obtain ⟨hv, hrest⟩ := List.forall_mem_cons.mp hvs
    rw [packVariants, if_neg full]
    exact List.forall_mem_cons.mpr ⟨closes c cs (hsize ▸ hfit), ih (by simp [bodySize]) hv hrest⟩

/-- A segment is closed only when the next variant does not fit it. -/
theorem packVariants_greedy (vs cur : List Variant) (size : Nat) (hsize : size = bodySize cur) :
    (packVariants vs cur size).IsChain Overfills := by
  induction vs, cur, size using packVariants.induct with
  | case1 => simp [packVariants]
  | case2 => simp [packVariants]
  | case3 v vs size ih =>
    rw [packVariants]
    exact ih (by simp [bodySize])
  | case4 v vs c cs size fits ih =>
    rw [packVariants, if_pos fits]
    exact ih (by rw [hsize, bodySize_cons v, Nat.add_comm])
  | case5 v vs c cs size full ih =>
    rw [packVariants, if_neg full]
    refine List.isChain_cons.mpr ⟨fun g hg w hw => ?_, ih (by simp [bodySize])⟩
    rw [packVariants_head vs [v] (variantSize v) (List.cons_ne_nil _ _) g hg] at hw
    cases hw
    rw [bodySize_reverse, ← hsize]
    exact Nat.lt_of_not_le full

/-! ### The segments of a variant list -/

theorem variantSegments_fits {vs : List Variant} (h : ∀ v ∈ vs, variantSize v ≤ 266) :
    ∀ g ∈ variantSegments vs, g ≠ [] ∧ bodySize g ≤ Config.segmentPayload :=
  packVariants_fits vs [] 0 rfl (Nat.zero_le _) fun v hv => (h v hv).trans (by decide)

theorem variantSegments_greedy (vs : List Variant) : (variantSegments vs).IsChain Overfills :=
  packVariants_greedy vs [] 0 rfl

theorem mem_of_mem_variantSegments {vs g : List Variant} {v : Variant} (hg : g ∈ variantSegments vs) (hv : v ∈ g) :
    v ∈ vs := by
  rw [← variantSegments_flatten vs]
  exact List.mem_flatten_of_mem hg hv

/-- A segment with another behind it lacks less than one variant record to be full, and so holds five (R141, R142). -/
theorem full_of_overfills {g : List Variant} {v : Variant} {rest : List Variant} (hg : ∀ x ∈ g, variantSize x ≤ 266)
    (hv : variantSize v ≤ 266) (h : Overfills g (v :: rest)) :
    1472 < bodySize g + variantSize v ∧ 1206 < bodySize g ∧ 5 ≤ g.length := by
  have exceeds : 1472 < bodySize g + variantSize v := h v rfl
  have most := bodySize_le hg
  omega

/-- Where every segment but the last holds five variants, and the last one at least, the segments are at most a fifth of
the variants, rounded up. -/
theorem five_mul_length_le {segs : List (List Variant)} (ne : ∀ g ∈ segs, g ≠ [])
    (five : segs.IsChain fun g _ => 5 ≤ g.length) : 5 * segs.length ≤ segs.flatten.length + 4 := by
  induction segs with
  | nil => simp
  | cons g segs ih =>
    obtain ⟨hg, hrest⟩ := List.forall_mem_cons.mp ne
    have pos := List.length_pos_iff.mpr hg
    obtain ⟨first, others⟩ := List.isChain_cons.mp five
    have rest := ih hrest others
    rw [List.length_cons, List.flatten_cons, List.length_append]
    cases segs with
    | nil => simp; omega
    | cons h segs =>
      have := first h rfl
      omega

/-- Settles O52: in order by `variantSegments_flatten`, full but for the last by `variantSegments_greedy`, and so eight
at most. -/
theorem reportPacking : Obligations.ReportPacking := by
  intro vs hlen
  have size : ∀ v ∈ vs, variantSize v ≤ 266 := fun v hv => variantSize_le (hlen v hv)
  have fits := variantSegments_fits size
  have full : ∀ g v rest, g ∈ variantSegments vs → v :: rest ∈ variantSegments vs → Overfills g (v :: rest) →
      1472 < bodySize g + variantSize v ∧ 1206 < bodySize g ∧ 5 ≤ g.length := fun g v rest hg hv =>
    full_of_overfills (fun x hx => size x (mem_of_mem_variantSegments hg hx))
      (size v (mem_of_mem_variantSegments hv (List.mem_cons_self ..)))
  refine ⟨variantSegments_flatten vs, fits, fun before g v rest after heq => ?_, fun e he h32 => ?_⟩
  · have chain := heq ▸ variantSegments_greedy vs
    obtain ⟨-, overfills, -⟩ := List.isChain_append_cons_cons.mp chain
    exact full g v rest (by simp [heq]) (by simp [heq]) overfills
  · have five : (variantSegments vs).IsChain fun g _ => 5 ≤ g.length :=
      (variantSegments_greedy vs).imp_of_mem_imp fun g h hg hh overfills => by
        obtain ⟨v, rest, rfl⟩ := List.exists_cons_of_ne_nil (fits h hh).1
        obtain ⟨-, -, five⟩ := full g v rest hg hh overfills
        exact five
    have count := five_mul_length_le (fun g hg => (fits g hg).1) five
    rw [variantSegments_flatten] at count
    rw [segmentCount, he]
    omega

end Sys2Proof.Machine

end

section
/-! Malformed requests (R146, R152, R181, R186, R193) and the part of a nest in an abort (R148, R149, R150): statements
O11 and O28. -/

namespace Sys2Proof.Machine

variable {s t : State} {f : RxFrame} {n : Nest} {c : RequestCode} {args : List Byte}

/-! ### Arguments that name nothing (R146, R152, R186, R193) -/

theorem abortArg_of_length (h : args.length ≠ 1) : abortArg args = none := by
  unfold abortArg
  split
  · exact absurd rfl h
  · rfl

theorem abortArg_of_out_of_range {b : Byte} (h : 3 < b.toNat) : abortArg [b] = none :=
  dif_neg (by omega)

theorem clearOption_of_length (h : args.length ≠ 1) : clearOption args = none := by
  unfold clearOption
  split
  · exact absurd rfl h
  · rfl

theorem clearOption_of_out_of_range {b : Byte} (h : 1 < b.toNat) : clearOption [b] = none := by
  have ne_no : b ≠ 0#8 := by rintro rfl; contradiction
  have ne_yes : b ≠ 1#8 := by rintro rfl; contradiction
  rw [clearOption, if_neg ne_no, if_neg ne_yes]

theorem openLotArg_of_length_ne (h : args.length ≠ 4) : openLotArg args = none := if_neg h

theorem nestActionOf_eq_none {a : Nat} (h : 4 < a) : nestActionOf a = none :=
  List.getElem?_eq_none h

theorem nestActionArgs_of_length (h : args.length ≠ 2) : nestActionArgs args = none := by
  unfold nestActionArgs
  split
  · exact absurd rfl h
  · rfl

theorem nestActionArgs_of_out_of_range {nest action : Byte} (h : 31 < nest.toNat ∨ 4 < action.toNat) :
    nestActionArgs [nest, action] = none := by
  unfold nestActionArgs
  dsimp only
  rcases h with hnest | haction
  · split
    · exact dif_neg (by omega)
    · rfl
  · rw [nestActionOf_eq_none haction]

/-! ### Requests answered BAD_REQUEST (R181, R193) -/

theorem Asked.isRequestOf (h : Asked s f c args) : isRequestOf c f.msg = true := by
  obtain ⟨-, -, code, -⟩ := h
  exact code

/-- A row that takes the request and answers it BAD_REQUEST at once changes nothing besides the answer. -/
theorem runRequest_badRequest (h : Asked s f c args) {p : List Byte → Bool} (takes : p f.msg = true)
    {act : Req → List Byte → State → State} (bad : ∀ r t, act r args t = respond r .badRequest [] t) :
    runRequest p act s = .next (answered f .badRequest [] s) := by
  obtain ⟨at_head, room, -, rfl⟩ := h
  rw [runRequest_eq at_head room takes, bad, respond_passMessage]

theorem withoutArgs_badRequest (h : Asked s f c args) (hargs : args.length ≠ 0) (act : Req → State → State) :
    runRequest (isRequestOf c) (withoutArgs act) s = .next (answered f .badRequest [] s) :=
  runRequest_badRequest h h.isRequestOf fun _ _ => if_neg hargs

theorem openLot_badRequest (h : Asked s f .openLot args) (hargs : openLotArg args = none) :
    execOpenLot s = .next (answered f .badRequest [] s) :=
  runRequest_badRequest h h.isRequestOf fun _ _ => by rw [hargs]

theorem abortStream_badRequest (h : Asked s f .abortStream args) (hargs : abortArg args = none) :
    execAbortStream s = .next (answered f .badRequest [] s) :=
  runRequest_badRequest h h.isRequestOf fun _ _ => by rw [hargs]

/-- A GET_COUNTERS without a clear option is taken by either row (log entry 4). -/
theorem isGetCounters_of_none (h : Asked s f .getCounters args) (hargs : clearOption args = none) (clear : Bool) :
    isGetCounters clear f.msg = true := by
  obtain ⟨-, -, code, rfl⟩ := h
  rw [isGetCounters, code, hargs]; rfl

theorem getCounters_badRequest (h : Asked s f .getCounters args) (hargs : clearOption args = none) :
    execGetCounters s = .next (answered f .badRequest [] s) :=
  runRequest_badRequest h (isGetCounters_of_none h hargs false) fun _ _ => by rw [hargs]

theorem getCountersClear_badRequest (h : Asked s f .getCounters args) (hargs : clearOption args = none) :
    execGetCountersClear s = .next (answered f .badRequest [] s) :=
  runRequest_badRequest h (isGetCounters_of_none h hargs true) fun _ _ => by rw [hargs]

/-- A NEST_ACTION without a nest and an action is taken by the row of any action (log entry 4). -/
theorem nestAction_badRequest (h : Asked s f .nestAction args) (hargs : nestActionArgs args = none) (a : NestAction)
    (act : Req → Nest → State → State) : nestAction a act s = .next (answered f .badRequest [] s) := by
  have takes : isNestAction a f.msg = true := by
    obtain ⟨-, -, code, rfl⟩ := h
    rw [isNestAction, code, hargs]; rfl
  exact runRequest_badRequest h takes fun _ _ => by rw [hargs]

/-- The rows of all five actions answer it (R152; log entry 4). -/
theorem nestAction_rows_badRequest (h : Asked s f .nestAction args) (hargs : nestActionArgs args = none) :
    ∀ x ∈ [Instr.nestActionHalt, .nestActionCycle, .nestActionExclude, .nestActionInclude, .nestActionRetrain],
      exec x s = .next (answered f .badRequest [] s) := by
  simp only [List.forall_mem_cons, List.not_mem_nil, IsEmpty.forall_iff, implies_true, and_true]
  exact ⟨nestAction_badRequest h hargs .halt actHalt, nestAction_badRequest h hargs .cycle actCycle,
    nestAction_badRequest h hargs .exclude actExclude, nestAction_badRequest h hargs .include_ actInclude,
    nestAction_badRequest h hargs .retrain actRetrain⟩

/-- Settles O11: the arguments name nothing, and each row that takes such a request answers it BAD_REQUEST. -/
theorem malformedRequestIsBad : Obligations.MalformedRequestIsBad := by
  refine ⟨fun s f args => ?_, fun s f b => ⟨fun h hb => ?_, fun h hb => ?_⟩, fun s f nest action h hrange => ?_⟩
  · have actions := fun (h : Asked s f .nestAction args) hlen =>
      nestAction_rows_badRequest h (nestActionArgs_of_length hlen)
    simp only [List.forall_mem_cons, List.not_mem_nil, IsEmpty.forall_iff, implies_true, and_true]
    exact ⟨fun h hlen => withoutArgs_badRequest h hlen _, fun h hlen => withoutArgs_badRequest h hlen _,
      fun h hlen => withoutArgs_badRequest h hlen _, fun h hlen => withoutArgs_badRequest h hlen _,
      fun h hlen => getCounters_badRequest h (clearOption_of_length hlen),
      fun h hlen => getCountersClear_badRequest h (clearOption_of_length hlen),
      fun h hlen => abortStream_badRequest h (abortArg_of_length hlen),
      fun h hlen => actions h hlen _ (by simp), fun h hlen => actions h hlen _ (by simp),
      fun h hlen => actions h hlen _ (by simp), fun h hlen => actions h hlen _ (by simp),
      fun h hlen => actions h hlen _ (by simp),
      fun h hlen => openLot_badRequest h (openLotArg_of_length_ne hlen)⟩
  · exact abortStream_badRequest h (abortArg_of_out_of_range hb)
  · have noOption := clearOption_of_out_of_range hb
    exact ⟨getCounters_badRequest h noOption, getCountersClear_badRequest h noOption⟩
  · exact nestAction_rows_badRequest h (nestActionArgs_of_out_of_range hrange)

/-! ### The part of one nest in an abort (R78, R148) -/

theorem HaltTaken.onlyNest {p : Copy → Bool} (h : HaltTaken n p s t) : OnlyNest n s t := by
  unfold HaltTaken at h
  split at h
  case h_3 => exact h ▸ .refl n s
  all_goals
    split_ifs at h
    · obtain ⟨only, -⟩ := h
      exact only
    · exact h ▸ .refl n s

/-- What a nest takes leaves the stream's state and its retire list, so that the result data is the one read before
it (R149, R150). -/
theorem OnlyNest.abortResult_eq (h : OnlyNest n s t) (st : StreamId) (marked halted voided : Nat) :
    abortResult t st marked halted voided = abortResult s st marked halted voided := by
  obtain ⟨unchanged, -, -⟩ := h
  rw [unchanged]
  rfl

/-- The result data of ABORT_STREAM, byte by byte (11.5). -/
theorem abortResult_bytes (s : State) (st : StreamId) (marked halted voided : Nat) :
    abortResult s st marked halted voided =
      [BitVec.ofNat 8 st.val, if (s.stream st).draining then 1#8 else 0#8,
       (s.stream st).expected.setWidth 8, ((s.stream st).expected >>> 8).setWidth 8,
       BitVec.ofNat 8 (s.retireList st).length, BitVec.ofNat 8 marked, BitVec.ofNat 8 halted,
       0#8, BitVec.ofNat 8 voided, BitVec.ofNat 8 (voided / 256)] := by
  have flag : BitVec.ofNat 8 (bit (s.stream st).draining 0) = if (s.stream st).draining then 1#8 else 0#8 := by
    cases (s.stream st).draining <;> rfl
  obtain ⟨low, high⟩ := ofNat_toNat_word16 (s.stream st).expected
  rw [← flag, ← low, ← high]
  rfl

/-- The copies that a nest's halt request halts: 1 or 0 (R148). -/
def haltCount (n : Nest) (st : StreamId) (s : State) : Nat := if (haltedHead n (ofStream st) s).isSome then 1 else 0

theorem haltCount_cases (n : Nest) (st : StreamId) (s : State) :
    haltCount n st s = 1 ∧ haltHead n (ofStream st) s ≠ s ∨ haltCount n st s = 0 ∧ haltHead n (ofStream st) s = s := by
  rw [Ne, haltHead_eq_iff, haltCount]
  cases haltedHead n (ofStream st) s <;> simp

theorem execStreamHaltAndVoid_eq {r : Req} {st : StreamId} {marked halted voided : Nat} {left : NestSet}
    (running : s.phase = .running) (task : s.dispatcher.task = some (.abort r st marked halted voided left))
    (waits : NestSet.has left n = true) : execStreamHaltAndVoid n s =
      .next (abortProgress n r st marked (halted + haltCount n st s)
        (voided + voidCount n (ofStream st) (haltHead n (ofStream st) s)) left (haltAndVoid n st s)) := by
  unfold execStreamHaltAndVoid
  rw [task]
  exact takesPlace_true (by rw [State.running, running, waits]; rfl) _ _

theorem abortProgress_of_more {left : NestSet} (h : NestSet.erase left n ≠ 0#32) (r : Req) (st : StreamId)
    (marked halted voided : Nat) (s : State) : abortProgress n r st marked halted voided left s =
      { s with dispatcher := { s.dispatcher with
          task := some (.abort r st marked halted voided (NestSet.erase left n)) } } := if_neg h

theorem abortProgress_of_last {left : NestSet} (h : NestSet.erase left n = 0#32) (r : Req) (st : StreamId)
    (marked halted voided : Nat) (s : State) : abortProgress n r st marked halted voided left s =
      respond r .ok (abortResult s st marked halted voided)
        { s with dispatcher := { s.dispatcher with task := none } } := if_pos h

/-- Settles O28: the halt and then the void, and the counts carried on, or answered when no nest is left. -/
theorem nestTakesItsPartOfAbort : Obligations.NestTakesItsPartOfAbort := by
  intro s n r st marked halted voided left running task waits
  have halt : HaltTaken n (ofStream st) s (haltHead n (ofStream st) s) := haltHead_spec s n _
  have void : VoidTaken n (ofStream st) (haltHead n (ofStream st) s) (haltAndVoid n st s) := voidQueued_spec _ n _
  have run : exec (.streamHaltAndVoid n) s = _ := execStreamHaltAndVoid_eq running task waits
  refine ⟨_, _, haltCount n st s, halt, void, haltCount_cases n st s, fun more => ?_, fun last => ⟨_, rfl, ?_⟩⟩
  · rw [run, abortProgress_of_more more, haltAndVoid_dispatcher]
    rfl
  · rw [run, abortProgress_of_last last, (halt.onlyNest.trans void.1).abortResult_eq, abortResult_bytes, respond,
      finishMessage, haltAndVoid_dispatcher, haltAndVoid_uplink]
    rfl

end Sys2Proof.Machine

end

section
/-! The Notice Unit's causes, nest sets and slots in agreement, and what a raise, a NOTE, a release and a build do to
them (R161, R162, R165, R166, R168 to R171): for statement O57. -/

namespace Sys2Proof.Machine

variable {s t : State} {n : Nest}

/-! ### Causes and nest sets (R161, R162) -/

/-- Neither a nest set nor a slot stands behind the cause (R161, R162). -/
def Cause.bare (c : Cause) : Bool :=
  match c with
  | .attention | .link | .standing => false
  | .presence | .payloadLow | .replyLow | .stepRefusalLost => true

theorem causeSet_has_bit (c d : Cause) : CauseSet.has c.bit d = decide (d = c) := by
  cases c <;> cases d <;> rfl

/-- A raise sets its own cause (R161). -/
theorem causeSet_has_raise_self (S : CauseSet) (c : Cause) : CauseSet.has (S ||| c.bit) c = true := by
  have own := causeSet_has_bit c c
  simp only [CauseSet.has, decide_true] at own ⊢
  rw [BitVec.getLsbD_or, own, Bool.or_true]

/-- A raise leaves the other causes (R161). -/
theorem causeSet_has_raise_ne {c d : Cause} (h : d ≠ c) (S : CauseSet) :
    CauseSet.has (S ||| c.bit) d = CauseSet.has S d := by
  have other := causeSet_has_bit c d
  simp only [CauseSet.has, decide_eq_false h] at other ⊢
  rw [BitVec.getLsbD_or, other, Bool.or_false]

/-- A build clears the causes it takes and leaves the others (R165). -/
theorem causeSet_has_clear (S T : CauseSet) (c : Cause) :
    CauseSet.has (S &&& ~~~T) c = (CauseSet.has S c && !CauseSet.has T c) := by
  have inside : c.index < 7 := by cases c <;> decide
  simp [CauseSet.has, inside]

theorem nestSet_insert_ne_zero (S : NestSet) (n : Nest) : NestSet.insert S n ≠ 0#32 := by
  intro empty
  have member := NestSet.has_insert S n n
  rw [empty] at member
  simp [NestSet.has] at member

/-! ### Slots (R168 to R170) -/

theorem slotOk_take {x : Slot} (h : slotOk x = true) (code : Word16) : slotOk (x.take code) = true := by
  obtain ⟨state, _, _, missed⟩ := x
  cases state with
  | empty => rfl
  | pending => exact h
  | held => rfl

theorem slotOk_deliver {x : Slot} (h : slotOk x = true) : slotOk x.deliver = true := by
  unfold Slot.deliver
  split
  · rfl
  · exact h

theorem deliver_not_pending (x : Slot) : x.deliver.state ≠ .pending := by
  unfold Slot.deliver
  split
  · exact nofun
  · assumption

/-- A slot that takes a NOTE is PENDING unless it is HELD (R169). -/
theorem take_pending_iff (x : Slot) (code : Word16) : (x.take code).state = .pending ↔ x.state ≠ .held := by
  obtain ⟨state, _, _, _⟩ := x
  cases state <;> simp [Slot.take]

/-- A NOTE is taken by its slot, and raises ATTENTION if it leaves the slot PENDING (R169). -/
theorem takeNote_eq (n : Nest) (code : Word16) (s : State) : takeNote n code s = { s with notice := { s.notice with
    causes := if (s.notice.slots[n.val].take code).state = .pending then s.notice.causes ||| Cause.attention.bit
      else s.notice.causes,
    slots := upd s.notice.slots n (Slot.take code) } } := by
  unfold takeNote
  dsimp only
  by_cases held : s.notice.slots[n.val].state = .held
  · rw [if_pos (decide_eq_true held), if_neg fun pending => (take_pending_iff ..).mp pending held]; rfl
  · rw [if_neg fun h => held (of_decide_eq_true h), if_pos ((take_pending_iff ..).mpr held)]; rfl

/-- A build that takes ATTENTION delivers the slots (R170). -/
theorem slots_buildNotice (s : State) (n : Nest) : (buildNotice s).notice.slots[n.val] =
    if CauseSet.has (eligibleCauses s) .attention then s.notice.slots[n.val].deliver else s.notice.slots[n.val] := by
  show (if _ then mapTable Slot.deliver s.notice.slots else s.notice.slots)[n.val] = _
  split
  · exact mapTable_get ..
  · rfl

namespace NoticeOk

theorem congr (h : NoticeOk s) (same : t.notice = s.notice) : NoticeOk t := by
  unfold NoticeOk; rwa [same]

/-! ### Raises (R35, R62, R161, R162) -/

theorem raiseCause (h : NoticeOk s) {c : Cause} (bare : c.bare = true) : NoticeOk (raiseCause c s) := by
  have others : ∀ d : Cause, d.bare = false →
      CauseSet.has (Machine.raiseCause c s).notice.causes d = CauseSet.has s.notice.causes d :=
    fun d hd => causeSet_has_raise_ne (by rintro rfl; rw [bare] at hd; cases hd) _
  unfold NoticeOk
  rw [others .link rfl, others .standing rfl, others .attention rfl]
  exact h

theorem raiseLink (h : NoticeOk s) (n : Nest) : NoticeOk (raiseLink n s) := by
  have others : ∀ d : Cause, d ≠ .link →
      CauseSet.has (Machine.raiseLink n s).notice.causes d = CauseSet.has s.notice.causes d :=
    fun d hd => causeSet_has_raise_ne hd _
  obtain ⟨-, standing, attention, slots⟩ := h
  refine ⟨iff_of_true (causeSet_has_raise_self ..) (nestSet_insert_ne_zero _ _), ?_, ?_, slots⟩
  · rw [others .standing nofun]; exact standing
  · rw [others .attention nofun]; exact attention

theorem raiseStanding (h : NoticeOk s) (n : Nest) : NoticeOk (raiseStanding n s) := by
  have others : ∀ d : Cause, d ≠ .standing →
      CauseSet.has (Machine.raiseStanding n s).notice.causes d = CauseSet.has s.notice.causes d :=
    fun d hd => causeSet_has_raise_ne hd _
  obtain ⟨link, -, attention, slots⟩ := h
  refine ⟨?_, iff_of_true (causeSet_has_raise_self ..) (nestSet_insert_ne_zero _ _), ?_, slots⟩
  · rw [others .link nofun]; exact link
  · rw [others .attention nofun]; exact attention

/-! ### One slot changed (R169, R171) -/

/-- A slot changed for one that R168 allows: ATTENTION is raised if it is then PENDING, and no slot ceases to be
PENDING. -/
theorem updSlot (h : NoticeOk s) {f : Slot → Slot} (ok : slotOk (f s.notice.slots[n.val]) = true)
    (stays : s.notice.slots[n.val].state = .pending → (f s.notice.slots[n.val]).state = .pending)
    (notice : t.notice = { s.notice with
      causes := if (f s.notice.slots[n.val]).state = .pending then s.notice.causes ||| Cause.attention.bit
        else s.notice.causes,
      slots := upd s.notice.slots n f }) : NoticeOk t := by
  obtain ⟨link, standing, attention, slots⟩ := h
  have slot : ∀ m : Nest, t.notice.slots[m.val] = if m = n then f s.notice.slots[n.val] else s.notice.slots[m.val] := by
    intro m; rw [notice]; exact upd_get ..
  have others : ∀ d : Cause, d ≠ .attention → CauseSet.has t.notice.causes d = CauseSet.has s.notice.causes d := by
    intro d hd
    rw [notice]; dsimp only
    split
    · exact causeSet_has_raise_ne hd _
    · rfl
  refine ⟨?_, ?_, ?_, fun m => ?_⟩
  · rw [others .link nofun, notice]; exact link
  · rw [others .standing nofun, notice]; exact standing
  · by_cases pending : (f s.notice.slots[n.val]).state = .pending
    · refine iff_of_true ?_ ⟨n, by rw [slot, if_pos rfl]; exact pending⟩
      rw [notice]; dsimp only
      rw [if_pos pending]; exact causeSet_has_raise_self ..
    · have causes : t.notice.causes = s.notice.causes := by rw [notice]; exact if_neg pending
      rw [causes, attention]
      refine exists_congr fun m => ?_
      rw [slot]
      split
      · next hm => subst hm; exact iff_of_false (pending ∘ stays) pending
      · rfl
  · rw [slot]
    split
    · exact ok
    · exact slots m

/-- A NOTE raises ATTENTION for a slot it leaves PENDING (R169). -/
theorem takeNote (h : NoticeOk s) (n : Nest) (code : Word16) : NoticeOk (takeNote n code s) := by
  have ⟨_, _, _, slots⟩ := h
  refine h.updSlot (slotOk_take (slots n) code) (fun pending => ?_) ?_
  · rw [take_pending_iff, pending]; exact nofun
  · rw [takeNote_eq]

/-- A release empties a HELD slot alone (R171). -/
theorem releaseSlot (h : NoticeOk s) (n : Nest) (r : Req) : NoticeOk (releaseSlot n r s) := by
  unfold Machine.releaseSlot
  dsimp only
  split
  · next held => exact h.updSlot (f := fun _ => Slot.none) rfl (fun pending => nomatch held.symm.trans pending) rfl
  · exact h.congr rfl
  · exact h.congr rfl

/-! ### A notice built (R165, R166, R170) -/

/-- A build clears LINK and STANDING with their nest sets, and ATTENTION with the PENDING slots. -/
theorem buildNotice (h : NoticeOk s) : NoticeOk (buildNotice s) := by
  obtain ⟨link, standing, attention, slots⟩ := h
  have causes : ∀ c, CauseSet.has (Machine.buildNotice s).notice.causes c =
      (CauseSet.has s.notice.causes c && !CauseSet.has (eligibleCauses s) c) := causeSet_has_clear _ _
  have links : (Machine.buildNotice s).notice.links =
      if CauseSet.has (eligibleCauses s) .link then 0 else s.notice.links := rfl
  have standings : (Machine.buildNotice s).notice.standings =
      if CauseSet.has (eligibleCauses s) .standing then 0 else s.notice.standings := rfl
  refine ⟨?_, ?_, ?_, fun n => ?_⟩
  · rw [causes, links]
    cases CauseSet.has (eligibleCauses s) .link <;> simp [link]
  · rw [causes, standings]
    cases CauseSet.has (eligibleCauses s) .standing <;> simp [standing]
  · rw [causes]
    simp only [slots_buildNotice]
    cases CauseSet.has (eligibleCauses s) .attention with
    | true => simp [deliver_not_pending]
    | false => simp [attention]
  · rw [slots_buildNotice]
    split
    · exact slotOk_deliver (slots n)
    · exact slots n

end NoticeOk

end Sys2Proof.Machine

end

section
/-! The operations that raise causes, and those that leave the Notice Unit as it is: for statement O57. -/

namespace Sys2Proof.Machine

/-! ### Operations that leave the Notice Unit as it is -/

section
variable (s : State)

theorem judgeAnswer_notice (e : EntryId) (n : Nest) (payload : List Byte) (final : Bool) :
    (judgeAnswer e n payload final s).1.notice = s.notice := by
  obtain ⟨t, o, h, frame, -⟩ := judgeAnswer_spec s e n payload final
  rw [h, frame]

theorem expireDeadline_notice (n : Nest) (c : Copy) (tag : Word16) :
    (expireDeadline n c tag s).notice = s.notice := by simp [expireDeadline]

theorem abortProgress_notice (n : Nest) (r : Req) (st : StreamId) (marked halted voided : Nat) (left : NestSet) :
    (abortProgress n r st marked halted voided left s).notice = s.notice := by
  unfold abortProgress
  dsimp only
  split <;> rfl

theorem retrainProgress_notice (n : Nest) : (retrainProgress n s).notice = s.notice := by
  unfold retrainProgress
  split
  · split
    · split <;> rfl
    · rfl
  all_goals rfl

theorem drainStream_notice (st : StreamId) : (drainStream st s).notice = s.notice := by
  rw [drainStream_eq]

theorem applyEnable_notice (mask : NestSet) : (applyEnable mask s).notice = s.notice := by
  unfold applyEnable
  induction allNests generalizing s with
  | nil => rfl
  | cons n ns ih => exact ih _

theorem absences_notice (ns : List Nest) : (ns.foldl (fun t n => absenceRule n t) s).notice = s.notice := by
  induction ns generalizing s with
  | nil => rfl
  | cons n ns ih => exact (ih _).trans (absenceRule_notice ..)

theorem takeFrame_notice (frame : List Byte) : (takeFrame frame s).notice = s.notice := by
  unfold takeFrame
  split
  · rfl
  · rfl
  · split <;> rfl

theorem takeChat_notice (n : Nest) (payload : List Byte) : (takeChat n payload s).notice = s.notice := by
  unfold takeChat
  split <;> rfl

theorem uplinkDown_notice : (uplinkDown s).notice = s.notice := by
  unfold uplinkDown
  dsimp only
  split <;> rfl

theorem getRowsOf_notice (x : Table) (r : Req) (args : List Byte) : (getRowsOf x r args s).notice = s.notice := by
  unfold getRowsOf
  dsimp only
  split
  · rfl
  · split <;> rfl

theorem placeSegment_notice (r : Retirement) : (placeSegment r s).notice = s.notice := by
  unfold placeSegment
  dsimp only
  split
  · rw [endRetirement_frame]; rfl
  · rfl

end

namespace NoticeOk

variable {s : State}

/-! ### Links and presence (R60 to R63) -/

theorem trainIfReady (h : NoticeOk s) (n : Nest) : NoticeOk (trainIfReady n s) := by
  unfold Machine.trainIfReady
  split
  · exact (h.congr (updPort_notice ..)).raiseLink n
  · exact h

theorem trainAll (h : NoticeOk s) : NoticeOk (trainAll s) := by
  unfold Machine.trainAll
  induction allNests generalizing s with
  | nil => exact h
  | cons n ns ih => exact ih (h.trainIfReady n)

theorem presenceGone (h : NoticeOk s) (n : Nest) : NoticeOk (presenceGone n s) := by
  unfold Machine.presenceGone
  split
  · exact (h.congr (updPort_notice ..)).raiseCause rfl
  · exact h

/-- The absence rule and the absence delivered raise nothing (R79). -/
theorem absent (h : NoticeOk s) (n : Nest) : NoticeOk (deliverAbsence n (absenceRule n s)) :=
  h.congr (by simp)

theorem linkDown (h : NoticeOk s) (n : Nest) : NoticeOk (linkDown n s) := by
  unfold Machine.linkDown
  split
  · exact h
  · exact (((h.congr (updPort_notice ..)).presenceGone n).absent n).raiseLink n

theorem setPresence (h : NoticeOk s) (n : Nest) (present : Bool) : NoticeOk (setPresence n present s) := by
  unfold Machine.setPresence
  split
  · split
    · exact (h.congr (updPort_notice ..)).raiseCause rfl
    · exact h
  · split
    · exact (h.presenceGone n).absent n
    · exact h

theorem takeWelcome (h : NoticeOk s) (n : Nest) (id : Word32) (present : Bool) :
    NoticeOk (takeWelcome n id present s) := by
  have stored : NoticeOk (Machine.setPresence n present (s.updPort n fun p => { p with adapterId := id })) :=
    (h.congr (updPort_notice ..)).setPresence n present
  unfold Machine.takeWelcome
  split
  · exact h
  · exact (stored.congr (updPort_notice ..)).raiseLink n
  · exact stored

theorem storeNestConfig (h : NoticeOk s) (n : Nest) (c : NestConfig) : NoticeOk (storeNestConfig n c s) := by
  have stored : NoticeOk (s.updPort n fun p => { p with config := c }) := h.congr rfl
  unfold Machine.storeNestConfig
  dsimp only
  split
  · exact stored.linkDown n
  · split
    · exact stored.trainIfReady n
    · exact stored

/-! ### Standings (R28 to R32, R35) -/

theorem changeStanding (h : NoticeOk s) (n : Nest) (x : Standing) : NoticeOk (changeStanding n x s) :=
  (h.congr (updLotNest_notice ..)).raiseStanding n

theorem loseIfClear (h : NoticeOk s) (n : Nest) : NoticeOk (loseIfClear n s) := by
  unfold Machine.loseIfClear
  split
  · exact h.changeStanding n _
  · exact h

theorem excludeStanding (h : NoticeOk s) (n : Nest) : NoticeOk (excludeStanding n s) := by
  unfold Machine.excludeStanding
  split
  · exact h
  · exact h.changeStanding n _

theorem takeStopFailure (h : NoticeOk s) (n : Nest) : NoticeOk (takeStopFailure n s) := by
  unfold Machine.takeStopFailure
  split
  · exact (h.changeStanding n _).congr rfl
  · exact h.congr rfl

/-! ### Answers (R71, R110, R126) -/

theorem offerAnswer (h : NoticeOk s) (e : EntryId) (n : Nest) (payload : List Byte) :
    NoticeOk (offerAnswer e n payload s) := by
  obtain ⟨⟨frame, -, -, -, causes⟩, -⟩ := offerAnswer_spec s e n payload
  have notice := congrArg State.notice frame
  rcases causes with same | raised
  · exact h.congr (by rw [notice, same])
  · exact (h.raiseCause (c := .replyLow) rfl).congr (by rw [notice, raised]; rfl)

theorem endByAnswer (h : NoticeOk s) (n : Nest) (c : Copy) (runs : Nat) (o : CopyOutcome) (payload : List Byte) :
    NoticeOk (endByAnswer n c runs o payload s) := by
  unfold Machine.endByAnswer
  exact NoticeOk.offerAnswer (h.congr (by simp)) ..

theorem takeAnswer (h : NoticeOk s) (n : Nest) (c : Copy) (status : Byte) (payload : List Byte) :
    NoticeOk (takeAnswer n c status payload s) := by
  have answered : NoticeOk (s.updPort n (runAnswered c)) := h.congr rfl
  have judged (final : Bool) : NoticeOk (judgeAnswer c.entry n payload final (s.updPort n (runAnswered c))).1 :=
    answered.congr (judgeAnswer_notice ..)
  rw [takeAnswer_eq]
  split
  · exact answered.endByAnswer ..
  · split
    · exact (judged false).congr (by rw [nextRun_eq, updPort_notice])
    · exact (judged true).endByAnswer ..

theorem classifyAnswer (h : NoticeOk s) (n : Nest) (tag : Word16) (status : Byte) (payload : List Byte) :
    NoticeOk (classifyAnswer n tag status payload s) := by
  unfold Machine.classifyAnswer
  split
  · split
    · split
      · exact h.takeAnswer ..
      · exact h
    · exact h.congr rfl
  · split <;> exact h.congr rfl
  all_goals exact h.congr rfl

/-! ### A STEP taken (R10, R12, R20) -/

theorem refuseStep (h : NoticeOk s) (f : RxFrame) (reason : RefusalReason) (detail : Nat) :
    NoticeOk (refuseStep f reason detail s) := by
  unfold Machine.refuseStep
  dsimp only
  split
  · exact h.congr rfl
  · exact (h.congr rfl).raiseCause rfl

theorem testPayloadLow (h : NoticeOk s) (before : Nat) : NoticeOk (testPayloadLow before s) := by
  unfold Machine.testPayloadLow
  dsimp only
  split
  · exact h.raiseCause rfl
  · exact h

theorem acceptInto (h : NoticeOk s) (e : EntryId) (q : StepReq) (target : NestSet) (r : Fin 64) :
    NoticeOk (acceptInto e q target r s) := by
  have enlisted : (enlist e q target r s).notice = s.notice := by rw [(enlist_spec e q target r s).frame]
  rw [acceptInto_eq]
  refine congr ?_ (absences_notice ..)
  unfold accepted
  refine NoticeOk.testPayloadLow (h.congr ?_) _
  split
  · simpa [completeEmpty] using enlisted
  · exact enlisted

theorem takeStep (h : NoticeOk s) (f : RxFrame) : NoticeOk (takeStep f s) := by
  unfold Machine.takeStep
  split
  · exact h.refuseStep ..
  · split
    · exact h.acceptInto ..
    · exact h

end NoticeOk

end Sys2Proof.Machine

end

section
/-! The requests, and every command, keep the Notice Unit in agreement: statement O57. -/

namespace Sys2Proof.Machine

namespace NoticeOk

variable {s t u : State}

/-! ### The shapes of commands -/

/-- An event that takes place keeps the agreement when what it does keeps it. -/
theorem of_takesPlace (hs : NoticeOk s) {b : Bool} (h : takesPlace b s u = .next t) (hu : NoticeOk u) :
    NoticeOk t := by
  rcases takesPlace_cases h with rfl | rfl
  · exact hs
  · exact hu

/-- A request keeps the agreement when what carries it out keeps it (R177). -/
theorem of_runRequest (hs : NoticeOk s) {p : List Byte → Bool} {act : Req → List Byte → State → State}
    (h : runRequest p act s = .next t) (ha : ∀ r args u, NoticeOk u → NoticeOk (act r args u)) : NoticeOk t := by
  rcases runRequest_cases h with rfl | ⟨f, rfl⟩
  · exact hs
  · exact ha _ _ _ (hs.congr (passMessage_notice ..))

theorem respond (h : NoticeOk s) (r : Req) (x : Status) (result : List Byte) : NoticeOk (respond r x result s) :=
  h.congr (respond_notice ..)

/-- A nest action keeps the agreement when what carries it out keeps it (R152). -/
theorem of_nestAction (hs : NoticeOk s) {a : NestAction} {act : Req → Nest → State → State}
    (h : nestAction a act s = .next t) (ha : ∀ r n u, NoticeOk u → NoticeOk (act r n u)) : NoticeOk t := by
  refine hs.of_runRequest h fun r args u hu => ?_
  split
  · exact ha _ _ _ hu
  · exact hu.respond ..

theorem withoutArgs (h : NoticeOk s) {act : Req → State → State} (ha : ∀ r u, NoticeOk u → NoticeOk (act r u))
    (r : Req) (args : List Byte) : NoticeOk (withoutArgs act r args s) := by
  unfold Machine.withoutArgs
  split
  · exact ha _ _ h
  · exact h.respond ..

theorem withTable (h : NoticeOk s) {act : Table → Req → List Byte → State → State}
    (ha : ∀ x r args u, NoticeOk u → NoticeOk (act x r args u)) (r : Req) (args : List Byte) :
    NoticeOk (withTable act r args s) := by
  unfold Machine.withTable
  split
  · exact h.respond ..
  · exact h.respond ..
  · exact ha _ _ _ _ h

/-! ### The tables (R183) -/

/-- A row written leaves the Notice Unit, but for a Nest Config row that moves its link (R60, R65). -/
theorem writeRow (h : NoticeOk s) {x : Table} {img : List Byte} (written : writeRow x img s = .written t) :
    NoticeOk t := by
  cases x <;> simp only [Machine.writeRow] at written
  case group =>
    unfold writeGroupRow at written
    split at written <;> cases written
    exact h.congr rfl
  case profile =>
    obtain ⟨r, row, -, -, -, rfl⟩ := writeProfileRow_written written
    exact h.congr rfl
  case codeSet =>
    unfold writeCodeSetRow at written
    split at written
    · split at written <;> cases written
      exact h.congr rfl
    · cases written
  case nestConfig =>
    unfold writeNestConfigRow at written
    dsimp only at written
    split at written
    · split at written <;> cases written
      exact h.storeNestConfig ..
    · cases written
  case allowList =>
    unfold writeAllowRow at written
    dsimp only at written
    split at written
    · split at written <;> cases written
      exact h.congr rfl
    · cases written
  case settings =>
    unfold writeSettingsRow at written
    dsimp only at written
    split at written <;> cases written
    exact h.congr rfl

theorem writeRows (h : NoticeOk s) (x : Table) (r : Req) (imgs : List (List Byte)) (done : Nat) :
    NoticeOk (writeRows x r done imgs s) := by
  induction imgs generalizing done s with
  | nil => exact h.respond ..
  | cons img rest ih =>
    unfold Machine.writeRows
    split
    · next written => exact ih (h.writeRow written) _
    · exact h.respond ..

theorem putRowsOf (h : NoticeOk s) (x : Table) (r : Req) (args : List Byte) : NoticeOk (putRowsOf x r args s) := by
  unfold Machine.putRowsOf
  dsimp only
  split
  · exact h.respond ..
  · exact h.writeRows ..

/-! ### Lots, streams and nest actions (R24, R26, R146, R152 to R157) -/

theorem openLot (hs : NoticeOk s) (h : execOpenLot s = .next t) : NoticeOk t := by
  refine hs.of_runRequest h fun _ _ _ hu => hu.congr ?_
  split
  · rfl
  · split
    · rfl
    · split <;> rfl

theorem closeLot (hs : NoticeOk s) (h : execCloseLot s = .next t) : NoticeOk t := by
  refine hs.of_runRequest h fun _ args _ hu => hu.withoutArgs (fun _ _ hv => hv.congr ?_) _ args
  split
  · rfl
  · split <;> rfl

theorem abortStream (hs : NoticeOk s) (h : execAbortStream s = .next t) : NoticeOk t := by
  refine hs.of_runRequest h fun _ _ u hu => hu.congr ?_
  split
  · rfl
  · exact drainStream_notice ..

theorem streamHaltAndVoid {n : Nest} (hs : NoticeOk s) (h : execStreamHaltAndVoid n s = .next t) : NoticeOk t := by
  unfold execStreamHaltAndVoid at h
  split at h
  · exact hs.of_takesPlace h (hs.congr (by rw [abortProgress_notice, haltAndVoid_notice]))
  all_goals cases h; exact hs

theorem actHalt (h : NoticeOk s) (r : Req) (n : Nest) : NoticeOk (actHalt r n s) :=
  h.congr (haltHead_notice ..)

theorem actCycle (h : NoticeOk s) (r : Req) (n : Nest) : NoticeOk (actCycle r n s) :=
  (h.loseIfClear n).congr (by simp [Machine.actCycle, answerAction])

theorem actExclude (h : NoticeOk s) (r : Req) (n : Nest) : NoticeOk (actExclude r n s) := by
  have flagged : NoticeOk (setExcluded n true s) := h.congr rfl
  unfold Machine.actExclude
  dsimp only
  split
  · exact (flagged.excludeStanding n).congr (by simp [answerAction])
  · exact flagged.congr (haltHead_notice ..)

theorem actRetrain (h : NoticeOk s) (r : Req) (n : Nest) : NoticeOk (actRetrain r n s) := by
  have moved : NoticeOk (Machine.trainIfReady n (Machine.linkDown n s)) := (h.linkDown n).trainIfReady n
  unfold Machine.actRetrain
  dsimp only
  split <;> exact moved.congr rfl

/-! ### Resets and start-up (R187 to R189) -/

theorem powerOn (strap : BitVec 4) (s : State) : NoticeOk (powerOnState strap s) := noticeOk_reset.congr rfl

theorem endLoading (h : NoticeOk s) (c : Configuration) : NoticeOk (endLoading c s) := by
  have enabled : NoticeOk (applyEnable c.enable s) := h.congr (applyEnable_notice ..)
  refine NoticeOk.trainAll ?_
  exact enabled

theorem restart (hs : NoticeOk s) (h : execRestart s = .next t) : NoticeOk t := by
  refine hs.of_runRequest h fun _ args _ hu => hu.withoutArgs (fun r v hv => ?_) _ args
  have answered : NoticeOk (Machine.respond r .ok (byte (entriesInUse v)) v) := hv.respond ..
  exact answered

theorem restartEvent (hs : NoticeOk s) (h : execRestartEvent s = .next t) : NoticeOk t := by
  have cleared : NoticeOk (restartState s) := noticeOk_reset.congr rfl
  exact hs.of_takesPlace h cleared.trainAll

end NoticeOk

/-! ### Every command -/

variable {s t : State}

/-- Every command keeps the Notice Unit's causes, nest sets and slots in agreement. -/
theorem exec_noticeOk (c : Instr) (hs : NoticeOk s) (h : exec c s = .next t) : NoticeOk t := by
  cases c with
  | powerOn strap => cases h; exact .powerOn strap s
  | resetPin strap => cases h; exact .powerOn strap s
  | loadingEnd flash => exact hs.of_takesPlace h (hs.endLoading _)
  | frameReceived frame => exact hs.of_takesPlace h (hs.congr (takeFrame_notice ..))
  | requestWaiting => exact hs.of_takesPlace h (hs.congr rfl)
  | step =>
    change execStep s = _ at h
    unfold execStep at h
    split at h <;> cases h
    · next f _ => exact ((hs.congr (passMessage_notice s f)).takeStep f).congr rfl
    · exact hs
  | requestUnknownCode =>
    change execRequestUnknownCode s = _ at h
    exact hs.of_runRequest h fun _ _ _ hu => hu.respond ..
  | describe => exact hs.of_runRequest h fun _ args _ hu => hu.withoutArgs (fun _ _ hv => hv.respond ..) _ args
  | putRowsGroup | putRowsProfile | putRowsCodeSet | putRowsNestConfig | putRowsAllowList | putRowsSettings =>
    exact hs.of_runRequest h fun _ args _ hu => hu.withTable (fun _ _ _ _ hv => hv.putRowsOf ..) _ args
  | getRows =>
    exact hs.of_runRequest h fun _ args _ hu =>
      hu.withTable (fun _ _ _ _ hv => hv.congr (getRowsOf_notice ..)) _ args
  | getCounters =>
    change execGetCounters s = _ at h
    refine hs.of_runRequest h fun _ _ _ hu => hu.congr ?_
    split <;> rfl
  | getCountersClear =>
    change execGetCountersClear s = _ at h
    refine hs.of_runRequest h fun _ _ _ hu => hu.congr ?_
    split <;> rfl
  | getState => exact hs.of_runRequest h fun _ args _ hu => hu.withoutArgs (fun _ _ hv => hv.respond ..) _ args
  | openLot => exact hs.openLot h
  | closeLot => exact hs.closeLot h
  | abortStream => exact hs.abortStream h
  | streamHaltAndVoid n => exact hs.streamHaltAndVoid h
  | nestActionHalt => exact hs.of_nestAction h fun r n _ hu => hu.actHalt r n
  | nestActionCycle => exact hs.of_nestAction h fun r n _ hu => hu.actCycle r n
  | nestActionExclude => exact hs.of_nestAction h fun r n _ hu => hu.actExclude r n
  | nestActionInclude => exact hs.of_nestAction h fun _ _ _ hu => hu.congr rfl
  | nestActionRetrain => exact hs.of_nestAction h fun r n _ hu => hu.actRetrain r n
  | releaseAttention =>
    change execReleaseAttention s = _ at h
    refine hs.of_runRequest h fun r args u hu => ?_
    split
    · exact hu.releaseSlot ..
    · exact hu.respond ..
  | restart => exact hs.restart h
  | restartEvent => exact hs.restartEvent h
  | uplinkTransmitStart => exact hs.of_takesPlace h (hs.congr rfl)
  | uplinkFrameSent =>
    change execUplinkFrameSent s = _ at h
    unfold execUplinkFrameSent at h
    split at h
    · exact hs.of_takesPlace h (hs.congr rfl)
    · cases h; exact hs
  | uplinkLinkChange up =>
    cases h
    refine hs.congr ?_
    split
    · split
      · rfl
      · exact uplinkDown_notice _
    · rfl
  | laneSignalPresent n =>
    cases h
    have seen : NoticeOk { s with signal := upd s.signal n fun _ => true } := hs
    split
    · exact seen.trainIfReady n
    · exact seen
  | laneSignalLost n =>
    cases h
    have seen : NoticeOk { s with signal := upd s.signal n fun _ => false } := hs
    split
    · exact seen.linkDown n
    · exact seen
  | greetRepeat n => exact hs.of_takesPlace h (hs.congr rfl)
  | frameLeavesLane n => exact hs.of_takesPlace h (hs.congr (by split <;> rfl))
  | badFrame n bytes => exact hs.of_takesPlace h (hs.congr (countBadFrame_notice ..))
  | welcome n id b =>
    refine hs.of_takesPlace h ?_
    split
    · exact hs.takeWelcome ..
    · exact hs.congr (countBadFrame_notice ..)
  | presence n b =>
    refine hs.of_takesPlace h ?_
    split
    · split
      · exact hs.setPresence ..
      · exact hs
    · exact hs.congr (countBadFrame_notice ..)
  | answer n tag status payload =>
    refine hs.of_takesPlace h ?_
    split
    · exact hs.congr (countBadFrame_notice ..)
    · split
      · exact hs.classifyAnswer ..
      · exact hs
  | stopped n tag => exact hs.of_takesPlace h (hs.congr (by split <;> rfl))
  | note n code => exact hs.of_takesPlace h (hs.takeNote n code)
  | chat n payload =>
    refine hs.of_takesPlace h (hs.congr ?_)
    split
    · exact countBadFrame_notice ..
    · split
      · exact takeChat_notice ..
      · rfl
  | startHead n =>
    change execStartHead n s = _ at h
    unfold execStartHead at h
    split at h <;> cases h <;> exact hs.congr rfl
  | deadlineExpiry n =>
    change execDeadlineExpiry n s = _ at h
    unfold execDeadlineExpiry at h
    split at h <;> cases h
    · exact hs.congr (expireDeadline_notice ..)
    · exact hs
  | gapExpiry n =>
    change execGapExpiry n s = _ at h
    unfold execGapExpiry at h
    split at h <;> cases h <;> exact hs.congr rfl
  | graceExpiry n => exact hs.of_takesPlace h (hs.congr rfl)
  | stopFailure n =>
    exact hs.of_takesPlace h ((hs.congr (t := dropEvent n s) rfl).takeStopFailure n)
  | absence n =>
    have lost : NoticeOk (loseIfClear n (dropEvent n s)) := (hs.congr (t := dropEvent n s) rfl).loseIfClear n
    exact hs.of_takesPlace h (lost.congr (retrainProgress_notice ..))
  | stall n =>
    have lost : NoticeOk (loseIfClear n (dropEvent n s)) := (hs.congr (t := dropEvent n s) rfl).loseIfClear n
    exact hs.of_takesPlace h (lost.congr (giveVoid_notice ..))
  | voidInstruction n =>
    change execVoidInstruction n s = _ at h
    unfold execVoidInstruction at h
    split at h
    · exact hs.of_takesPlace h (hs.congr (takeVoids_notice ..))
    · cases h; exact hs
  | outcomeDelivered n =>
    change execOutcomeDelivered n s = _ at h
    unfold execOutcomeDelivered at h
    split at h
    · exact hs.of_takesPlace h (hs.congr rfl)
    · cases h; exact hs
  | retirementStart =>
    change execRetirementStart s = _ at h
    unfold execRetirementStart at h
    split at h <;> cases h <;> exact hs.congr rfl
  | segmentPlaced =>
    change execSegmentPlaced s = _ at h
    unfold execSegmentPlaced at h
    split at h
    · exact hs.of_takesPlace h (hs.congr (placeSegment_notice ..))
    · cases h; exact hs
  | noticeBuild => exact hs.of_takesPlace h hs.buildNotice
  | throttleExpiry => exact hs.of_takesPlace h hs
  | timeSinceStartTick => exact hs.of_takesPlace h (hs.congr rfl)
  | resetPinAssertion => cases h; exact hs.congr rfl

/-- Settles O57: raises come with their nest set or slot, a build takes them together, and nothing else touches
them. -/
theorem stepKeepsNotices : Obligations.StepKeepsNotices := by
  intro s t hs h
  unfold Machine.step at h
  split at h
  · cases h; exact hs
  · next c rest _ =>
    have rest_ok : NoticeOk { s with pending := rest } := hs
    exact exec_noticeOk c rest_ok h

end Sys2Proof.Machine

end

section
/-! A notice built, a NOTE, a CHAT and a slot released (R81, R164 to R171): statements O48, O39 and O33. -/

namespace Sys2Proof.Machine

variable {s : State} {n : Nest}

/-! ### When a notice is built (R164) -/

theorem noticeReady_iff : noticeReady s = true ↔ s.phase = .running ∧ s.notice.throttle.isRunning = false ∧
    eligibleCauses s ≠ 0#7 ∧ s.uplink.notice.length < 2 := by
  simp [noticeReady, State.running, Config.noticeCapacity, and_assoc]

theorem execNoticeBuild_of_ready (h : noticeReady s = true) : exec .noticeBuild s = .next (buildNotice s) :=
  takesPlace_true h s _

theorem execNoticeBuild_of_not_ready (h : noticeReady s ≠ true) : exec .noticeBuild s = .next s :=
  takesPlace_false (Bool.eq_false_of_not_eq_true h) s _

/-! ### What a build takes and leaves (R165, R167, R170) -/

/-- The causes left are those that were masked (R165). -/
theorem causes_buildNotice (s : State) : (buildNotice s).notice.causes = s.notice.causes &&& s.mgmt.settings.mask := by
  show s.notice.causes &&& ~~~(s.notice.causes &&& ~~~s.mgmt.settings.mask) = _
  ext i
  simp only [BitVec.getElem_and, BitVec.getElem_not]
  cases s.notice.causes[i] <;> simp

/-- The attention records are the PENDING slots' nests, codes and superseded flags (R165). -/
theorem attentionRecords_nests (slots : Vector Slot 32) : (attentionRecords slots).map AttentionRecord.nest =
    allNests.filter (fun n => slots[n.val].state = .pending) := by
  rw [attentionRecords, List.map_map]
  exact List.map_id _

theorem attentionRecords_fields {slots : Vector Slot 32} {a : AttentionRecord} (h : a ∈ attentionRecords slots) :
    a.code = slots[a.nest.val].code ∧ a.superseded = slots[a.nest.val].superseded := by
  obtain ⟨n, -, rfl⟩ := List.mem_map.mp h
  exact ⟨rfl, rfl⟩

/-- The slots delivered are the PENDING ones of a build that takes ATTENTION (R170). -/
theorem slots_delivered (s : State) (n : Nest) : (buildNotice s).notice.slots[n.val] =
    if CauseSet.has (eligibleCauses s) .attention = true ∧ s.notice.slots[n.val].state = .pending
    then { s.notice.slots[n.val] with state := .held } else s.notice.slots[n.val] := by
  rw [slots_buildNotice, ite_and]
  rfl

/-- Settles O48: a notice is built when R164 lets it, and what it takes is read off `buildNotice`. -/
theorem noticeCarriesUnmaskedCauses : Obligations.NoticeCarriesUnmaskedCauses := by
  refine ⟨fun s taken running stopped htaken some_taken room => ?_, fun s nothing => ?_,
    fun s d running throttled => ⟨?_, ?_⟩⟩
  · subst htaken
    have ready : noticeReady s = true := noticeReady_iff.mpr ⟨running, by rw [stopped]; rfl, some_taken, room⟩
    refine ⟨buildNotice s, builtNotice s, execNoticeBuild_of_ready ready, rfl, rfl, rfl, rfl, causes_buildNotice s,
      rfl, rfl, rfl, rfl, ?_, ?_, fun a ha => ?_, slots_delivered s⟩
    · show (if s.mgmt.settings.throttle = 0 then s.notice.throttle else _) = _
      rw [stopped]
    · refine (apply_ite (List.map AttentionRecord.nest) ..).trans ?_
      rw [attentionRecords_nests]
      rfl
    · change a ∈ (if _ then attentionRecords s.notice.slots else []) at ha
      split at ha
      · exact attentionRecords_fields ha
      · cases ha
  · refine execNoticeBuild_of_not_ready fun ready => ?_
    obtain ⟨-, -, eligible, room⟩ := noticeReady_iff.mp ready
    exact nothing.elim eligible (Nat.not_le_of_lt room)
  · refine execNoticeBuild_of_not_ready fun ready => ?_
    obtain ⟨-, idle, -, -⟩ := noticeReady_iff.mp ready
    rw [throttled] at idle
    cases idle
  · exact takesPlace_true (by rw [State.running, running, throttled]; rfl) s _

/-! ### A NOTE and a CHAT taken (R80, R81, R169) -/

theorem take_of_empty {x : Slot} (h : x.state = .empty) (code : Word16) :
    x.take code = { state := .pending, code := code, superseded := false, missed := false } := by
  rw [Slot.take, h]

theorem take_of_pending {x : Slot} (h : x.state = .pending) (code : Word16) :
    x.take code = { x with code := code, superseded := true } := by
  rw [Slot.take, h]

theorem take_of_held {x : Slot} (h : x.state = .held) (code : Word16) : x.take code = { x with missed := true } := by
  rw [Slot.take, h]

theorem upd_congr {α : Type} {k : Nat} {v : Vector α k} {i : Fin k} {f g : α → α} (h : f v[i.val] = g v[i.val]) :
    upd v i f = upd v i g := by
  unfold upd; rw [h]

theorem running_and_up (running : s.phase = .running) (up : (s.port n).link = .up) :
    (s.running && decide ((s.port n).link = .up)) = true := by
  rw [running_of_phase running, up]; rfl

theorem execNote_up (running : s.phase = .running) (up : (s.port n).link = .up) (code : Word16) :
    exec (.note n code) s = .next (takeNote n code s) :=
  takesPlace_true (running_and_up running up) s _

theorem execChat_up (running : s.phase = .running) (up : (s.port n).link = .up) {payload : List Byte}
    (short : payload.length ≤ 256) : exec (.chat n payload) s = .next (takeChat n payload s) := by
  have fits : ¬payload.length > Config.maxAnswer := Nat.not_lt.mpr short
  show execChat n payload s = _
  rw [execChat, takesPlace_true (running_of_phase running), if_neg fits, if_pos up]

/-- Settles O39: the slot takes the NOTE by its state, and the CHAT is forwarded or dropped and counted. -/
theorem noteAndChatReception : Obligations.NoteAndChatReception := by
  refine ⟨fun s n code running up => ?_, fun s n payload running up short => ?_⟩
  · rw [execNote_up running up, takeNote_eq]
    refine ⟨fun slot => ?_, fun slot => ?_, fun slot => ?_⟩
    · have take := take_of_empty slot code
      rw [upd_congr (g := fun _ => _) take, take]; rfl
    · have take := take_of_pending slot code
      rw [upd_congr (g := fun x => { x with code := code, superseded := true }) take, take, if_pos (by exact slot)]; rfl
    · have take := take_of_held slot code
      have idle : (s.notice.slots[n.val].take code).state ≠ .pending := fun pending => (take_pending_iff ..).mp pending slot
      rw [upd_congr (g := fun x => { x with missed := true }) take, if_neg idle]
  · rw [execChat_up running up short, takeChat]
    refine ⟨fun flag room => ?_, fun closed => ?_⟩
    · rw [if_pos ⟨flag, room⟩]
    · rw [if_neg]
      · rfl
      · rintro ⟨flag, room⟩
        rcases closed with off | full
        · rw [flag] at off; cases off
        · exact absurd room (Nat.not_lt.mpr full)

/-! ### RELEASE_ATTENTION (R171, R193) -/

theorem releaseArg_ofNat (n : Nest) : releaseArg [BitVec.ofNat 8 n.val] = some n := by
  revert n; decide

theorem releaseArg_eq_none {args : List Byte} (h : args.length ≠ 1 ∨ 31 < (byteAt args 0).toNat) :
    releaseArg args = none := by
  unfold releaseArg
  split
  · next b =>
    have above : 31 < b.toNat := h.resolve_left fun ne => ne rfl
    exact dif_neg (by omega)
  · rfl

theorem execReleaseAttention_asked {f : RxFrame} (h : Asked s f .releaseAttention [BitVec.ofNat 8 n.val]) :
    exec .releaseAttention s = .next (releaseSlot n (reqOf f) (passMessage f s)) := by
  show execReleaseAttention s = _
  unfold execReleaseAttention
  rw [runRequest_asked h, releaseArg_ofNat]

/-- A slot that is not HELD stays, and the request is answered NOT_HELD (R171). -/
theorem releaseSlot_of_not_held (h : s.notice.slots[n.val].state ≠ .held) (r : Req) :
    releaseSlot n r s = respond r .notHeld (byte n.val) s := by
  unfold releaseSlot
  dsimp only
  split
  · next held => exact absurd held h
  all_goals rfl

/-- The result data of a release, byte by byte (11.5). -/
theorem releaseResult_bytes (x : Slot) (n : Nest) :
    byte n.val ++ byte (bit x.superseded 0 + bit x.missed 1) ++ leBytes 2 x.code.toNat =
      [BitVec.ofNat 8 n.val, (if x.superseded then 1#8 else 0#8) + (if x.missed then 2#8 else 0#8),
       x.code.setWidth 8, (x.code >>> 8).setWidth 8] := by
  have flags : BitVec.ofNat 8 (bit x.superseded 0 + bit x.missed 1) =
      (if x.superseded then 1#8 else 0#8) + (if x.missed then 2#8 else 0#8) := by
    cases x.superseded <;> cases x.missed <;> rfl
  obtain ⟨low, high⟩ := ofNat_toNat_word16 x.code
  rw [← flags, ← low, ← high]
  rfl

/-- Settles O33: the answer by the slot's state, a HELD slot emptied, and BAD_REQUEST for what names no nest. -/
theorem releaseAttentionEmptiesHeldSlot : Obligations.ReleaseAttentionEmptiesHeldSlot := by
  refine ⟨fun s f args h bad => ?_, fun s f n h => ?_⟩
  · show execReleaseAttention s = _
    exact runRequest_badRequest h h.isRequestOf fun _ _ => by rw [releaseArg_eq_none bad]
  · rw [execReleaseAttention_asked h]
    refine ⟨fun code superseded missed slot => ?_, fun notHeld => ?_⟩
    · rw [← releaseResult_bytes { state := .held, code, superseded, missed } n, releaseSlot, passMessage_notice, slot]
      rfl
    · rw [releaseSlot_of_not_held (by exact notHeld)]
      rfl

end Sys2Proof.Machine

end

section
/-! What power-on, the reset pin, its assertion and the restart leave (R181, R187, R189): statements O3, O5 and O6. -/

namespace Sys2Proof.Machine

variable {s t : State}

/-! ### Every counter cleared (R186) -/

theorem allCounters_eq_zero (globals : t.mgmt.counters = Globals.zero)
    (nests : ∀ n : Nest, (t.port n).counters = NestCounters.zero) : ∀ c ∈ allCounters t, c = 0#32 := by
  intro c hc
  rw [allCounters, List.mem_append, globals] at hc
  rcases hc with global | nest
  · have zeros : Globals.zero.list = List.replicate 20 0#32 := rfl
    exact List.eq_of_mem_replicate (zeros ▸ global)
  · rw [toList_eq_map, List.mem_flatMap] at nest
    obtain ⟨p, hp, mem⟩ := nest
    obtain ⟨n, -, rfl⟩ := List.mem_map.mp hp
    have cleared : t.ports[n.val].counters = NestCounters.zero := nests n
    have zeros : NestCounters.zero.list = List.replicate 6 0#32 := rfl
    rw [cleared, zeros] at mem
    exact List.eq_of_mem_replicate mem

/-! ### What every reset clears (R187) -/

/-- Each block stands as its own rule has it after any reset, before a link trains. -/
structure BlocksCleared (t : State) : Prop where
  streams : t.streams = initialStreams
  table : t.table = StepTable.initial
  payload : t.payload = PayloadStore.initial
  ports : ∀ n : Nest, t.port n = NestPort.initial (t.port n).config
  pins : ∀ r : Fin 64, (t.profile r).pins = 0
  records : t.judge.records = initialRecords
  coalesce : t.coalesce = Coalescing.initial
  retire : t.retire = Retire.initial
  lot : t.lot = Lot.initial
  notice : t.notice = NoticeUnit.initial
  uplink : t.uplink = t.uplink.cleared
  dispatcher : t.dispatcher = Dispatcher.initial
  counters : t.mgmt.counters = Globals.zero
  time : t.mgmt.time = 0

theorem BlocksCleared.clearedByReset (h : BlocksCleared t) : ClearedByReset t := by
  have entry : ∀ e, t.entry e = StepEntry.free := entry_of_initial h.table
  have nest : ∀ n, t.lotNest n = LotNest.initial := fun n => by
    rw [State.lotNest, h.lot]; exact Vector.getElem_replicate ..
  have record : ∀ e n, t.record e n = Record.cleared := fun e n => by
    simp [State.record, h.records, initialRecords]
  have set : ∀ i, t.variantSet i = VariantSet.empty := fun i => by
    rw [State.variantSet, h.coalesce]; exact Vector.getElem_replicate ..
  have list : ∀ st, t.retireList st = [] := fun st => by
    rw [State.retireList, h.retire]; exact Vector.getElem_replicate ..
  refine ⟨fun st => ?_, fun e => ?_, by rw [h.table]; rfl, by rw [h.payload, PayloadStore.initial],
    ⟨by rw [h.lot]; rfl, by rw [h.lot]; rfl, fun n => ?_⟩, fun n => ?_, h.pins, record, set,
    by rw [h.coalesce, Coalescing.initial],
    ⟨list, by rw [h.retire]; rfl, by rw [h.retire]; rfl, by rw [h.retire]; rfl⟩, fun n => ?_,
    by rw [h.notice]; rfl, by rw [h.notice]; rfl, by rw [h.notice]; rfl, by rw [h.notice]; rfl, by rw [h.notice]; rfl,
    ?_, h.dispatcher, allCounters_eq_zero h.counters fun n => by rw [h.ports]; rfl, h.time⟩
  · rw [State.stream, h.streams]; exact Vector.getElem_replicate ..
  · have refs : t.payload.refs[e.val] = 0 := by simp [h.payload, PayloadStore.initial]
    rw [entry]
    exact ⟨rfl, rfl, rfl, rfl, rfl, refs⟩
  · rw [nest]
    exact ⟨rfl, rfl, rfl, rfl, rfl, rfl, rfl⟩
  · rw [h.ports]
    exact ⟨rfl, rfl, rfl, rfl, rfl, rfl, rfl, rfl, rfl, rfl, rfl, rfl, rfl⟩
  · simp [h.notice, NoticeUnit.initial, Slot.none]
  · rw [h.uplink]
    exact ⟨rfl, rfl, rfl, rfl, rfl, rfl, rfl⟩

/-! ### Power-on and the reset pin (R189) -/

theorem port_powerOnState (strap : BitVec 4) (s : State) (n : Nest) :
    (powerOnState strap s).port n = NestPort.initial (NestConfig.default false) := port_reset n

theorem blocksCleared_powerOnState (strap : BitVec 4) (s : State) : BlocksCleared (powerOnState strap s) where
  streams := rfl
  table := rfl
  payload := rfl
  ports n := by rw [port_powerOnState]; rfl
  pins r := congrArg ProfileRow.pins (profile_reset r)
  records := rfl
  coalesce := rfl
  retire := rfl
  lot := rfl
  notice := rfl
  uplink := rfl
  dispatcher := rfl
  counters := rfl
  time := rfl

theorem powerOnValues_powerOnState (strap : BitVec 4) (s : State) : PowerOnValues (powerOnState strap s) := by
  have row : ∀ r, (powerOnState strap s).profile r = ProfileRow.empty := profile_reset
  refine ⟨(blocksCleared_powerOnState strap s).clearedByReset, fun n => ?_, fun g => Vector.getElem_replicate ..,
    fun r => ?_, fun r => Vector.getElem_replicate .., rfl, rfl⟩
  · rw [port_powerOnState]
    exact ⟨rfl, rfl, rfl⟩
  · rw [row]
    exact ⟨rfl, fun i => Vector.getElem_replicate ..⟩

/-- Settles O3: both commands go to `powerOnState`, which the state right after reset is as well. -/
theorem powerOnAndResetPinValues : Obligations.PowerOnAndResetPinValues :=
  ⟨powerOnValues_powerOnState 0 State.reset,
    fun strap s => ⟨powerOnState strap s, rfl, rfl, powerOnValues_powerOnState strap s, rfl⟩⟩

/-! ### The restart (R187) -/

theorem port_restartState (s : State) (n : Nest) : (restartState s).port n = NestPort.initial (s.port n).config :=
  mapTable_get ..

theorem blocksCleared_restartState (s : State) : BlocksCleared (restartState s) where
  streams := rfl
  table := rfl
  payload := rfl
  ports n := by rw [port_restartState]; rfl
  pins r := by rw [profile_restartState]
  records := rfl
  coalesce := rfl
  retire := rfl
  lot := rfl
  notice := rfl
  uplink := rfl
  dispatcher := rfl
  counters := rfl
  time := rfl

/-- Every nest being DOWN after the restart, those that train are the enabled ones with signal (R60). -/
theorem ready_restartState (s : State) :
    ready (restartState s) = fun n => (s.port n).config.enabled && s.signal[n.val] := by
  funext n
  rw [ready, port_restartState]
  rfl

/-- Settles O5: the blocks as `restartState` has them, and then the links that train. -/
theorem restartClearsAndKeeps : Obligations.RestartClearsAndKeeps := by
  intro s running due
  have trains := trainAll_spec (restartState s)
  rw [ready_restartState] at trains
  refine ⟨restartState s, trainAll (restartState s), ?_, (blocksCleared_restartState s).clearedByReset, fun n => ?_,
    rfl, rfl, rfl, rfl, rfl, profile_restartState, rfl, rfl, rfl, rfl, rfl, rfl, running, rfl, rfl, rfl, trains⟩
  · exact takesPlace_true (by rw [running_of_phase running, due]; rfl) s _
  · rw [port_restartState]
    exact ⟨rfl, rfl, rfl, rfl⟩

/-! ### The assertion of the reset pin and the tick (R181, R189) -/

/-- Settles O6: the assertion as the model has it, and the tick in each phase. -/
theorem resetAssertionAndTick : Obligations.ResetAssertionAndTick :=
  ⟨fun s => ⟨_, rfl, rfl, fun n => mapTable_get _ s.ports n.val n.isLt⟩,
    fun s phase => takesPlace_true (decide_eq_true phase) s _,
    fun s held => takesPlace_false (decide_eq_false (not_not.mpr held)) s _⟩

end Sys2Proof.Machine

end

section
/-! The configuration that LOADING_END takes effect with (R60, R64, R188, R189): statement O4. -/

namespace Sys2Proof.Machine

variable {s : State} {image : List Byte}

/-! ### The flash image (R188) -/

theorem leAt_two (b : List Byte) (i : Nat) : leAt b i 2 = (byteAt b i).toNat + 256 * (byteAt b (i + 1)).toNat := rfl

theorem imageGood_iff : imageGood image = true ↔ GoodImage image := by
  have group : image.length = 40 →
      isGroupAddress (BitVec.ofNat 48 (beNat (image.take 6))) = (byteAt image 0).getLsbD 0 := fun hlen => by
    rw [isGroupAddress_ofNat (by rw [List.length_take, hlen]; rfl), byteAt_take (by decide)]
  simp only [imageGood, Bool.and_eq_true, decide_eq_true_eq, Bool.not_eq_true', and_assoc]
  exact and_congr_right fun hlen => by rw [group hlen]; exact Iff.rfl

/-- An allow list entry of a good image, its address valid only with valid byte 1 and no group bit (R188). -/
theorem imageAllow_eq (hlen : image.length = 40) (i : Fin 4) : imageAllow image i.val =
    if byteAt image (6 + 7 * i.val) = 1#8 ∧ (byteAt image (7 + 7 * i.val)).getLsbD 0 = false then
      { valid := true, addr := BitVec.ofNat 48 (beNat ((image.drop (7 + 7 * i.val)).take 6)) }
    else { valid := false, addr := 0 } := by
  have start : 6 + 7 * i.val + 1 = 7 + 7 * i.val := by omega
  have six : ((image.drop (7 + 7 * i.val)).take 6).length = 6 := by
    rw [List.length_take, List.length_drop, hlen]; omega
  simp only [imageAllow, start, isGroupAddress_ofNat six, byteAt_take (show 0 < 6 by decide), byteAt_drop, Nat.add_zero,
    Bool.not_eq_true]

theorem configurationOf_good (h : GoodImage image) (strap : BitVec 4) : configurationOf strap (some image) =
    { mac := BitVec.ofNat 48 (beNat (image.take 6)),
      allow := #v[imageAllow image 0, imageAllow image 1, imageAllow image 2, imageAllow image 3],
      enable := BitVec.ofNat 32 (leAt image 34 4), fromFlash := true } := by
  rw [configurationOf, Option.filter_some_pos (imageGood_iff.mpr h)]

/-- The strap value takes the lowest four bits of the default address, which are 0 (R188). -/
theorem defaultAddress_eq (strap : BitVec 4) :
    0x025547000000#48 ||| strap.setWidth 48 = 0x025547000000#48 + strap.setWidth 48 := by
  revert strap; decide

theorem configurationOf_default {flash : Option (List Byte)} (h : ∀ image, flash = some image → ¬GoodImage image)
    (strap : BitVec 4) : configurationOf strap flash =
    { mac := 0x025547000000#48 + strap.setWidth 48, allow := Vector.replicate 4 { valid := false, addr := 0 },
      enable := BitVec.allOnes 32, fromFlash := false } := by
  have none_good : flash.filter imageGood = none :=
    Option.filter_eq_none_iff.mpr fun image hi good => h image hi (imageGood_iff.mp good)
  rw [configurationOf, none_good, ← defaultAddress_eq]

/-! ### The configuration taken (R64, R189) -/

theorem foldl_updPort (g : Nest → NestPort → NestPort) (l : List Nest) (s : State) :
    l.foldl (fun t n => t.updPort n (g n)) s = { s with ports := l.foldl (fun v n => upd v n (g n)) s.ports } := by
  induction l generalizing s with
  | nil => rfl
  | cons n l ih => exact ih (s.updPort n (g n))

/-- The enabled flag of nest `n` as the nest enable mask has it (R64). -/
def enableNest (mask : NestSet) (n : Nest) (p : NestPort) : NestPort :=
  { p with config := { p.config with enabled := NestSet.has mask n } }

theorem applyEnable_eq (mask : NestSet) (s : State) : applyEnable mask s =
    { s with ports := allNests.foldl (fun v n => upd v n (enableNest mask n)) s.ports } :=
  foldl_updPort (enableNest mask) allNests s

theorem applyEnable_frame (mask : NestSet) (s : State) :
    applyEnable mask s = { s with ports := (applyEnable mask s).ports } := by
  rw [applyEnable_eq]

theorem port_applyEnable (mask : NestSet) (s : State) (n : Nest) : (applyEnable mask s).port n =
    { s.port n with config := { (s.port n).config with enabled := NestSet.has mask n } } := by
  rw [applyEnable_eq]
  exact (foldl_upd_get (enableNest mask) allNests (List.nodup_finRange 32) s.ports n).trans (if_pos (mem_allNests n))

/-- The state at the end of loading, before the links train (R188, R189). -/
def configured (c : Configuration) (s : State) : State :=
  { applyEnable c.enable s with
    phase := .running,
    uplink := { s.uplink with mac := c.mac, allow := c.allow, linkUp := s.phyUp },
    mgmt := { s.mgmt with fromFlash := c.fromFlash } }

theorem endLoading_eq (c : Configuration) (s : State) : endLoading c s = trainAll (configured c s) := by
  unfold endLoading configured
  rw [applyEnable_frame]

theorem configured_frame (c : Configuration) (s : State) : configured c s = { s with
    phase := .running, ports := (configured c s).ports,
    uplink := { s.uplink with mac := c.mac, allow := c.allow, linkUp := s.phyUp },
    mgmt := { s.mgmt with fromFlash := c.fromFlash } } := by
  unfold configured
  rw [applyEnable_frame]

theorem port_configured (c : Configuration) (s : State) (n : Nest) : (configured c s).port n =
    { s.port n with config := { (s.port n).config with enabled := NestSet.has c.enable n } } :=
  port_applyEnable c.enable s n

theorem ready_configured (c : Configuration) (s : State) : ready (configured c s) = fun n =>
    decide ((s.port n).link = .down) && ((configured c s).port n).config.enabled && s.signal[n.val] := by
  funext n
  have signal : (configured c s).signal = s.signal := by rw [configured_frame]
  rw [ready, port_configured]
  simp only [signal]

/-- Settles O4: what the configuration is for each flash, and then the links that train. -/
theorem loadingEndTakesConfiguration : Obligations.LoadingEndTakesConfiguration := by
  intro flash s loading
  have trains := trainAll_spec (configured (configurationOf s.mgmt.strap flash) s)
  rw [ready_configured] at trains
  refine ⟨configured (configurationOf s.mgmt.strap flash) s, _, ?_, configured_frame .., fun n => ?_,
    fun image given good => ?_, fun bad => ?_, trains⟩
  · rw [← endLoading_eq]
    exact takesPlace_true (decide_eq_true loading) s _
  · rw [port_configured]
  · obtain ⟨hlen, -, -⟩ := id good
    rw [given, configurationOf_good good]
    refine ⟨rfl, rfl, fun n => ?_, fun i => ?_⟩
    · rw [port_configured]
      show (BitVec.ofNat 32 _).getLsbD n.val = _
      rw [BitVec.getLsbD_ofNat, decide_eq_true n.isLt, Bool.true_and]
    · rw [← imageAllow_eq hlen i]
      match i with
      | 0 | 1 | 2 | 3 => rfl
  · rw [configurationOf_default bad]
    refine ⟨rfl, rfl, fun n => ?_, fun i => Vector.getElem_replicate ..⟩
    rw [port_configured]
    show (BitVec.allOnes 32).getLsbD n.val = true
    rw [BitVec.getLsbD_allOnes, decide_eq_true n.isLt]

end Sys2Proof.Machine

end

section
/-! A frame from the PHY, check by check (R173, R174, R175, R180, R189): statement O7. -/

namespace Sys2Proof.Machine

variable {s : State} {frame : List Byte}

/-! ### The addresses (R173 check 2, R174) -/

/-- Six bytes spell an address exactly when they are the bytes of that address. -/
theorem ofNat_beNat_eq_iff {bs : List Byte} (h : bs.length = 6) (a : MacAddr) :
    BitVec.ofNat 48 (beNat bs) = a ↔ bs = beBytes 6 a.toNat := by
  constructor
  · rintro rfl
    have fits : beNat bs < 2 ^ 48 := by
      have := leNat_lt bs.reverse
      rwa [List.length_reverse, h] at this
    have whole : leBytes 6 (beNat bs) = bs.reverse := by
      have := leBytes_leNat bs.reverse
      rwa [List.length_reverse, h] at this
    rw [BitVec.toNat_ofNat, Nat.mod_eq_of_lt fits, beBytes, whole, List.reverse_reverse]
  · rintro rfl
    exact ofNat_beNat_beBytes (k := 6) a

/-- The allow list shuts a source out when it has a valid entry and none of the valid ones names the source. -/
theorem not_allowed_iff (u : Uplink) (src : MacAddr) : ¬allowed u src = true ↔
    (∃ i : Fin 4, u.allow[i.val].valid = true) ∧
      ∀ i : Fin 4, u.allow[i.val].valid = true → u.allow[i.val].addr ≠ src := by
  have some_valid : ¬(u.allow.toList.filter fun a => a.valid).isEmpty = true ↔
      ∃ i : Fin 4, u.allow[i.val].valid = true := by
    rw [List.isEmpty_iff, List.filter_eq_nil_iff, toList_eq_map]
    simp
  have none_named : ¬(u.allow.toList.filter fun a => a.valid).any (fun a => a.addr = src) = true ↔
      ∀ i : Fin 4, u.allow[i.val].valid = true → u.allow[i.val].addr ≠ src := by
    rw [List.any_filter, toList_eq_map]
    simp
  simp only [allowed, Bool.or_eq_true, not_or]
  exact and_congr some_valid none_named

/-! ### The message header (R173 check 5) -/

theorem classOf_eq_iff (msg : List Byte) (c : Byte) : classOf msg = c.toNat ↔ byteAt msg 1 = c := BitVec.toNat_inj

theorem classOf_step_iff (msg : List Byte) : classOf msg = classStep ↔ byteAt msg 1 = 1#8 := classOf_eq_iff msg 1#8

theorem classOf_request_iff (msg : List Byte) : classOf msg = classRequest ↔ byteAt msg 1 = 2#8 :=
  classOf_eq_iff msg 2#8

theorem checkHeader_eq {payload : List Byte} (h : 6 ≤ payload.length) (src : MacAddr) : checkHeader src payload =
    if byteAt payload 0 ≠ 1#8 ∨ (byteAt payload 1 ≠ 1#8 ∧ byteAt payload 1 ≠ 2#8) ∨ leAt payload 2 2 < 6 ∨
      payload.length < leAt payload 2 2 then .malformed
    else .passed { src := src, msg := payload.take (leAt payload 2 2) } := by
  have long : ¬payload.length < 6 := Nat.not_lt.mpr h
  rw [checkHeader]
  simp only [long, false_or, ne_eq, classOf_step_iff, classOf_request_iff]

/-! ### The frame (R173) -/

/-- The five checks of R173, on the source address and the payload of the frame. -/
theorem checkFrame_eq {src : MacAddr} {payload : List Byte} (hsrc : BitVec.ofNat 48 (beNat ((frame.drop 6).take 6)) = src)
    (hpayload : (frame.drop 14).take (frame.length - 18) = payload) (u : Uplink) : checkFrame u frame =
    if frame.length < 64 ∨ 1518 < frame.length ∨
        frame.drop (frame.length - 4) ≠ leBytes 4 (crc32 (frame.take (frame.length - 4))).toNat then .malformed
    else if frame.take 6 ≠ beBytes 6 u.mac.toNat ∧ frame.take 6 ≠ List.replicate 6 255#8 then .filtered
    else if (frame.drop 12).take 2 ≠ [0x88#8, 0xB5#8] then .filtered
    else if (∃ i : Fin 4, u.allow[i.val].valid = true) ∧
        (∀ i : Fin 4, u.allow[i.val].valid = true → u.allow[i.val].addr ≠ src) then .filtered
    else if byteAt payload 0 ≠ 1#8 ∨ (byteAt payload 1 ≠ 1#8 ∧ byteAt payload 1 ≠ 2#8) ∨ leAt payload 2 2 < 6 ∨
        payload.length < leAt payload 2 2 then .malformed
    else .passed { src := src, msg := payload.take (leAt payload 2 2) } := by
  by_cases short : frame.length < 64
  · rw [checkFrame, if_pos (.inl short), if_pos (.inl short)]
  have six : (frame.take 6).length = 6 := by rw [List.length_take]; omega
  have destination : ∀ a : MacAddr, BitVec.ofNat 48 (beNat (frame.take 6)) ≠ a ↔ frame.take 6 ≠ beBytes 6 a.toNat :=
    fun a => not_congr (ofNat_beNat_eq_iff six a)
  have everyone : beBytes 6 Config.broadcast.toNat = List.replicate 6 255#8 := by decide
  have etherType : beBytes 2 Config.etherType.toNat = [0x88#8, 0xB5#8] := by decide
  have covered : (frame.take (frame.length - 4)).drop 14 = payload := by
    rw [List.drop_take, ← hpayload]; congr 1
  have room : 6 ≤ payload.length := by
    rw [← hpayload, List.length_take, List.length_drop]; omega
  unfold checkFrame
  simp only [destination, everyone, etherType, not_allowed_iff, hsrc, covered, checkHeader_eq room]
  rfl

theorem takeFrame_malformed (h : checkFrame s.uplink frame = .malformed) :
    takeFrame frame s = s.updCounters (fun c => { c with rxMalformed := satInc c.rxMalformed }) := by
  rw [takeFrame, h]

theorem takeFrame_filtered (h : checkFrame s.uplink frame = .filtered) :
    takeFrame frame s = s.updCounters (fun c => { c with rxFilter := satInc c.rxFilter }) := by
  rw [takeFrame, h]

theorem takeFrame_passed {f : RxFrame} (h : checkFrame s.uplink frame = .passed f) : takeFrame frame s =
    if s.uplink.rx.length < 16 then
      { s.updCounters (fun c => { c with rxAccepted := satInc c.rxAccepted }) with
        uplink := { s.uplink with rx := s.uplink.rx ++ [f] } }
    else s.updCounters (fun c => { c with rxOverflow := satInc c.rxOverflow }) := by
  rw [takeFrame, h]
  rfl

/-- Settles O7: the part takes a frame only while it runs with the uplink UP, and then by the checks of R173. -/
theorem frameReceivedIsChecked : Obligations.FrameReceivedIsChecked := by
  refine ⟨fun frame s stopped => takesPlace_false ?_ s _, fun frame s running up => ?_⟩
  · rcases stopped with phase | down
    · rw [State.running, decide_eq_false phase, Bool.false_and]
    · rw [down, Bool.and_false]
  have taken : exec (.frameReceived frame) s = .next (takeFrame frame s) :=
    takesPlace_true (by rw [running_of_phase running, up]; rfl) s _
  rw [taken]
  congr 1
  dsimp only
  generalize hsrc : BitVec.ofNat 48 (beNat ((frame.drop 6).take 6)) = src
  generalize hpayload : (frame.drop 14).take (frame.length - 18) = payload
  have check := checkFrame_eq hsrc hpayload s.uplink
  split_ifs at check ⊢
  · exact takeFrame_malformed check
  · exact takeFrame_filtered check
  · exact takeFrame_filtered check
  · exact takeFrame_filtered check
  · exact takeFrame_malformed check
  · exact (takeFrame_passed check).trans (if_pos ‹_›)
  · exact (takeFrame_passed check).trans (if_neg ‹_›)

end Sys2Proof.Machine

end

section
/-! The bytes of the bridge's messages and of the frame around them (R173, R176, R190, R195, 11.1, 11.2, 11.5): for
statement O8. -/

namespace Sys2Proof.Machine

/-! ### Fields read where they were written (R190) -/

/-- A field is the number whose bytes stand at its offset. -/
theorem leAt_written {b : List Byte} {i k v : Nat} (h : (b.drop i).take k = leBytes k v) : leAt b i k = v % 256 ^ k := by
  have room : k ≤ b.length - i := by
    have := congrArg List.length h
    rw [List.length_take, List.length_drop, length_leBytes] at this
    omega
  by_cases inside : i ≤ b.length
  · rw [leAt_take _ _ _ (by omega), h, leNat_leBytes]
  · obtain rfl : k = 0 := by omega
    rw [Nat.pow_zero, Nat.mod_one]
    rfl

/-- A word written at an offset is the field there. -/
theorem leAt_word {b : List Byte} {i k : Nat} {x : BitVec (8 * k)} (h : (b.drop i).take k = leBytes k x.toNat) :
    leAt b i k = x.toNat := by
  rw [leAt_written h, toNat_mod_bytes]

theorem flatMap_byte (l : List Nat) : l.flatMap byte = l.map (BitVec.ofNat 8) := by
  induction l with
  | nil => rfl
  | cons v l ih => rw [List.flatMap_cons, ih]; rfl

/-- Part `i` of a table of parts of one size. -/
theorem piece_flatMap {α β : Type} {l : List α} {f : α → List β} {w : Nat} (hw : ∀ a ∈ l, (f a).length = w)
    {i : Nat} {a : α} (hi : l[i]? = some a) : ((l.flatMap f).drop (w * i)).take w = f a := by
  induction l generalizing i with
  | nil => cases hi
  | cons x l ih =>
    have hx : (f x).length = w := hw x List.mem_cons_self
    rw [List.flatMap_cons]
    cases i with
    | zero =>
      obtain rfl : x = a := Option.some.inj hi
      rw [Nat.mul_zero, List.drop_zero, List.take_left' hx]
    | succ i =>
      rw [Nat.mul_succ, Nat.add_comm, ← List.drop_drop, List.drop_left' hx]
      exact ih (fun b hb => hw b (List.mem_cons_of_mem x hb)) hi

/-! ### The Ethernet frame (R173, R176, 11.2) -/

theorem beBytes_address (a : MacAddr) :
    beBytes 6 a.toNat = [40, 32, 24, 16, 8, 0].map (fun k => a.extractLsb' k 8) := by
  show [BitVec.ofNat 8 (a.toNat / 256 / 256 / 256 / 256 / 256), BitVec.ofNat 8 (a.toNat / 256 / 256 / 256 / 256),
    BitVec.ofNat 8 (a.toNat / 256 / 256 / 256), BitVec.ofNat 8 (a.toNat / 256 / 256), BitVec.ofNat 8 (a.toNat / 256),
    BitVec.ofNat 8 a.toNat] = _
  simp only [← ofNat_div_eq_extractLsb', Nat.div_div_eq_div_mul, List.map_cons, List.map_nil, Nat.pow_zero, Nat.div_one]
  rfl

/-- The check sequence, least significant byte first (R173). -/
theorem fcsBytes_eq (body : List Byte) : fcsBytes body = [0, 8, 16, 24].map (fun k => (crc32 body).extractLsb' k 8) := by
  rw [fcsBytes, ← List.reverse_reverse (leBytes 4 _)]
  exact congrArg List.reverse (beBytes_word32 (crc32 body))

theorem frameIs_ethernetFrame (dest src : MacAddr) (msg : List Byte) :
    FrameIs dest src msg (ethernetFrame dest src msg) := by
  have etherType : beBytes 2 Config.etherType.toNat = [0x88#8, 0xB5#8] := by decide
  refine ⟨_, rfl, ?_⟩
  rw [← fcsBytes_eq, ← beBytes_address, ← beBytes_address, ← etherType]
  rfl

/-- The check value that R173 gives. -/
theorem crc32_of_nine_digits : crc32 [0x31#8, 0x32#8, 0x33#8, 0x34#8, 0x35#8, 0x36#8, 0x37#8, 0x38#8, 0x39#8] =
    0xCBF43926#32 := by decide +kernel

/-! ### The common header (R195, 11.2) -/

theorem length_message (cls : Nat) (tag : Word16) (rest : List Byte) :
    (message cls tag rest).length = 6 + rest.length := by
  simp [message]; omega

theorem headerIs_message (cls : Nat) (tag : Word16) (rest : List Byte) :
    HeaderIs (BitVec.ofNat 8 cls) tag (message cls tag rest) := by
  refine ⟨rfl, rfl, ?_, leAt_word (k := 2) rfl⟩
  rw [length_message]
  exact leAt_written (k := 2) rfl

/-! ### The codes of 11.1 -/

theorem reason_of_code (r : RefusalReason) : [none, some .badForm, some .lotClosed, some .draining, some .sequence,
    some .badTarget, some .badProfile, some .tooLong, some .noEntry, some .noSpace,
    some RefusalReason.nestBusy][(BitVec.ofNat 8 r.code).toNat]? = some (some r) := by cases r <;> rfl

theorem status_of_code (x : Status) : [.ok, .badRequest, .unknownTable, .badRow, .inUse, .busy, .wrongLotState,
    Status.notHeld][(BitVec.ofNat 8 x.code).toNat]? = some x := by cases x <;> rfl

theorem capture_of_code (x : Capture) :
    [.none, .each, Capture.coalesce][(BitVec.ofNat 8 x.code).toNat]? = some x := by cases x <;> rfl

theorem verdict_of_code (x : Verdict) : [.off, .notJudged, .pass, .marginal, .low, .high, .missing,
    Verdict.codeBad][(BitVec.ofNat 8 x.code).toNat]? = some x := by cases x <;> rfl

theorem outcome_of_code (x : CopyOutcome) : [.pass, .marginal, .fail, .errored, .timeout, .absent, .halted, .voided,
    CopyOutcome.skipped][(BitVec.ofNat 8 x.code).toNat]? = some x := by cases x <;> rfl

/-! ### REFUSAL and RESPONSE (11.5) -/

theorem refusalIs_bytes (m : RefusalMsg) : RefusalIs m m.bytes := by
  have stream : byteAt m.bytes 6 = m.stream := by
    show BitVec.ofNat 8 m.stream.toNat = m.stream
    rw [BitVec.ofNat_toNat, BitVec.setWidth_eq]
  exact ⟨headerIs_message .., rfl, stream, reason_of_code m.reason, leAt_word (k := 2) rfl, rfl, rfl,
    leAt_word (k := 2) rfl, leAt_written (k := 2) rfl⟩

theorem responseIs_bytes (m : ResponseMsg) : ResponseIs m m.bytes := by
  have length : m.bytes.length = 14 + m.result.length := by
    rw [ResponseMsg.bytes, length_message]
    simp
    omega
  exact ⟨headerIs_message .., length, leAt_word (k := 4) rfl, rfl, status_of_code m.status, leAt_written (k := 2) rfl,
    rfl⟩

/-! ### REPORT (11.5) -/

theorem reportHeaderIs_bytes (h : ReportHeader) (hcounts : h.outcomeCounts.length = 9) : ReportHeaderIs h h.bytes := by
  obtain ⟨stream, stepNumber, lotId, clamped, aborted, capture, targets, counts, variants, segments, entries, blocks,
    cells, expected⟩ := h
  obtain ⟨c0, c1, c2, c3, c4, c5, c6, c7, c8, rfl⟩ :
      ∃ c0 c1 c2 c3 c4 c5 c6 c7 c8, counts = [c0, c1, c2, c3, c4, c5, c6, c7, c8] := by
    match counts, hcounts with
    | [c0, c1, c2, c3, c4, c5, c6, c7, c8], _ => exact ⟨c0, c1, c2, c3, c4, c5, c6, c7, c8, rfl⟩
  have flags : BitVec.ofNat 8 (bit clamped 0 + bit aborted 1) =
      (if clamped then 1#8 else 0#8) + (if aborted then 2#8 else 0#8) := by
    cases clamped <;> cases aborted <;> rfl
  simp only [ReportHeaderIs, ReportHeader.bytes, List.append_assoc]
  exact ⟨rfl, toNat_ofNat_stream stream, flags, leAt_word (k := 2) rfl, leAt_word (k := 4) rfl, capture_of_code capture,
    rfl, rfl, rfl, rfl, rfl, leAt_written (k := 2) rfl, leAt_written (k := 2) rfl, leAt_word (k := 2) rfl⟩

theorem measureIs_bytes (m : MeasureResult) : MeasureIs m m.bytes := by
  refine ⟨rfl, verdict_of_code m.verdict, ofNat_bit_zero m.sat, rfl, ?_⟩
  have field : leAt m.bytes 4 4 = (m.value % 4294967296).toNat % 256 ^ 4 := leAt_written (k := 4) rfl
  rw [field]
  omega

theorem nestRecordIs_bytes (r : NestRecord) (hmeasures : r.measures.length = 4) : NestRecordIs r r.bytes := by
  have sizes : ∀ m ∈ r.measures, m.bytes.length = 8 := fun m _ => rfl
  have length : r.bytes.length = 36 := by
    show (r.measures.flatMap MeasureResult.bytes).length + 4 = 36
    rw [length_flatMap_const _ _ 8 sizes, hmeasures]
  refine ⟨length, toNat_ofNat_nest r.nest, fun o ho => ?_, rfl, fun hv => ?_, fun i hv => ?_, fun k m hm => ?_⟩
  · have code : byteAt r.bytes 1 = BitVec.ofNat 8 o.code := by
      show BitVec.ofNat 8 (r.outcome.elim 0 CopyOutcome.code) = _
      rw [ho]; rfl
    rw [code]
    exact outcome_of_code o
  · show BitVec.ofNat 8 (r.variant.getD 0xFF) = _
    rw [hv]; rfl
  · show BitVec.ofNat 8 (r.variant.getD 0xFF) = _
    rw [hv]; rfl
  · have measures : r.bytes.drop 4 = r.measures.flatMap MeasureResult.bytes := rfl
    rw [← List.drop_drop, measures, piece_flatMap sizes hm]
    exact measureIs_bytes m

theorem variantRecordIs_bytes (v : VariantRecord) : VariantRecordIs v v.bytes := by
  have length : v.bytes.length = 10 + v.payload.length := Nat.add_comm v.payload.length 10
  exact ⟨length, rfl, ofNat_bit_zero v.truncated, leAt_word (k := 2) rfl, leAt_written (k := 2) rfl,
    leAt_word (k := 4) rfl, rfl⟩

theorem segmentIs_bytes (g : SegmentMsg) : SegmentIs g g.bytes := by
  have body : g.bytes.drop 12 = g.body.bytes := rfl
  refine ⟨headerIs_message .., toNat_ofNat_stream g.stream, ofNat_bit_zero g.last, leAt_word (k := 2) rfl, rfl, rfl,
    fun h rs hbody hcounts hmeasures => ?_, fun vs hbody => ?_⟩
  · refine ⟨h.bytes, rs.map NestRecord.bytes, ?_, reportHeaderIs_bytes h hcounts, ?_⟩
    · rw [body, hbody, ← List.flatMap_def]
      rfl
    · rw [List.forall₂_map_right_iff, List.forall₂_same]
      exact fun r hr => nestRecordIs_bytes r (hmeasures r hr)
  · refine ⟨vs.map VariantRecord.bytes, ?_, ?_⟩
    · rw [body, hbody, ← List.flatMap_def]
      rfl
    · rw [List.forall₂_map_right_iff, List.forall₂_same]
      exact fun v _ => variantRecordIs_bytes v

/-! ### NOTICE and CHATTER (11.5) -/

theorem noticeIs_bytes (m : NoticeMsg) : NoticeIs m m.bytes := by
  have sizes : ∀ a ∈ m.attention, a.bytes.length = 4 := fun a _ => rfl
  have length : m.bytes.length = 18 + 4 * m.attention.length := by
    show (m.attention.flatMap AttentionRecord.bytes).length + 18 = _
    rw [length_flatMap_const _ _ 4 sizes, Nat.add_comm]
  have causes : (byteAt m.bytes 8).toNat = m.causes.toNat := by
    show (BitVec.ofNat 8 m.causes.toNat).toNat = _
    rw [BitVec.toNat_ofNat]
    omega
  refine ⟨headerIs_message .., length, leAt_word (k := 2) rfl, causes, rfl, leAt_word (k := 4) rfl,
    leAt_word (k := 4) rfl, fun k a ha => ?_⟩
  have records : m.bytes.drop 18 = m.attention.flatMap AttentionRecord.bytes := rfl
  have piece : ((m.bytes.drop 18).drop (4 * k)).take 4 = a.bytes := by rw [records, piece_flatMap sizes ha]
  have at_record : ∀ j < 4, byteAt m.bytes (18 + j + 4 * k) = byteAt a.bytes j := fun j hj => by
    rw [← piece, byteAt_take hj, List.drop_drop, byteAt_drop]
    congr 1
    omega
  have code : leAt m.bytes (20 + 4 * k) 2 = leAt a.bytes 2 2 := by
    rw [leAt_two, leAt_two, at_record 2 (by decide), ← at_record 3 (by decide)]
    congr 4
    omega
  refine ⟨?_, (at_record 1 (by decide)).trans (ofNat_bit_zero a.superseded), code.trans (leAt_word (k := 2) rfl)⟩
  rw [at_record 0 (by decide)]
  exact toNat_ofNat_nest a.nest

theorem chatterIs_bytes (m : ChatterMsg) : ChatterIs m m.bytes := by
  have length : m.bytes.length = 10 + m.payload.length := Nat.add_comm m.payload.length 10
  exact ⟨headerIs_message .., length, toNat_ofNat_nest m.nest, rfl, leAt_written (k := 2) rfl, rfl⟩

end Sys2Proof.Machine

end

section
/-! The transmitter and the level of the uplink (R176, R180, R187, R189): statements O8 and O9. -/

namespace Sys2Proof.Machine

variable {s t : State}

/-! ### A frame begun (R180) -/

theorem nextFrame_response {u : Uplink} {f : ResponseFrame} {rest : List ResponseFrame} (h : u.response = f :: rest) :
    nextFrame u = some { cls := .response, frame := ethernetFrame f.dest u.mac f.bytes } := by
  rw [nextFrame, h]

theorem nextFrame_notice {u : Uplink} {m : NoticeMsg} {rest : List NoticeMsg} (hr : u.response = [])
    (h : u.notice = m :: rest) :
    nextFrame u = some { cls := .notice, frame := ethernetFrame u.reportAddr u.mac m.bytes } := by
  rw [nextFrame, hr, h]

theorem nextFrame_report {u : Uplink} {g : SegmentMsg} {rest : List SegmentMsg} (hr : u.response = [])
    (hn : u.notice = []) (h : u.report = g :: rest) :
    nextFrame u = some { cls := .report, frame := ethernetFrame u.reportAddr u.mac g.bytes } := by
  rw [nextFrame, hr, hn, h]

theorem nextFrame_chatter {u : Uplink} {m : ChatterMsg} {rest : List ChatterMsg} (hr : u.response = [])
    (hn : u.notice = []) (hg : u.report = []) (h : u.chatter = m :: rest) :
    nextFrame u = some { cls := .chatter, frame := ethernetFrame u.reportAddr u.mac m.bytes } := by
  rw [nextFrame, hr, hn, hg, h]

theorem nextFrame_none {u : Uplink} (hr : u.response = []) (hn : u.notice = []) (hg : u.report = [])
    (h : u.chatter = []) : nextFrame u = none := by
  rw [nextFrame, hr, hn, hg, h]

/-- Settles O8: the bytes of each message and of the frame around it, and the class whose head is taken. -/
theorem transmitterTakesHighestClass : Obligations.TransmitterTakesHighestClass := by
  refine ⟨frameIs_ethernetFrame, crc32_of_nine_digits, fun d m => ⟨rfl, refusalIs_bytes m⟩,
    fun m => ⟨rfl, responseIs_bytes m⟩, segmentIs_bytes, noticeIs_bytes, chatterIs_bytes, fun s closed => ?_,
    fun s running up idle => ⟨nextFrame s.uplink, ?_, fun _ _ => nextFrame_response, fun _ _ => nextFrame_notice,
      fun _ _ => nextFrame_report, fun _ _ => nextFrame_chatter, nextFrame_none⟩⟩
  · refine takesPlace_false ?_ s _
    rcases closed with down | busy
    · rw [down, Bool.and_false, Bool.false_and]
    · rw [Option.isNone_eq_false_iff.mpr (Option.ne_none_iff_isSome.mp busy), Bool.and_false]
  · exact takesPlace_true (by rw [running_of_phase running, up, idle]; rfl) s _

/-! ### A frame sent or lost (R180, R187) -/

theorem dropSent_eq (c : TxClass) (u : Uplink) : dropSent c u = { u with
    tx := none,
    response := if c = .response then u.response.tail else u.response,
    notice := if c = .notice then u.notice.tail else u.notice,
    report := if c = .report then u.report.tail else u.report,
    chatter := if c = .chatter then u.chatter.tail else u.chatter } := by
  cases c <;> rfl

theorem requestCodeOf_restart_iff (b : Byte) : requestCodeOf b.toNat = some .restart ↔ b = 11#8 := by
  revert b; decide

theorem sendsRestart_iff (u : Uplink) : sendsRestart u = true ↔
    ∃ m rest, u.response = .response m :: rest ∧ m.status = .ok ∧ m.req.code = 11#8 := by
  unfold sendsRestart
  split
  · next m rest head => simp [head, requestCodeOf_restart_iff]
  · next head => simp [head]
  · next empty => simp [empty]

/-- The frame of class `c` at the head of the RESPONSE queue is the response that a restart waits for (R187). -/
def RestartAnswered (c : TxClass) (s : State) : Prop :=
  c = .response ∧ s.dispatcher.restart = .waiting ∧ ∃ m rest,
    s.uplink.response = .response m :: rest ∧ m.status = .ok ∧ m.req.code = 11#8

theorem restartAnswered_iff (c : TxClass) (s : State) : RestartAnswered c s ↔
    c = .response ∧ sendsRestart s.uplink = true ∧ s.dispatcher.restart = .waiting := by
  rw [RestartAnswered, sendsRestart_iff, and_comm (a := s.dispatcher.restart = .waiting)]

theorem restart_endSending_due {x : Sending} (h : RestartAnswered x.cls s) :
    (endSending x s).dispatcher.restart = .due := if_pos ((restartAnswered_iff x.cls s).mp h)

theorem restart_endSending_kept {x : Sending} (h : ¬RestartAnswered x.cls s) :
    (endSending x s).dispatcher.restart = s.dispatcher.restart := if_neg (mt (restartAnswered_iff x.cls s).mpr h)

theorem endSending_eq (x : Sending) (s : State) : endSending x s = { s with
    uplink := { s.uplink with
      tx := none,
      response := if x.cls = .response then s.uplink.response.tail else s.uplink.response,
      notice := if x.cls = .notice then s.uplink.notice.tail else s.uplink.notice,
      report := if x.cls = .report then s.uplink.report.tail else s.uplink.report,
      chatter := if x.cls = .chatter then s.uplink.chatter.tail else s.uplink.chatter },
    dispatcher := { s.dispatcher with restart := (endSending x s).dispatcher.restart } } := by
  rw [← dropSent_eq]
  rfl

theorem execUplinkFrameSent_of_tx {x : Sending} (running : s.phase = .running) (sending : s.uplink.tx = some x) :
    exec .uplinkFrameSent s = .next (endSending x s) := by
  show execUplinkFrameSent s = _
  rw [execUplinkFrameSent, sending]
  exact takesPlace_true (running_of_phase running) s _

theorem execUplinkLinkChange_running (running : s.phase = .running) (up : Bool) : exec (.uplinkLinkChange up) s = .next
    (if up then { s with phyUp := true, uplink := { s.uplink with linkUp := true } }
     else uplinkDown { s with phyUp := false }) := by
  refine congrArg Host.Outcome.next ((if_pos (running_of_phase running)).trans ?_)
  cases up <;> rfl

/-- Settles O9: the frame sent, the frame lost, and the level while the part does not run. -/
theorem sentOrLostFrameLeavesItsQueue : Obligations.SentOrLostFrameLeavesItsQueue := by
  refine ⟨fun s x running sending => ⟨endSending x s, execUplinkFrameSent_of_tx running sending, endSending_eq x s,
      restart_endSending_due, restart_endSending_kept⟩,
    fun s running => execUplinkLinkChange_running running true, fun s running idle => ?_,
    fun s t running busy sent => ?_, fun s up stopped => ?_⟩
  · rw [execUplinkLinkChange_running running, if_neg Bool.false_ne_true, uplinkDown]
    simp only [idle]
  · obtain ⟨x, sending⟩ := Option.ne_none_iff_exists'.mp busy
    obtain rfl : endSending x s = t := by
      rw [execUplinkFrameSent_of_tx running sending] at sent
      exact Host.Outcome.next.inj sent
    rw [execUplinkLinkChange_running running, if_neg Bool.false_ne_true, uplinkDown]
    simp only [sending]
    rfl
  · have not_running : ¬s.running = true := by simpa [State.running] using stopped
    exact congrArg Host.Outcome.next (if_neg not_running)

end Sys2Proof.Machine

end

section
/-! Which row takes which message, and the request that waits (R177, R181, R192, 11.1, 11.3): statement O10. -/

namespace Sys2Proof.Machine

variable {s : State} {f : RxFrame} {msg : List Byte}

/-! ### The codes of 11.1 -/

theorem requestCodeOf_eq_some_iff (b : Byte) (c : RequestCode) :
    requestCodeOf b.toNat = some c ↔ b.toNat = c.code := by
  revert b; cases c <;> decide

theorem requestCodeOf_eq_none {b : Byte} (h : b = 0#8 ∨ 11 < b.toNat) : requestCodeOf b.toNat = none := by
  revert b; decide

theorem tableOf_eq_some_iff (b : Byte) (t : Table) : tableOf b.toNat = some t ↔ b.toNat = t.code := by
  revert b; cases t <;> decide

theorem tableOf_known {b : Byte} (hpos : b ≠ 0#8) (hlast : b.toNat ≤ 6) : ∃ t, tableOf b.toNat = some t := by
  rw [← Option.isSome_iff_exists]
  revert b; decide

theorem nestActionOf_code (a : NestAction) : nestActionOf a.code = some a := by cases a <;> rfl

theorem nestActionOf_known {k : Nat} (h : k ≤ 4) : ∃ a, nestActionOf k = some a ∧ a.code = k := by
  match k, h with
  | 0, _ => exact ⟨.halt, rfl, rfl⟩
  | 1, _ => exact ⟨.cycle, rfl, rfl⟩
  | 2, _ => exact ⟨.exclude, rfl, rfl⟩
  | 3, _ => exact ⟨.include_, rfl, rfl⟩
  | 4, _ => exact ⟨.retrain, rfl, rfl⟩

/-! ### Classes (11.2) -/

theorem isRequestOf_iff (c : RequestCode) (msg : List Byte) : isRequestOf c msg = true ↔
    byteAt msg 1 = 2#8 ∧ 12 ≤ msg.length ∧ (byteAt msg 10).toNat = c.code := by
  simp only [isRequestOf, Bool.and_eq_true, decide_eq_true_eq, classOf_request_iff, requestCodeOf_eq_some_iff, and_assoc]
  exact Iff.rfl

theorem isUnknownRequest_of (hclass : byteAt msg 1 = 2#8)
    (h : msg.length < 12 ∨ byteAt msg 10 = 0#8 ∨ 11 < (byteAt msg 10).toNat) : isUnknownRequest msg = true := by
  simp only [isUnknownRequest, Bool.and_eq_true, decide_eq_true_eq, Bool.or_eq_true, classOf_request_iff]
  exact ⟨hclass, h.imp_right requestCodeOf_eq_none⟩

theorem isUnknownRequest_of_known {c : RequestCode} (h : isRequestOf c msg = true) : isUnknownRequest msg = false := by
  obtain ⟨-, long, code⟩ := (isRequestOf_iff c msg).mp h
  have known : requestCodeOf (requestCode msg).toNat = some c := (requestCodeOf_eq_some_iff _ c).mpr code
  have enough : ¬msg.length < requestFixed := Nat.not_lt.mpr long
  simp [isUnknownRequest, known, enough]

/-! ### The messages of each row -/

/-- The messages that the row of a request takes, the STEP and the row that holds a request waiting apart. -/
def takenBy (c : Instr) : List Byte → Bool :=
  match c with
  | .requestUnknownCode => isUnknownRequest
  | .describe => isRequestOf .describe
  | .putRowsGroup => isPutRows .group
  | .putRowsProfile => isPutRows .profile
  | .putRowsCodeSet => isPutRows .codeSet
  | .putRowsNestConfig => isPutRows .nestConfig
  | .putRowsAllowList => isPutRows .allowList
  | .putRowsSettings => isPutRows .settings
  | .getRows => isRequestOf .getRows
  | .getCounters => isGetCounters false
  | .getCountersClear => isGetCounters true
  | .getState => isRequestOf .getState
  | .openLot => isRequestOf .openLot
  | .closeLot => isRequestOf .closeLot
  | .abortStream => isRequestOf .abortStream
  | .nestActionHalt => isNestAction .halt
  | .nestActionCycle => isNestAction .cycle
  | .nestActionExclude => isNestAction .exclude
  | .nestActionInclude => isNestAction .include_
  | .nestActionRetrain => isNestAction .retrain
  | .releaseAttention => isRequestOf .releaseAttention
  | .restart => isRequestOf .restart
  | _ => fun _ => false

/-- The row of a request runs its action on the messages that it takes. -/
theorem exec_requestRow {c : Instr} (hrow : c ∈ messageRows) (hstep : c ≠ .step) (hwait : c ≠ .requestWaiting)
    (s : State) : ∃ act, exec c s = runRequest (takenBy c) act s := by
  simp only [messageRows, List.mem_cons, List.not_mem_nil, or_false] at hrow
  rcases hrow with rfl | rfl | hrow
  · exact absurd rfl hstep
  · exact absurd rfl hwait
  · rcases hrow with rfl | rfl | rfl | rfl | rfl | rfl | rfl | rfl | rfl | rfl | rfl | rfl | rfl | rfl | rfl | rfl |
      rfl | rfl | rfl | rfl | rfl | rfl
    all_goals
      simp only [exec, execRequestUnknownCode, execDescribe, execPutRowsGroup, execPutRowsProfile, execPutRowsCodeSet,
        execPutRowsNestConfig, execPutRowsAllowList, execPutRowsSettings, execGetRows, execGetCounters,
        execGetCountersClear, execGetState, execOpenLot, execCloseLot, execAbortStream, execNestActionHalt,
        execNestActionCycle, execNestActionExclude, execNestActionInclude, execNestActionRetrain,
        execReleaseAttention, execRestart, putRows, nestAction]
      exact ⟨_, rfl⟩

/-- The rows of the requests, each with the code of the requests that it takes. -/
def requestRows : List (RequestCode × Instr) :=
  [(.describe, .describe), (.putRows, .putRowsGroup), (.putRows, .putRowsProfile), (.putRows, .putRowsCodeSet),
   (.putRows, .putRowsNestConfig), (.putRows, .putRowsAllowList), (.putRows, .putRowsSettings), (.getRows, .getRows),
   (.getCounters, .getCounters), (.getCounters, .getCountersClear), (.getState, .getState), (.openLot, .openLot),
   (.closeLot, .closeLot), (.abortStream, .abortStream), (.nestAction, .nestActionHalt),
   (.nestAction, .nestActionCycle), (.nestAction, .nestActionExclude), (.nestAction, .nestActionInclude),
   (.nestAction, .nestActionRetrain), (.releaseAttention, .releaseAttention), (.restart, .restart)]

/-- The row of a request takes requests of its own code alone. -/
theorem isRequestOf_of_takenBy {x : RequestCode × Instr} (hx : x ∈ requestRows) (h : takenBy x.2 msg = true) :
    isRequestOf x.1 msg = true := by
  simp only [requestRows, List.mem_cons, List.not_mem_nil, or_false] at hx
  rcases hx with rfl | rfl | rfl | rfl | rfl | rfl | rfl | rfl | rfl | rfl | rfl | rfl | rfl | rfl | rfl | rfl | rfl |
    rfl | rfl | rfl | rfl
  all_goals
    simp only [takenBy, isPutRows, isGetCounters, isNestAction, Bool.and_eq_true] at h
    simp only [h]

theorem class_of_takenBy {c : Instr} (h : takenBy c msg = true) : byteAt msg 1 = 2#8 := by
  have request : classOf msg = classRequest := by
    cases c <;> simp only [takenBy, isPutRows, isGetCounters, isNestAction, isRequestOf, isUnknownRequest,
      Bool.and_eq_true, decide_eq_true_eq, Bool.false_eq_true] at h <;> simp only [h]
  exact (classOf_request_iff msg).mp request

/-! ### A row that leaves the message as it stands (R177; log entries 1, 4) -/

theorem runRequest_of_not_taken (h : AtDispatcher s f) {p : List Byte → Bool} (hp : p f.msg = false)
    (act : Req → List Byte → State → State) : runRequest p act s = .next s := by
  have none_taken : headRequest p s = none := by
    rw [headRequest, h.headMessage, Option.filter_some_neg (by simp [hp]), ite_self]
  rw [runRequest, none_taken]

theorem runRequest_of_full (h : 8 ≤ s.uplink.response.length) (p : List Byte → Bool)
    (act : Req → List Byte → State → State) : runRequest p act s = .next s := by
  have full : responseRoom s = false := decide_eq_false (Nat.not_lt.mpr h)
  have none_taken : headRequest p s = none := by rw [headRequest, if_neg (by simp [full])]
  rw [runRequest, none_taken]

theorem exec_step_of_other_class (h : AtDispatcher s f) (hclass : byteAt f.msg 1 ≠ 1#8) : exec .step s = .next s := by
  have none_taken : headStep s = none := by
    rw [headStep, h.headMessage, Option.filter_some_neg (by simpa [classOf_step_iff] using hclass)]
  show execStep s = _
  rw [execStep, none_taken]

theorem mustWait_of_head (h : AtDispatcher s f) :
    mustWait s = true ↔ 8 ≤ s.uplink.response.length ∧ byteAt f.msg 1 = 2#8 := by
  have full : responseRoom s = false ↔ 8 ≤ s.uplink.response.length := decide_eq_false_iff_not.trans Nat.not_lt
  simp only [mustWait, h.headMessage, Option.any_some, Bool.and_eq_true, Bool.not_eq_true', full, decide_eq_true_eq,
    classOf_request_iff]

theorem exec_requestWaiting_of_not (h : AtDispatcher s f)
    (hnot : ¬(8 ≤ s.uplink.response.length ∧ byteAt f.msg 1 = 2#8)) : exec .requestWaiting s = .next s :=
  takesPlace_false (Bool.eq_false_iff.mpr fun wait => hnot ((mustWait_of_head h).mp wait)) s _

/-- With the RESPONSE queue full no row but that of waiting takes a request (R177). -/
theorem exec_messageRow_of_full (h : AtDispatcher s f) (hclass : byteAt f.msg 1 = 2#8)
    (full : 8 ≤ s.uplink.response.length) {c : Instr} (hrow : c ∈ messageRows) (hwait : c ≠ .requestWaiting) :
    exec c s = .next s := by
  by_cases hstep : c = .step
  · subst hstep
    exact exec_step_of_other_class h (by rw [hclass]; decide)
  · obtain ⟨act, run⟩ := exec_requestRow hrow hstep hwait s
    rw [run, runRequest_of_full full]

/-- No row but that of STEP takes a message that is no REQUEST. -/
theorem exec_messageRow_of_other_class (h : AtDispatcher s f) (hclass : byteAt f.msg 1 ≠ 2#8) {c : Instr}
    (hrow : c ∈ messageRows) (hstep : c ≠ .step) : exec c s = .next s := by
  by_cases hwait : c = .requestWaiting
  · subst hwait
    exact exec_requestWaiting_of_not h fun ⟨_, request⟩ => hclass request
  · obtain ⟨act, run⟩ := exec_requestRow hrow hstep hwait s
    rw [run, runRequest_of_not_taken h (Bool.eq_false_iff.mpr fun taken => hclass (class_of_takenBy taken))]

theorem exec_requestRow_of_other_code (h : AtDispatcher s f) {x : RequestCode × Instr} (hx : x ∈ requestRows)
    (hcode : isRequestOf x.1 f.msg = false) : exec x.2 s = .next s := by
  have row : ∀ y ∈ requestRows, y.2 ∈ messageRows ∧ y.2 ≠ .step ∧ y.2 ≠ .requestWaiting := by decide
  obtain ⟨hrow, hstep, hwait⟩ := row x hx
  obtain ⟨act, run⟩ := exec_requestRow hrow hstep hwait s
  rw [run, runRequest_of_not_taken h (Bool.eq_false_iff.mpr fun taken => ?_)]
  rw [isRequestOf_of_takenBy hx taken] at hcode
  cases hcode

theorem putRows_of_other_table {table : Byte} {rest : List Byte} (h : Asked s f .putRows (table :: rest))
    (hpos : table ≠ 0#8) (hlast : table.toNat ≤ 6) {t : Table} (hother : table.toNat ≠ t.code) :
    putRows t s = .next s := by
  obtain ⟨at_head, -, -, args⟩ := h
  obtain ⟨u, known⟩ := tableOf_known hpos hlast
  have arg : tableArg (argsOf f.msg) = some (some u) := by rw [args]; exact congrArg some known
  have other : u ≠ t := fun same => hother ((tableOf_eq_some_iff table t).mp (same ▸ known))
  exact runRequest_of_not_taken at_head (by simp [isPutRows, arg, other]) _

theorem nestAction_of_other_action {nest action : Byte} (h : Asked s f .nestAction [nest, action])
    (hnest : nest.toNat ≤ 31) (haction : action.toNat ≤ 4) {a : NestAction} (hother : action.toNat ≠ a.code)
    (act : Req → Nest → State → State) : nestAction a act s = .next s := by
  obtain ⟨at_head, -, -, args⟩ := h
  obtain ⟨b, known, code⟩ := nestActionOf_known haction
  have inside : nest.toNat < 32 := Nat.lt_succ_of_le hnest
  have arg : nestActionArgs (argsOf f.msg) = some (⟨nest.toNat, inside⟩, b) := by
    rw [args]
    simp only [nestActionArgs, known, dif_pos inside]
  have other : b ≠ a := fun same => hother (same ▸ code.symm)
  exact runRequest_of_not_taken at_head (by simp [isNestAction, arg, other]) _

theorem isGetCounters_of_other {clear other : Bool} (hargs : clearOption (argsOf msg) = some other)
    (hne : other ≠ clear) : isGetCounters clear msg = false := by
  simp [isGetCounters, hargs, hne]

/-- Settles O10: who takes a message is read off its class, its code and its arguments. -/
theorem requestWaitsAndUnknownIsBad : Obligations.RequestWaitsAndUnknownIsBad := by
  refine ⟨rfl, isRequestOf_iff, fun s f h hclass => ⟨fun full => ⟨?_, fun c hrow hwait => ?_⟩,
      fun room => ⟨?_, fun unknown => ?_⟩⟩,
    fun s f h => ⟨exec_step_of_other_class h, fun hclass c hrow hstep => ?_, fun ⟨c, known⟩ => ?_,
      fun x hx hcode => ?_⟩,
    fun s f table rest h => ?_, fun s f nest action h => ?_, fun s f => ⟨fun h => ?_, fun h => ?_⟩⟩
  · exact takesPlace_true ((mustWait_of_head h).mpr ⟨full, hclass⟩) s _
  · exact exec_messageRow_of_full h hclass full hrow hwait
  · exact exec_requestWaiting_of_not h fun ⟨full, _⟩ => absurd room (Nat.not_lt.mpr full)
  · show execRequestUnknownCode s = _
    rw [execRequestUnknownCode, runRequest_eq h room (isUnknownRequest_of hclass unknown), respond_passMessage]
  · exact exec_messageRow_of_other_class h hclass hrow hstep
  · show execRequestUnknownCode s = _
    rw [execRequestUnknownCode, runRequest_of_not_taken h (isUnknownRequest_of_known known)]
  · exact exec_requestRow_of_other_code h hx hcode
  · have other := fun (t : Table) hpos hlast (hne : table.toNat ≠ t.code) => putRows_of_other_table h hpos hlast hne
    simp only [List.forall_mem_cons, List.not_mem_nil, IsEmpty.forall_iff, implies_true, and_true]
    exact ⟨other .group, other .profile, other .codeSet, other .nestConfig, other .allowList, other .settings⟩
  · have other := fun (a : NestAction) act hnest haction (hne : action.toNat ≠ a.code) =>
      nestAction_of_other_action h hnest haction hne act
    simp only [List.forall_mem_cons, List.not_mem_nil, IsEmpty.forall_iff, implies_true, and_true]
    exact ⟨other .halt actHalt, other .cycle actCycle, other .exclude actExclude, other .include_ actInclude,
      other .retrain actRetrain⟩
  · obtain ⟨at_head, -, -, args⟩ := h
    have other : isGetCounters false f.msg = false := isGetCounters_of_other (by rw [args]; rfl) Bool.noConfusion
    show execGetCounters s = _
    rw [execGetCounters, runRequest_of_not_taken at_head other]
  · obtain ⟨at_head, -, -, args⟩ := h
    have other : isGetCounters true f.msg = false := isGetCounters_of_other (by rw [args]; rfl) Bool.noConfusion
    show execGetCountersClear s = _
    rw [execGetCountersClear, runRequest_of_not_taken at_head other]

end Sys2Proof.Machine

end

section
/-! A RESTART answered stops the Dispatcher until the restart (R187): statement O34. -/

namespace Sys2Proof.Machine

variable {s t : State}

/-! ### What leaves a restart to come as it stands -/

theorem restart_of_traffic (h : traffic t = traffic s) : t.dispatcher.restart = s.dispatcher.restart := by
  obtain ⟨-, dispatcher, -⟩ := traffic_eq_iff.mp h
  rw [dispatcher]

theorem restart_abortProgress (n : Nest) (r : Req) (st : StreamId) (marked halted voided : Nat) (left : NestSet)
    (s : State) : (abortProgress n r st marked halted voided left s).dispatcher.restart = s.dispatcher.restart := by
  unfold abortProgress
  dsimp only
  split <;> rfl

theorem restart_retrainProgress (n : Nest) (s : State) :
    (retrainProgress n s).dispatcher.restart = s.dispatcher.restart := by
  unfold retrainProgress
  split
  · split
    · split <;> rfl
    · rfl
  all_goals rfl

theorem restart_takeFrame (frame : List Byte) (s : State) :
    (takeFrame frame s).dispatcher.restart = s.dispatcher.restart := by
  unfold takeFrame
  split
  · rfl
  · rfl
  · split <;> rfl

theorem restart_takeChat (n : Nest) (payload : List Byte) (s : State) :
    (takeChat n payload s).dispatcher.restart = s.dispatcher.restart := by
  unfold takeChat
  split <;> rfl

theorem restart_endLoading (c : Configuration) (s : State) :
    (endLoading c s).dispatcher.restart = s.dispatcher.restart := by
  rw [endLoading_eq, restart_of_traffic (traffic_trainAll _), configured_frame]

theorem restart_placeSegment (r : Retirement) (s : State) :
    (placeSegment r s).dispatcher.restart = s.dispatcher.restart := by
  unfold placeSegment
  dsimp only
  split
  · rw [endRetirement_frame]
    rfl
  · rfl

/-- A frame sent or lost makes the restart due at most. -/
theorem restart_endSending (x : Sending) (s : State) : (endSending x s).dispatcher.restart = .due ∨
    (endSending x s).dispatcher.restart = s.dispatcher.restart :=
  (em (RestartAnswered x.cls s)).imp restart_endSending_due restart_endSending_kept

theorem restart_uplinkDown (s : State) : (uplinkDown s).dispatcher.restart = .due ∨
    (uplinkDown s).dispatcher.restart = s.dispatcher.restart := by
  unfold uplinkDown
  dsimp only
  split
  · next x _ => exact restart_endSending x s
  · exact .inr rfl

/-! ### Every command (R187) -/

/-- The answer is a next state in which a restart to come is still to come. -/
def RestartStands (s : State) (o : Host.Outcome State Fault Refusal) : Prop :=
  ∀ t, o = .next t → t.dispatcher.restart = .none → s.dispatcher.restart = .none

namespace RestartStands

theorem next (h : t.dispatcher.restart = s.dispatcher.restart) : RestartStands s (.next t) := by
  rintro _ ⟨rfl⟩ none
  exact h ▸ none

theorem next_or_due (h : t.dispatcher.restart = .due ∨ t.dispatcher.restart = s.dispatcher.restart) :
    RestartStands s (.next t) := by
  rintro _ ⟨rfl⟩ none
  rcases h with due | same
  · rw [due] at none
    cases none
  · exact same ▸ none

theorem takesPlace {b : Bool} (h : t.dispatcher.restart = s.dispatcher.restart) : RestartStands s (takesPlace b s t) :=
  next (by split <;> [exact h; rfl])

end RestartStands

/-- No command ends the wait for a restart but the resets, and the restart itself when it is due. -/
theorem exec_restartStands (c : Instr) (s : State) (hreset : ∀ strap, c ≠ .powerOn strap ∧ c ≠ .resetPin strap)
    (hassert : c ≠ .resetPinAssertion) (hrow : c ∉ messageRows)
    (hdue : ¬(c = .restartEvent ∧ s.phase = .running ∧ s.dispatcher.restart = .due)) :
    RestartStands s (exec c s) := by
  cases c with
  | powerOn strap => exact absurd rfl (hreset strap).1
  | resetPin strap => exact absurd rfl (hreset strap).2
  | resetPinAssertion => exact absurd rfl hassert
  | step | requestWaiting | requestUnknownCode | describe | putRowsGroup | putRowsProfile | putRowsCodeSet
  | putRowsNestConfig | putRowsAllowList | putRowsSettings | getRows | getCounters | getCountersClear | getState
  | openLot | closeLot | abortStream | nestActionHalt | nestActionCycle | nestActionExclude | nestActionInclude
  | nestActionRetrain | releaseAttention | restart => exact absurd (by simp [messageRows]) hrow
  | restartEvent =>
    have stays : exec .restartEvent s = .next s := takesPlace_false (Bool.eq_false_iff.mpr fun due => hdue (by
      simp only [State.running, Bool.and_eq_true, decide_eq_true_eq] at due
      exact ⟨rfl, due⟩)) s _
    rw [stays]
    exact .next rfl
  | loadingEnd flash => exact .takesPlace (restart_endLoading ..)
  | frameReceived frame => exact .takesPlace (restart_takeFrame ..)
  | uplinkTransmitStart => exact .takesPlace rfl
  | uplinkFrameSent =>
    show RestartStands s (execUplinkFrameSent s)
    unfold execUplinkFrameSent
    split
    · next x _ => exact .next_or_due (by split <;> [exact restart_endSending x s; exact .inr rfl])
    · exact .next rfl
  | uplinkLinkChange up =>
    refine .next_or_due ?_
    split
    · split
      · exact .inr rfl
      · exact restart_uplinkDown _
    · exact .inr rfl
  | laneSignalPresent n => exact .next (by split <;> simp)
  | laneSignalLost n => exact .next (by split <;> simp)
  | greetRepeat n => exact .takesPlace rfl
  | frameLeavesLane n => exact .takesPlace (by split <;> rfl)
  | badFrame n bytes => exact .takesPlace (by simp)
  | welcome n id b =>
    refine .takesPlace ?_
    split
    · exact restart_of_traffic (traffic_takeWelcome ..)
    · simp
  | presence n b =>
    refine .takesPlace ?_
    split
    · split <;> simp
    · simp
  | answer n tag status payload =>
    refine .takesPlace ?_
    split
    · simp
    · split
      · exact restart_of_traffic (traffic_classifyAnswer ..)
      · rfl
  | stopped n tag => exact .takesPlace (by split <;> simp)
  | note n code => exact .takesPlace (restart_of_traffic (traffic_takeNote ..))
  | chat n payload =>
    refine .takesPlace ?_
    split
    · simp
    · split
      · exact restart_takeChat ..
      · rfl
  | startHead n =>
    show RestartStands s (execStartHead n s)
    unfold execStartHead
    split <;> exact .next rfl
  | deadlineExpiry n =>
    show RestartStands s (execDeadlineExpiry n s)
    unfold execDeadlineExpiry
    split
    · exact .next (restart_of_traffic (traffic_expireDeadline ..))
    · exact .next rfl
  | gapExpiry n =>
    show RestartStands s (execGapExpiry n s)
    unfold execGapExpiry
    split <;> exact .next rfl
  | graceExpiry n => exact .takesPlace rfl
  | stopFailure n => exact .takesPlace (by rw [takeStopFailure_dispatcher]; rfl)
  | absence n => exact .takesPlace (by rw [restart_retrainProgress, loseIfClear_dispatcher]; rfl)
  | stall n => exact .takesPlace (by rw [giveVoid_dispatcher, loseIfClear_dispatcher]; rfl)
  | voidInstruction n =>
    show RestartStands s (execVoidInstruction n s)
    unfold execVoidInstruction
    split
    · exact .takesPlace (by simp)
    · exact .next rfl
  | outcomeDelivered n =>
    show RestartStands s (execOutcomeDelivered n s)
    unfold execOutcomeDelivered
    split
    · exact .takesPlace rfl
    · exact .next rfl
  | streamHaltAndVoid n =>
    show RestartStands s (execStreamHaltAndVoid n s)
    unfold execStreamHaltAndVoid
    split
    · exact .takesPlace (by rw [restart_abortProgress, haltAndVoid_dispatcher])
    all_goals exact .next rfl
  | retirementStart =>
    show RestartStands s (execRetirementStart s)
    unfold execRetirementStart
    split <;> exact .next rfl
  | segmentPlaced =>
    show RestartStands s (execSegmentPlaced s)
    unfold execSegmentPlaced
    split
    · exact .takesPlace (restart_placeSegment ..)
    · exact .next rfl
  | noticeBuild => exact .takesPlace rfl
  | throttleExpiry => exact .takesPlace rfl
  | timeSinceStartTick => exact .takesPlace rfl

/-! ### The request and the message rows behind it (R187) -/

theorem entriesInUse_eq (s : State) :
    entriesInUse s = (List.finRange 64).countP (fun e => (s.entry e).state ≠ .free) := by
  rw [entriesInUse, toList_eq_map, List.countP_map]
  rfl

theorem not_atDispatcher_of_restart (h : s.dispatcher.restart ≠ .none) (g : RxFrame) : ¬AtDispatcher s g :=
  fun ⟨_, _, restart, _⟩ => h restart

theorem exec_messageRow_of_restart (h : s.dispatcher.restart ≠ .none) {c : Instr} (hc : c ∈ messageRows) :
    exec c s = .next s :=
  exec_messageRow_of_none (headMessage_eq_none (not_atDispatcher_of_restart h)) hc

/-- Settles O34: the request answered, and no command but the resets and the restart due ends the wait. -/
theorem restartStopsDispatch : Obligations.RestartStopsDispatch := by
  refine ⟨fun s f h => ?_, fun s t c waits run ended => ?_,
    fun s waits => ⟨not_atDispatcher_of_restart waits, fun c => exec_messageRow_of_restart waits⟩⟩
  · have run : exec .restart s = _ := runRequest_asked h _
    refine ⟨_, run, ?_, not_atDispatcher_of_restart nofun⟩
    rw [← entriesInUse_eq]
    rfl
  · by_contra others
    simp only [not_or, not_exists] at others
    obtain ⟨resets, assertion, due⟩ := others
    by_cases hrow : c ∈ messageRows
    · rw [exec_messageRow_of_restart waits hrow] at run
      cases run
      exact waits ended
    · exact waits (exec_restartStands c s resets assertion hrow due t run ended)

end Sys2Proof.Machine

end

section
/-! Parts of an answer and their fields, and the answer of DESCRIBE (R181, R190, 11.5): statement O15. -/

namespace Sys2Proof.Machine

variable {s : State} {r p : List Byte} {c x w : Nat}

/-! ### A part of a message, and its fields -/

/-- The `w` bytes of `p` stand in `r` from offset `o` on. -/
structure PartAt (r : List Byte) (o w : Nat) (p : List Byte) : Prop where
  length : p.length = w
  piece : (r.drop o).take w = p

namespace PartAt

theorem head (h : p.length = w) (rest : List Byte) : PartAt (p ++ rest) 0 w p := ⟨h, List.take_left' h⟩

theorem behind {a : List Byte} {k o : Nat} (h : PartAt r o w p) (ha : a.length = k) : PartAt (a ++ r) (k + o) w p :=
  ⟨h.length, by rw [← List.drop_drop, List.drop_left' ha, h.piece]⟩

theorem flatMap {α : Type} {l : List α} {f : α → List Byte} (hw : ∀ a ∈ l, (f a).length = w) {i : Nat} {a : α}
    (hi : l[i]? = some a) : PartAt (l.flatMap f) (w * i) w (f a) :=
  ⟨hw a (List.mem_of_getElem? hi), piece_flatMap hw hi⟩

theorem left {o : Nat} (h : PartAt r o w p) (hpos : 0 < w) (rest : List Byte) : PartAt (r ++ rest) o w p := by
  obtain ⟨length, piece⟩ := h
  have inside : w ≤ (r.drop o).length := by
    have := congrArg List.length piece
    rw [List.length_take, length] at this
    omega
  refine ⟨length, ?_⟩
  rw [List.length_drop] at inside
  rw [List.drop_append_of_le_length (by omega), List.take_append_of_le_length (by rw [List.length_drop]; omega), piece]

/-- Byte `j` of a part, whose offset is `c` and as many bytes as the parts of its kind before it. -/
theorem byteAt (h : PartAt r (c + x) w p) (j : Nat) (hj : j < w) : byteAt r (c + j + x) = byteAt p j := by
  rw [← h.piece, byteAt_take hj, byteAt_drop, Nat.add_right_comm]

theorem leAt (h : PartAt r (c + x) w p) (j k : Nat) (hjk : j + k ≤ w) : leAt r (c + j + x) k = leAt p j k := by
  unfold Machine.leAt
  refine congrArg leNat (List.map_congr_left fun i hi => ?_)
  rw [← h.byteAt (j + i) (by have := List.mem_range.mp hi; omega)]
  congr 1
  omega

end PartAt

/-- Numbers written `k` bytes each are read back in order. -/
theorem words_read {k : Nat} {l : List Nat} (h : ∀ v ∈ l, v < 256 ^ k) (front : List Byte) :
    (List.range l.length).map (fun i => leAt (front ++ l.flatMap (leBytes k)) (front.length + k * i) k) = l := by
  refine List.ext_getElem (by simp) fun i _ hi => ?_
  have word : PartAt (l.flatMap (leBytes k)) (k * i) k (leBytes k l[i]) :=
    .flatMap (fun v _ => length_leBytes k v) (List.getElem?_eq_getElem hi)
  rw [List.getElem_map, List.getElem_range]
  refine ((word.behind (a := front) rfl).leAt 0 k (Nat.zero_add k).le).trans ?_
  rw [leAt_leBytes, Nat.mod_eq_of_lt (h _ (List.getElem_mem hi))]

/-! ### DESCRIBE (R181, 11.5) -/

theorem describeResult_fields (s : State) (r : List Byte) (hr : r = describeResult s) : r.length = 74 ∧
    leAt r 0 2 = 0x0A71 ∧ leAt r 2 2 = 0x2032 ∧ byteAt r 4 = 1#8 ∧ byteAt r 5 = 32#8 ∧ byteAt r 6 = 4#8 ∧
    (byteAt r 7).toNat = s.mgmt.strap.toNat ∧ leAt r 8 6 = s.uplink.mac.toNat ∧
    byteAt r 14 = (if s.mgmt.fromFlash then 1#8 else 0#8) ∧ leAt r 16 4 = s.mgmt.time.toNat ∧
    byteAt r 20 = 26#8 ∧ (List.range 26).map (fun i => leAt r (22 + 2 * i) 2) = Config.capacities := by
  have strap : (BitVec.ofNat 8 s.mgmt.strap.toNat).toNat = s.mgmt.strap.toNat := by
    rw [BitVec.toNat_ofNat]
    omega
  have fits : ∀ v ∈ Config.capacities, v < 256 ^ 2 := by decide
  have capacities : (List.range 26).map (fun i => leAt r (22 + 2 * i) 2) = Config.capacities := by
    subst hr
    exact words_read fits _
  refine ⟨?_, ?_, ?_, ?_, ?_, ?_, ?_, ?_, ?_, ?_, ?_, capacities⟩
  all_goals subst hr; simp only [describeResult, List.append_assoc]
  · simp only [List.length_append, length_byte, length_leBytes, length_flatMap_const _ _ 2 fun v _ => length_leBytes 2 v]
    rfl
  · exact leAt_written (k := 2) (v := Config.vendorCode) rfl
  · exact leAt_written (k := 2) (v := Config.partCode) rfl
  · rfl
  · rfl
  · rfl
  · exact strap
  · exact leAt_word (k := 6) rfl
  · exact ofNat_bit_zero s.mgmt.fromFlash
  · exact leAt_word (k := 4) rfl
  · rfl

/-- Settles O15: the answer is `describeResult`, whose fields are those of 11.5. -/
theorem describeAnswers : Obligations.DescribeAnswers := by
  intro s f h
  have run : exec .describe s = _ := runRequest_asked h _
  exact ⟨describeResult s, run, describeResult_fields s _ rfl⟩

end Sys2Proof.Machine

end

section
/-! The answer of GET_STATE, part by part (R172, R182, R190, R195, 11.1, 11.6): statement O16. -/

namespace Sys2Proof.Machine

variable {s : State} {r : List Byte} {c x : Nat}

/-! ### Codes and flags in a byte (11.1) -/

theorem toNat_ofNat_presence (p : Presence) : (BitVec.ofNat 8 p.code).toNat = p.code := by cases p <;> rfl

theorem toNat_ofNat_service (x : Service) : (BitVec.ofNat 8 x.code).toNat = x.code := by cases x <;> rfl

theorem toNat_ofNat_copyState (x : CopyState) : (BitVec.ofNat 8 x.code).toNat = x.code := by cases x <;> rfl

theorem toNat_ofNat_entryState (x : EntryState) : (BitVec.ofNat 8 x.code).toNat = x.code := by cases x <;> rfl

theorem toNat_ofNat_slotState (x : SlotState) : (BitVec.ofNat 8 x.code).toNat = x.code := by cases x <;> rfl

theorem toNat_ofNat_causes (S : CauseSet) : (BitVec.ofNat 8 S.toNat).toNat = S.toNat := by
  rw [BitVec.toNat_ofNat]
  omega

theorem isRunning_iff (t : Timer) : t.isRunning = true ↔ ∃ d, t = .running d := by
  cases t <;> simp [Timer.isRunning]

theorem ofNat_bit_eq_one_iff (b : Bool) : BitVec.ofNat 8 (bit b 0) = 1#8 ↔ b = true := by cases b <;> decide

theorem ofNat_bit_eq_zero_iff (b : Bool) : BitVec.ofNat 8 (bit b 0) = 0#8 ↔ ¬b = true := by cases b <;> decide

theorem ofNat_two_flags (a b : Bool) :
    BitVec.ofNat 8 (bit a 0 + bit b 1) = (if a then 1#8 else 0#8) + (if b then 2#8 else 0#8) := by
  cases a <;> cases b <;> rfl

theorem getElem?_allNests (n : Nest) : allNests[n.val]? = some n := by
  simp [allNests]

/-! ### The lot and the streams (11.6) -/

theorem lotPart_fields (h : PartAt r (0 + 0) 40 (lotPart s)) :
    byteAt r 0 = (if s.lot.isOpen then 1#8 else 0#8) ∧ leAt r 1 3 = 0 ∧ leAt r 4 4 = s.lot.id.toNat ∧
    ∀ n : Nest, (byteAt r (8 + n.val)).toNat = (s.lotNest n).standing.code := by
  simp only [lotPart, List.append_assoc] at h
  refine ⟨(h.byteAt 0 (by decide)).trans (ofNat_bit_zero s.lot.isOpen), h.leAt 1 3 (by decide),
    (h.leAt 4 4 (by decide)).trans (leAt_word (k := 4) rfl), fun n => ?_⟩
  have nest : byteAt r (0 + (8 + n.val) + 0) = byteAt (byte (s.lotNest n).standing.code) 0 := by
    rw [h.byteAt (8 + n.val) (by have := n.isLt; omega)]
    have part : PartAt (nestBytes fun m => (s.lotNest m).standing.code) (1 * n.val) 1 (byte (s.lotNest n).standing.code) :=
      .flatMap (fun m _ => length_byte _) (getElem?_allNests n)
    have inside := ((part.behind (length_leBytes 4 s.lot.id.toNat)).behind (a := [0#8, 0#8, 0#8]) (k := 3) rfl).behind
      (length_byte (bit s.lot.isOpen 0))
    rw [show 1 + (3 + (4 + 1 * n.val)) = 8 + n.val by omega] at inside
    exact inside.byteAt 0 (by decide)
  rw [Nat.zero_add, Nat.add_zero] at nest
  exact (congrArg BitVec.toNat nest).trans (toNat_ofNat_standing _)

theorem streamPart_fields (st : StreamId) (h : PartAt r (c + x) 8 (streamPart s st)) :
    byteAt r (c + x) = (if (s.stream st).draining then 1#8 else 0#8) ∧
    leAt r (c + 2 + x) 2 = (s.stream st).expected.toNat ∧
    byteAt r (c + 4 + x) = BitVec.ofNat 8 (s.retireList st).length ∧ byteAt r (c + 5 + x) = 0#8 ∧
    (s.retireList st = [] → byteAt r (c + 1 + x) = 0xFF#8 ∧ leAt r (c + 6 + x) 2 = 0xFF) ∧
    ∀ e rest, s.retireList st = e :: rest →
      (byteAt r (c + 1 + x)).toNat = (s.entry e).state.code ∧ leAt r (c + 6 + x) 2 = (s.entry e).stepNumber.toNat := by
  simp only [streamPart, List.append_assoc] at h
  refine ⟨(h.byteAt 0 (by decide)).trans (ofNat_bit_zero _), (h.leAt 2 2 (by decide)).trans (leAt_word (k := 2) rfl),
    h.byteAt 4 (by decide), h.byteAt 5 (by decide), fun empty => ?_, fun e rest head => ?_⟩
  · rw [empty] at h
    exact ⟨h.byteAt 1 (by decide), (h.leAt 6 2 (by decide)).trans (leAt_word (k := 2) (x := Config.headStepNone) rfl)⟩
  · rw [head] at h
    exact ⟨(congrArg BitVec.toNat (h.byteAt 1 (by decide))).trans (toNat_ofNat_entryState (s.entry e).state),
      (h.leAt 6 2 (by decide)).trans (leAt_word (k := 2) rfl)⟩

/-! ### Retirement, stores, notices and the uplink (R172, 11.6) -/

theorem retirePart_fields (h : PartAt r (72 + 0) 8 (retirePart s)) :
    (s.retire.candidate = none → byteAt r 72 = 0xFF#8 ∧ leAt r 76 2 = 0) ∧
    (∀ e, s.retire.candidate = some e →
      (byteAt r 72).toNat = (s.entry e).stream.val ∧ leAt r 76 2 = (s.entry e).stepNumber.toNat) ∧
    byteAt r 73 = BitVec.ofNat 8 s.retire.rotation.val ∧
    byteAt r 74 = BitVec.ofNat 8 (32 - s.uplink.report.length) ∧ byteAt r 75 = 0#8 ∧ leAt r 78 2 = 0 := by
  simp only [retirePart, List.append_assoc] at h
  refine ⟨fun noCandidate => ?_, fun e candidate => ?_, h.byteAt 1 (by decide), h.byteAt 2 (by decide),
    h.byteAt 3 (by decide), h.leAt 6 2 (by decide)⟩
  · rw [noCandidate] at h
    exact ⟨h.byteAt 0 (by decide), (h.leAt 4 2 (by decide)).trans (leAt_written (k := 2) (v := 0) rfl)⟩
  · rw [candidate] at h
    exact ⟨(congrArg BitVec.toNat (h.byteAt 0 (by decide))).trans (toNat_ofNat_stream (s.entry e).stream),
      (h.leAt 4 2 (by decide)).trans (leAt_word (k := 2) rfl)⟩

theorem storesPart_fields (h : PartAt r (80 + 0) 8 (storesPart s)) :
    byteAt r 80 = BitVec.ofNat 8 (freeEntries s) ∧ byteAt r 81 = 0#8 ∧
    leAt r 82 2 = s.payload.free.length % 65536 ∧ leAt r 84 2 = s.coalesce.free.length % 65536 ∧ leAt r 86 2 = 0 := by
  simp only [storesPart, List.append_assoc] at h
  exact ⟨h.byteAt 0 (by decide), h.byteAt 1 (by decide), (h.leAt 2 2 (by decide)).trans (leAt_written (k := 2) rfl),
    (h.leAt 4 2 (by decide)).trans (leAt_written (k := 2) rfl), h.leAt 6 2 (by decide)⟩

theorem noticePart_fields (h : PartAt r (88 + 0) 16 (noticePart s)) :
    (byteAt r 88).toNat = s.notice.causes.toNat ∧ (byteAt r 89).toNat = s.mgmt.settings.mask.toNat ∧
    (byteAt r 90 = 1#8 ↔ ∃ d, s.notice.throttle = .running d) ∧
    (byteAt r 90 = 0#8 ↔ ∀ d, s.notice.throttle ≠ .running d) ∧ byteAt r 91 = 0#8 ∧
    leAt r 92 2 = s.notice.serial.toNat ∧ leAt r 94 2 = 0 ∧ leAt r 96 4 = s.notice.links.toNat ∧
    leAt r 100 4 = s.notice.standings.toNat := by
  simp only [noticePart, List.append_assoc] at h
  have throttle : byteAt r 90 = BitVec.ofNat 8 (bit s.notice.throttle.isRunning 0) := h.byteAt 2 (by decide)
  refine ⟨(congrArg BitVec.toNat (h.byteAt 0 (by decide))).trans (toNat_ofNat_causes s.notice.causes),
    (congrArg BitVec.toNat (h.byteAt 1 (by decide))).trans (toNat_ofNat_causes s.mgmt.settings.mask), ?_, ?_,
    h.byteAt 3 (by decide), (h.leAt 4 2 (by decide)).trans (leAt_word (k := 2) rfl), h.leAt 6 2 (by decide),
    (h.leAt 8 4 (by decide)).trans (leAt_word (k := 4) rfl), (h.leAt 12 4 (by decide)).trans (leAt_word (k := 4) rfl)⟩
  · rw [throttle, ofNat_bit_eq_one_iff, isRunning_iff]
  · rw [throttle, ofNat_bit_eq_zero_iff, isRunning_iff, not_exists]

theorem uplinkPart_fields (h : PartAt r (104 + 0) 12 (uplinkPart s)) :
    byteAt r 104 = (if s.uplink.linkUp then 2#8 else 0#8) ∧ byteAt r 105 = BitVec.ofNat 8 s.uplink.rx.length ∧
    byteAt r 106 = BitVec.ofNat 8 s.uplink.response.length ∧ byteAt r 107 = BitVec.ofNat 8 s.uplink.notice.length ∧
    byteAt r 108 = BitVec.ofNat 8 s.uplink.report.length ∧ byteAt r 109 = BitVec.ofNat 8 s.uplink.chatter.length ∧
    leAt r 110 6 = s.uplink.reportAddr.toNat := by
  simp only [uplinkPart, List.append_assoc] at h
  have level : byteAt r 104 = BitVec.ofNat 8 (if s.uplink.linkUp then LinkState.up.code else LinkState.down.code) :=
    h.byteAt 0 (by decide)
  refine ⟨level.trans ?_, h.byteAt 1 (by decide), h.byteAt 2 (by decide), h.byteAt 3 (by decide),
    h.byteAt 4 (by decide), h.byteAt 5 (by decide), (h.leAt 6 6 (by decide)).trans (leAt_word (k := 6) rfl)⟩
  cases s.uplink.linkUp <;> rfl

/-! ### A nest (R54, R66, R83, 11.6) -/

theorem nestPart_fields (n : Nest) (h : PartAt r (c + x) 24 (nestPart s n)) :
    (byteAt r (c + x)).toNat = (s.port n).link.code ∧ (byteAt r (c + 1 + x)).toNat = (s.port n).presence.code ∧
    (byteAt r (c + 2 + x)).toNat = (s.port n).service.code ∧
    byteAt r (c + 3 + x) = (if (s.port n).stopHold then 1#8 else 0#8) ∧
    leAt r (c + 4 + x) 4 = (s.port n).adapterId.toNat ∧ leAt r (c + 8 + x) 2 = (s.port n).runTag.toNat ∧
    (∀ tag, (s.port n).service = .waiting tag ∨ (s.port n).service = .halting tag →
      leAt r (c + 10 + x) 2 = tag.toNat) ∧
    ((s.port n).service = .idle ∨ (s.port n).service = .gap ∨ (s.port n).service = .stalled →
      leAt r (c + 10 + x) 2 = 0) ∧
    byteAt r (c + 12 + x) = BitVec.ofNat 8 (s.port n).queue.length ∧
    ((s.port n).queue = [] → byteAt r (c + 13 + x) = 0#8 ∧ byteAt r (c + 14 + x) = 0xFF#8 ∧
      leAt r (c + 16 + x) 2 = 0xFF) ∧
    (∀ y rest, (s.port n).queue = y :: rest → (byteAt r (c + 13 + x)).toNat = y.state.code ∧
      (byteAt r (c + 14 + x)).toNat = y.stream.val ∧ leAt r (c + 16 + x) 2 = y.stepNumber.toNat) ∧
    (byteAt r (c + 15 + x)).toNat = s.notice.slots[n.val].state.code ∧
    leAt r (c + 18 + x) 2 = s.notice.slots[n.val].code.toNat ∧
    byteAt r (c + 20 + x) = (if s.notice.slots[n.val].superseded then 1#8 else 0#8) +
      (if s.notice.slots[n.val].missed then 2#8 else 0#8) ∧
    leAt r (c + 21 + x) 3 = 0 := by
  simp only [nestPart, List.append_assoc] at h
  have tag : leAt r (c + 10 + x) 2 = (s.port n).service.tag.toNat :=
    (h.leAt 10 2 (by decide)).trans (leAt_word (k := 2) rfl)
  refine ⟨(congrArg BitVec.toNat (h.byteAt 0 (by decide))).trans (toNat_ofNat_link (s.port n).link),
    (congrArg BitVec.toNat (h.byteAt 1 (by decide))).trans (toNat_ofNat_presence (s.port n).presence),
    (congrArg BitVec.toNat (h.byteAt 2 (by decide))).trans (toNat_ofNat_service (s.port n).service),
    (h.byteAt 3 (by decide)).trans (ofNat_bit_zero (s.port n).stopHold),
    (h.leAt 4 4 (by decide)).trans (leAt_word (k := 4) rfl), (h.leAt 8 2 (by decide)).trans (leAt_word (k := 2) rfl),
    fun t service => ?_, fun service => ?_, h.byteAt 12 (by decide), fun empty => ?_, fun y rest head => ?_,
    (congrArg BitVec.toNat (h.byteAt 15 (by decide))).trans (toNat_ofNat_slotState s.notice.slots[n.val].state),
    (h.leAt 18 2 (by decide)).trans (leAt_word (k := 2) rfl), (h.byteAt 20 (by decide)).trans (ofNat_two_flags ..),
    h.leAt 21 3 (by decide)⟩
  · rw [tag]
    rcases service with waiting | halting
    · rw [waiting]; rfl
    · rw [halting]; rfl
  · rw [tag]
    rcases service with idle | gap | stalled
    · rw [idle]; rfl
    · rw [gap]; rfl
    · rw [stalled]; rfl
  · rw [empty] at h
    exact ⟨h.byteAt 13 (by decide), h.byteAt 14 (by decide),
      (h.leAt 16 2 (by decide)).trans (leAt_word (k := 2) (x := Config.headStepNone) rfl)⟩
  · rw [head] at h
    exact ⟨(congrArg BitVec.toNat (h.byteAt 13 (by decide))).trans (toNat_ofNat_copyState y.state),
      (congrArg BitVec.toNat (h.byteAt 14 (by decide))).trans (toNat_ofNat_stream y.stream),
      (h.leAt 16 2 (by decide)).trans (leAt_word (k := 2) rfl)⟩

/-! ### The whole answer (R182, 11.6) -/

theorem length_streamPart (st : StreamId) : (streamPart s st).length = 8 := rfl

theorem length_nestPart (n : Nest) : (nestPart s n).length = 24 := rfl

theorem length_lotPart : (lotPart s).length = 40 := by
  have standings : (nestBytes fun n => (s.lotNest n).standing.code).length = 1 * allNests.length :=
    length_flatMap_const _ _ 1 fun _ _ => length_byte _
  simp only [lotPart, List.length_append, length_byte, length_leBytes, standings]
  rfl

theorem length_streamParts : ((List.finRange 4).flatMap (streamPart s)).length = 32 :=
  length_flatMap_const _ _ 8 fun st _ => length_streamPart st

theorem length_nestParts : (allNests.flatMap (nestPart s)).length = 768 := by
  rw [length_flatMap_const _ _ 24 fun n _ => length_nestPart n]
  rfl

/-- Where each part of the answer of GET_STATE stands, and what stands there (11.6). -/
structure StateLayout (s : State) (r : List Byte) : Prop where
  length : r.length = 884
  lot : PartAt r (0 + 0) 40 (lotPart s)
  stream : ∀ st : StreamId, PartAt r (40 + 8 * st.val) 8 (streamPart s st)
  retire : PartAt r (72 + 0) 8 (retirePart s)
  stores : PartAt r (80 + 0) 8 (storesPart s)
  notice : PartAt r (88 + 0) 16 (noticePart s)
  uplink : PartAt r (104 + 0) 12 (uplinkPart s)
  nest : ∀ n : Nest, PartAt r (116 + 24 * n.val) 24 (nestPart s n)

theorem stateResult_layout (s : State) : StateLayout s (stateResult s) := by
  have stream (st : StreamId) : PartAt ((List.finRange 4).flatMap (streamPart s)) (8 * st.val) 8 (streamPart s st) :=
    .flatMap (fun x _ => length_streamPart x) (by simp)
  have nest (n : Nest) : PartAt (allNests.flatMap (nestPart s)) (24 * n.val) 24 (nestPart s n) :=
    .flatMap (fun x _ => length_nestPart x) (getElem?_allNests n)
  have front {o w : Nat} {p rest : List Byte} (h : PartAt rest o w p) :
      PartAt (lotPart s ++ ((List.finRange 4).flatMap (streamPart s) ++ rest)) (72 + o) w p := by
    have := (h.behind (length_streamParts (s := s))).behind (length_lotPart (s := s))
    rwa [← Nat.add_assoc] at this
  have retire : (retirePart s).length = 8 := rfl
  have stores : (storesPart s).length = 8 := rfl
  have notice : (noticePart s).length = 16 := rfl
  have uplink : (uplinkPart s).length = 12 := rfl
  unfold stateResult
  simp only [List.append_assoc]
  refine ⟨?_, .head length_lotPart _, fun st => ((stream st).left (by decide) _).behind length_lotPart,
    front (.head retire _), front ((PartAt.head stores _).behind retire),
    front (((PartAt.head notice _).behind stores).behind retire),
    front ((((PartAt.head uplink _).behind notice).behind stores).behind retire), fun n => ?_⟩
  · simp only [List.length_append, length_lotPart, length_streamParts, length_nestParts, retire, stores, notice, uplink]
  · have := front (((((nest n).behind uplink).behind notice).behind stores).behind retire)
    rwa [show 72 + (8 + (8 + (16 + (12 + 24 * n.val)))) = 116 + 24 * n.val by omega] at this

/-- Settles O16: the answer is `stateResult`, laid out as `StateLayout` says, read part by part. -/
theorem getStateAnswers : Obligations.GetStateAnswers := by
  refine ⟨rfl, rfl, rfl, fun _ => rfl, rfl, rfl, rfl, fun s f h => ?_⟩
  have run : exec .getState s = _ := runRequest_asked h _
  obtain ⟨length, lot, stream, retire, stores, notice, uplink, nest⟩ := stateResult_layout (passMessage f s)
  obtain ⟨isOpen, pad, id, standings⟩ := lotPart_fields lot
  obtain ⟨noCandidate, candidate, rotation, room, pad', pad''⟩ := retirePart_fields retire
  obtain ⟨entries, padE, blocks, replies, padR⟩ := storesPart_fields stores
  obtain ⟨causes, mask, on, off, padN, serial, padS, links, standing⟩ := noticePart_fields notice
  obtain ⟨level, rx, response, notices, report, chatter, addr⟩ := uplinkPart_fields uplink
  exact ⟨_, run, length, isOpen, pad, id, standings, fun st => streamPart_fields st (stream st), noCandidate, candidate,
    rotation, room, pad', pad'', entries, padE, blocks, replies, padR, causes, mask, on, off, padN, serial, padS,
    links, standing, level, rx, response, notices, report, chatter, addr, fun n => nestPart_fields n (nest n)⟩

end Sys2Proof.Machine

end

section
/-! The answer of GET_COUNTERS, and the counters it clears (R186, 11.7): statement O17. -/

namespace Sys2Proof.Machine

variable {s : State} {f : RxFrame} {r : List Byte}

/-- A counter as it is sent, 4 bytes (11.5). -/
def counterBytes (v : Word32) : List Byte := leBytes 4 v.toNat

theorem length_counterBytes (v : Word32) : (counterBytes v).length = 4 := length_leBytes 4 _

/-- Counters sent one after another are read back in order. -/
theorem counters_read {o w : Nat} {l : List Word32} (h : PartAt r o w (l.flatMap counterBytes)) :
    (List.range l.length).map (fun i => BitVec.ofNat 32 (leAt r (o + 4 * i) 4)) = l := by
  have width : w = 4 * l.length := h.length.symm.trans (length_flatMap_const _ _ 4 fun v _ => length_counterBytes v)
  refine List.ext_getElem (by simp) fun i _ hi => ?_
  have word : PartAt (l.flatMap counterBytes) (0 + 4 * i) 4 (counterBytes l[i]) := by
    rw [Nat.zero_add]
    exact .flatMap (fun v _ => length_counterBytes v) (List.getElem?_eq_getElem hi)
  have inside : leAt r (o + 4 * i) 4 = leAt (l.flatMap counterBytes) (4 * i) 4 :=
    PartAt.leAt (c := o) (x := 0) h (4 * i) 4 (by omega)
  have value : leAt (l.flatMap counterBytes) (4 * i) 4 = l[i].toNat := by
    have := (word.leAt 0 4 (by decide)).trans (leAt_word (k := 4) rfl)
    rwa [Nat.add_zero, Nat.zero_add] at this
  rw [List.getElem_map, List.getElem_range, inside, value, BitVec.ofNat_toNat, BitVec.setWidth_eq]

/-- The counters of every nest, 24 bytes each (11.7). -/
def nestCounterBytes (s : State) : List Byte := s.ports.toList.flatMap fun p => p.counters.list.flatMap counterBytes

theorem countersResult_eq (s : State) : countersResult s = leBytes 2 (allCounters s).length ++
    (leBytes 2 0 ++ (s.mgmt.counters.list.flatMap counterBytes ++ nestCounterBytes s)) := by
  rw [countersResult, List.append_assoc]
  have words : (allCounters s).flatMap counterBytes =
      s.mgmt.counters.list.flatMap counterBytes ++ nestCounterBytes s := by
    rw [allCounters, List.flatMap_append, List.flatMap_assoc, nestCounterBytes]
  rw [← words]
  rfl

theorem length_globals (g : Globals) : g.list.length = 20 := by simp [Globals.list]

theorem length_globalBytes (s : State) : (s.mgmt.counters.list.flatMap counterBytes).length = 80 := by
  rw [length_flatMap_const _ _ 4 fun v _ => length_counterBytes v, length_globals]

theorem length_nestCounterBytes (s : State) : (nestCounterBytes s).length = 768 := by
  rw [nestCounterBytes, length_flatMap_const _ _ 24 fun _ _ => rfl, Vector.length_toList]

theorem length_allCounters (s : State) : (allCounters s).length = 212 := by
  have nests : (s.ports.toList.flatMap fun p => p.counters.list).length = 6 * 32 := by
    simp [List.length_flatMap, NestCounters.list]
  rw [allCounters, List.length_append, length_globals, nests]

theorem countersResult_fields (s : State) (r : List Byte) (hr : r = countersResult s) : r.length = 852 ∧
    leAt r 0 2 = 212 ∧
    (List.range 20).map (fun i => BitVec.ofNat 32 (leAt r (4 + 4 * i) 4)) = s.mgmt.counters.list ∧
    ∀ n : Nest, (List.range 6).map (fun k => BitVec.ofNat 32 (leAt r (84 + 24 * n.val + 4 * k) 4)) =
      (s.port n).counters.list := by
  rw [countersResult_eq, length_allCounters] at hr
  have count : (leBytes 2 212).length = 2 := length_leBytes 2 _
  have pad : (leBytes 2 0).length = 2 := length_leBytes 2 _
  have globals : PartAt r 4 80 (s.mgmt.counters.list.flatMap counterBytes) :=
    hr ▸ ((PartAt.head (length_globalBytes s) _).behind pad).behind count
  have nest (n : Nest) : PartAt r (84 + 24 * n.val) 24 ((s.port n).counters.list.flatMap counterBytes) := by
    have part : PartAt (nestCounterBytes s) (24 * n.val) 24 ((s.port n).counters.list.flatMap counterBytes) :=
      .flatMap (f := fun p : NestPort => p.counters.list.flatMap counterBytes) (fun _ _ => rfl)
        (by simp [State.port])
    have := ((part.behind (length_globalBytes s)).behind pad).behind count
    rwa [← hr, show 2 + (2 + (80 + 24 * n.val)) = 84 + 24 * n.val by omega] at this
  refine ⟨?_, ?_, ?_, fun n => counters_read (nest n)⟩
  · rw [hr]
    simp only [List.length_append, length_globalBytes, length_nestCounterBytes, count, pad]
  · rw [hr]
    exact leAt_written (k := 2) (v := 212) rfl
  · have read := counters_read globals
    rwa [length_globals] at read

theorem port_clearCounters (s : State) (n : Nest) :
    (clearCounters s).port n = { s.port n with counters := NestCounters.zero } := by
  simp [clearCounters, State.port, mapTable]

/-- GET_COUNTERS with the clear option of its row is carried out with its arguments. -/
theorem runRequest_getCounters {args : List Byte} {clear : Bool} (h : Asked s f .getCounters args)
    (option : clearOption args = some clear) (act : Req → List Byte → State → State) :
    runRequest (isGetCounters clear) act s = .next (act (reqOf f) args (passMessage f s)) := by
  obtain ⟨dispatcher, room, code, rfl⟩ := h
  exact runRequest_eq dispatcher room (by simp [isGetCounters, code, option]) act

/-- Settles O17: both rows answer `countersResult`, and the clearing one goes to `clearCounters`. -/
theorem countersReadAndCleared : Obligations.CountersReadAndCleared := by
  intro s f
  obtain ⟨length, count, globals, nests⟩ := countersResult_fields s _ rfl
  have keep (h : Asked s f .getCounters [0#8]) : execGetCounters s = _ := runRequest_getCounters h rfl _
  have clear (h : Asked s f .getCounters [1#8]) : execGetCountersClear s = _ := runRequest_getCounters h rfl _
  exact ⟨countersResult s, clearCounters s, keep, clear, length, count, globals, nests, rfl,
    port_clearCounters s, allCounters_eq_zero rfl fun n => by rw [port_clearCounters]⟩

end Sys2Proof.Machine

end

section
/-! The answer of GET_ROWS, and what a row image holds (R183, R184, R193, 11.4): statement O18. -/

namespace Sys2Proof.Machine

variable {s : State} {f : RxFrame} {t : Table} {args : List Byte}

/-! ### Row images (11.4) -/

theorem groupImage (s : State) (r : Fin 64) :
    rowImage s .group r.val = byte r.val ++ (byte 0 ++ leBytes 4 s.groups[r.val].toNat) := by
  rw [← toList_getD s.groups r 0]
  rfl

theorem profileImage (s : State) (r : Fin 64) : rowImage s .profile r.val =
    (byte r.val ++ (byte (bit (s.profile r).defined 0) ++ (byte (s.profile r).pins ++ byte 0))) ++
      (s.profile r).slots.toList.flatMap MeasureSlot.bytes := by
  rw [State.profile, ← toList_getD s.judge.profiles r ProfileRow.empty]
  rfl

theorem codeSetImage (s : State) (r : Fin 64) :
    rowImage s .codeSet r.val = byte r.val ++ (byte 0 ++ leBytes 64 s.judge.codeSets[r.val].toNat) := by
  rw [← toList_getD s.judge.codeSets r 0]
  rfl

theorem nestConfigImage (s : State) (n : Nest) : rowImage s .nestConfig n.val = byte n.val ++
    (byte (bit (s.port n).config.enabled 0 + bit (s.port n).config.excluded 1 + bit (s.port n).config.chatter 2) ++
      leBytes 2 (s.port n).config.haltGrace) := by
  rw [State.port, ← toList_getD s.ports n (NestPort.initial (NestConfig.default false))]
  rfl

theorem allowListImage (s : State) (i : Fin 4) : rowImage s .allowList i.val =
    byte i.val ++ (byte (bit s.uplink.allow[i.val].valid 0) ++ beBytes 6 s.uplink.allow[i.val].addr.toNat) := by
  rw [← toList_getD s.uplink.allow i { valid := false, addr := 0 }]
  rfl

theorem ofNat_three_flags (a b c : Bool) : BitVec.ofNat 8 (bit a 0 + bit b 1 + bit c 2) =
    (if a then 1#8 else 0#8) + (if b then 2#8 else 0#8) + (if c then 4#8 else 0#8) := by
  cases a <;> cases b <;> cases c <;> rfl

theorem toNat_ofNat_flag_le (b : Bool) : (BitVec.ofNat 8 (bit b 0)).toNat ≤ 1 := by cases b <;> decide

/-- Bit `k` of byte `j` of a code set as it is sent (R88). -/
theorem getLsbD_leBytes {w : Nat} (x : BitVec (8 * w)) (j : Nat) {k : Nat} (hk : k < 8) :
    (byteAt (leBytes w x.toNat) j).getLsbD k = x.getLsbD (8 * j + k) := by
  rw [← testBit_leNat _ _ hk, leNat_leBytes, toNat_mod_bytes, BitVec.testBit_toNat]

theorem rowImageIs_group (s : State) (r : Fin 64) : RowImageIs s .group r.val (rowImage s .group r.val) := by
  refine ⟨length_rowImage .., ?_⟩
  rw [groupImage]
  refine ⟨toNat_ofNat_row r (by decide), rfl, fun g hg => ?_⟩
  rw [Fin.ext hg]
  exact leAt_word (k := 4) rfl

theorem rowImageIs_profile (s : State) (r : Fin 64) : RowImageIs s .profile r.val (rowImage s .profile r.val) := by
  refine ⟨length_rowImage .., ?_⟩
  rw [profileImage]
  refine ⟨toNat_ofNat_row r (by decide), rfl, fun p hp => ?_⟩
  obtain rfl : p = r := Fin.ext hp
  have slots := (decodeSlots_eq_some_iff _ _).mp (decodeSlots_bytes (byte p.val ++
    (byte (bit (s.profile p).defined 0) ++ (byte (s.profile p).pins ++ byte 0))) rfl (s.profile p).slots)
  refine ⟨ofNat_bit_zero (s.profile p).defined, rfl, fun i => ⟨slots i, ?_⟩⟩
  have slot : PartAt ((s.profile p).slots.toList.flatMap MeasureSlot.bytes) (26 * i.val) 26
      (s.profile p).slots[i.val].bytes :=
    .flatMap (fun m _ => length_slotBytes m) (by simp)
  have inside := slot.behind (a := byte p.val ++ (byte (bit (s.profile p).defined 0) ++
    (byte (s.profile p).pins ++ byte 0))) (k := 4) rfl
  exact ⟨(congrArg BitVec.toNat (inside.byteAt 3 (by decide))).trans_le (toNat_ofNat_flag_le _),
    inside.byteAt 9 (by decide)⟩

theorem rowImageIs_codeSet (s : State) (r : Fin 64) : RowImageIs s .codeSet r.val (rowImage s .codeSet r.val) := by
  refine ⟨length_rowImage .., ?_⟩
  rw [codeSetImage]
  refine ⟨toNat_ofNat_row r (by decide), rfl, fun c hc j k _ hk => ?_⟩
  obtain rfl : c = r := Fin.ext hc
  rw [← getLsbD_leBytes (w := 64) _ j hk, ← List.append_assoc, byteAt_append_right _ _ _ (Nat.le_add_right 2 j)]
  exact congrArg (fun i => (byteAt (leBytes 64 s.judge.codeSets[c.val].toNat) i).getLsbD k) (Nat.add_sub_cancel_left 2 j)

theorem rowImageIs_nestConfig (s : State) (r : Nest) : RowImageIs s .nestConfig r.val (rowImage s .nestConfig r.val) := by
  refine ⟨length_rowImage .., ?_⟩
  rw [nestConfigImage]
  refine ⟨toNat_ofNat_nest r, fun n hn => ?_⟩
  rw [Fin.ext hn]
  exact ⟨ofNat_three_flags .., leAt_written (k := 2) rfl⟩

theorem rowImageIs_allowList (s : State) (r : Fin 4) : RowImageIs s .allowList r.val (rowImage s .allowList r.val) := by
  refine ⟨length_rowImage .., ?_⟩
  rw [allowListImage]
  refine ⟨toNat_ofNat_row r (by decide), fun i hi => ?_⟩
  rw [Fin.ext hi]
  exact ⟨ofNat_bit_zero s.uplink.allow[r.val].valid, beBytes_address s.uplink.allow[r.val].addr⟩

theorem rowImageIs_settings (s : State) : RowImageIs s .settings 0 (rowImage s .settings 0) := by
  refine ⟨length_rowImage .., ?_⟩
  simp only [rowImage, List.append_assoc]
  exact ⟨rfl, rfl, leAt_written (k := 2) rfl, leAt_written (k := 2) rfl, leAt_written (k := 2) rfl,
    BitVec.ofNat_toNat 8 s.mgmt.settings.mask, rfl⟩

theorem rowImageIs_rowImage (s : State) (t : Table) (row : Nat) (last : row ≤ t.lastRow) :
    RowImageIs s t row (rowImage s t row) := by
  have inside := Nat.lt_succ_of_le last
  cases t with
  | group => exact rowImageIs_group s ⟨row, inside⟩
  | profile => exact rowImageIs_profile s ⟨row, inside⟩
  | codeSet => exact rowImageIs_codeSet s ⟨row, inside⟩
  | nestConfig => exact rowImageIs_nestConfig s ⟨row, inside⟩
  | allowList => exact rowImageIs_allowList s ⟨row, inside⟩
  | settings =>
    obtain rfl : row = 0 := Nat.le_zero.mp last
    exact rowImageIs_settings s

/-! ### The rows asked for (R184, R193) -/

theorem rowOutside_eq_none_iff {first count : Nat} : rowOutside t first count = none ↔
    ∀ r, first ≤ r → r < first + count → t.firstRow ≤ r ∧ r ≤ t.lastRow := by
  unfold rowOutside
  rw [← List.range'_eq_map_range, List.find?_range'_eq_none]
  simp

theorem rowOutside_eq_some_iff {first count bad : Nat} : rowOutside t first count = some bad ↔
    (bad < t.firstRow ∨ t.lastRow < bad) ∧ (first ≤ bad ∧ bad < first + count) ∧
      ∀ r, first ≤ r → r < bad → t.firstRow ≤ r ∧ r ≤ t.lastRow := by
  unfold rowOutside
  rw [← List.range'_eq_map_range, List.find?_range'_eq_some]
  simp

theorem toNat_ofNat_byte {v : Nat} (h : v < 256) : (BitVec.ofNat 8 v).toNat = v := by
  rw [BitVec.toNat_ofNat]
  omega

theorem tableOf_ofNat_code (t : Table) : tableOf (BitVec.ofNat 8 t.code).toNat = some t := by cases t <;> rfl

theorem tableOf_unknown {b : Byte} (h : b = 0#8 ∨ 6 < b.toNat) : tableOf b.toNat = none := by
  revert b; decide

/-- A request that names a table is carried out on it (R193). -/
theorem withTable_known {b : Byte} {rest : List Byte} (hb : tableOf b.toNat = some t)
    (act : Table → Req → List Byte → State → State) (r : Req) (u : State) :
    withTable act r (b :: rest) u = act t r (b :: rest) u := by
  simp only [withTable, tableArg, hb]

theorem withTable_unknown {b : Byte} {rest : List Byte} (hb : tableOf b.toNat = none)
    (act : Table → Req → List Byte → State → State) (r : Req) (u : State) :
    withTable act r (b :: rest) u = respond r .unknownTable [] u := by
  simp only [withTable, tableArg, hb]

theorem exec_getRows (h : Asked s f .getRows args) :
    exec .getRows s = .next (withTable getRowsOf (reqOf f) args (passMessage f s)) :=
  runRequest_asked h (withTable getRowsOf)

theorem exec_getRows_known {b : Byte} {rest : List Byte} (h : Asked s f .getRows (b :: rest))
    (hb : tableOf b.toNat = some t) :
    exec .getRows s = .next (getRowsOf t (reqOf f) (b :: rest) (passMessage f s)) := by
  rw [exec_getRows h, withTable_known hb]

theorem getRowsOf_badRequest (r : Req) (u : State)
    (h : args.length ≠ 3 ∨ (byteAt args 2).toNat = 0 ∨ t.maxRows < (byteAt args 2).toNat) :
    getRowsOf t r args u = respond r .badRequest [] u := if_pos h

/-- A count that the table takes: the lowest row outside the table refuses the request, and with none the images
answer it (R184). -/
theorem getRowsOf_taken {b : Byte} {first count : Nat} (hfirst : first < 256) (hcount : count < 256) (hpos : 0 < count)
    (hmax : count ≤ t.maxRows) (r : Req) (u : State) :
    (∀ bad, rowOutside t first count = some bad →
      getRowsOf t r [b, BitVec.ofNat 8 first, BitVec.ofNat 8 count] u = respond r .badRow [BitVec.ofNat 8 bad] u) ∧
    (rowOutside t first count = none →
      getRowsOf t r [b, BitVec.ofNat 8 first, BitVec.ofNat 8 count] u = respond r .ok
        (BitVec.ofNat 8 t.code :: BitVec.ofNat 8 count :: (List.range count).flatMap (fun i => rowImage u t (first + i)))
        u) := by
  have firstByte : (byteAt [b, BitVec.ofNat 8 first, BitVec.ofNat 8 count] 1).toNat = first := toNat_ofNat_byte hfirst
  have countByte : (byteAt [b, BitVec.ofNat 8 first, BitVec.ofNat 8 count] 2).toNat = count := toNat_ofNat_byte hcount
  have taken : ¬([b, BitVec.ofNat 8 first, BitVec.ofNat 8 count].length ≠ 3 ∨ count = 0 ∨ t.maxRows < count) := by
    rw [List.length_cons, List.length_cons, List.length_singleton]
    omega
  refine ⟨fun bad outside => ?_, fun inside => ?_⟩
  · rw [getRowsOf, firstByte, countByte, if_neg taken, outside]
    rfl
  · rw [getRowsOf, firstByte, countByte, if_neg taken, inside, List.flatMap_map]
    rfl

/-- Settles O18: the images field by field, and the checks of R193 and R184 in their order. -/
theorem getRowsAnswers : Obligations.GetRowsAnswers := by
  refine ⟨rfl, fun s t row _ last => rowImageIs_rowImage s t row last, fun s f t first count hfirst hcount h => ?_,
    fun s f args h => ⟨?_, ?_⟩⟩
  · rw [exec_getRows_known h (tableOf_ofNat_code t)]
    refine ⟨fun hpos hmax low high => ?_, fun hpos hmax bad from' upto out least => ?_, fun wrong => ?_⟩
    · rw [(getRowsOf_taken hfirst hcount hpos hmax _ _).2 (rowOutside_eq_none_iff.mpr fun r _ _ => by omega)]
      rfl
    · rw [(getRowsOf_taken hfirst hcount hpos hmax _ _).1 bad
        (rowOutside_eq_some_iff.mpr ⟨out, ⟨from', upto⟩, least⟩)]
      rfl
    · have countByte : (byteAt [BitVec.ofNat 8 t.code, BitVec.ofNat 8 first, BitVec.ofNat 8 count] 2).toNat = count :=
        toNat_ofNat_byte hcount
      rw [getRowsOf_badRequest _ _ (by rw [countByte]; omega)]
      rfl
  · rintro rfl
    exact exec_getRows h
  · rintro table rest rfl
    refine ⟨fun unknown => ?_, fun low high length => ?_⟩
    · rw [exec_getRows h, withTable_unknown (tableOf_unknown unknown)]
      rfl
    · obtain ⟨t, ht⟩ := tableOf_known (b := table) (by rintro rfl; exact absurd low (by decide)) high
      rw [exec_getRows_known h ht, getRowsOf_badRequest]
      · rfl
      · rw [List.length_cons]
        omega

end Sys2Proof.Machine

end

section
/-! The images of PUT_ROWS in order, and those that fail (R183, R193): statement O19. -/

namespace Sys2Proof.Machine

variable {s : State} {f : RxFrame} {x : Table} {img : List Byte} {args : List Byte}

/-! ### A row written before or after the message is passed -/

/-- `g` may come before or after the message is passed. -/
def Passes (f : RxFrame) (g : State → State) : Prop := ∀ s, g (passMessage f s) = passMessage f (g s)

namespace Passes

variable {g k : State → State}

theorem comp (hg : Passes f g) (hk : Passes f k) : Passes f (fun s => g (k s)) := fun s =>
  (congrArg g (hk s)).trans (hg (k s))

theorem ite {c : State → Prop} [DecidablePred c] (hc : ∀ s, c (passMessage f s) = c s) (hg : Passes f g)
    (hk : Passes f k) : Passes f (fun s => if c s then g s else k s) := fun s => by
  by_cases h : c s
  · simp only [hc, h, if_true, hg s]
  · simp only [hc, h, if_false, hk s]

theorem lowerReference (e : EntryId) : Passes f (lowerReference e) :=
  ite (c := fun s => s.payload.refs[e.val] - 1 = 0) (fun _ => rfl) (fun _ => rfl) fun _ => rfl

theorem chooseCandidate : Passes f chooseCandidate :=
  ite (c := fun s => s.retire.candidate = none ∧ s.retire.progress = none) (fun _ => rfl) (fun _ => rfl) fun _ => rfl

theorem lowerPending (e : EntryId) : Passes f (lowerPending e) :=
  ite (c := fun s => (s.entry e).pending - 1 = 0 ∧ (s.entry e).state = .live) (fun _ => rfl)
    (chooseCandidate.comp fun _ => rfl) fun _ => rfl

theorem finishCopy (n : Nest) (e : EntryId) (runs : Nat) (o : CopyOutcome) : Passes f (finishCopy n e runs o) :=
  comp (g := deliverOutcome n e o) (fun _ => rfl) ((lowerPending e).comp ((lowerReference e).comp fun _ => rfl))

theorem finishAll (n : Nest) (o : CopyOutcome) (cs : List Copy) : Passes f (finishAll n o cs) := by
  intro s
  induction cs generalizing s with
  | nil => rfl
  | cons c cs ih => exact (congrArg (Machine.finishAll n o cs) (finishCopy n c.entry c.runs o s)).trans (ih _)

theorem absenceRule (n : Nest) : Passes f (absenceRule n) := fun s =>
  finishAll n .absent ((s.port n).queue.filter fun c => c.state ≠ .closing) (s.updPort n fun p =>
    { p with queue := [], deadline := .stopped, gap := .stopped, grace := .stopped, service := .idle })

theorem presenceGone (n : Nest) : Passes f (presenceGone n) :=
  ite (c := fun s => (s.port n).presence = .present) (fun _ => rfl) (fun _ => rfl) fun _ => rfl

theorem linkDown (n : Nest) : Passes f (linkDown n) :=
  ite (c := fun s => (s.port n).link = .down) (fun _ => rfl) (fun _ => rfl)
    (comp (g := fun t => raiseLink n (deliverAbsence n t)) (fun _ => rfl)
      ((absenceRule n).comp ((presenceGone n).comp fun _ => rfl)))

theorem trainIfReady (n : Nest) : Passes f (trainIfReady n) :=
  ite (c := fun s => (s.port n).link = .down ∧ (s.port n).config.enabled ∧ s.signal[n.val]) (fun _ => rfl)
    (fun _ => rfl) fun _ => rfl

theorem storeNestConfig (n : Nest) (c : NestConfig) : Passes f (storeNestConfig n c) :=
  ite (c := fun s => (s.port n).config.enabled ∧ ¬c.enabled) (fun _ => rfl)
    ((linkDown n).comp fun _ => rfl)
    (ite (c := fun s => ¬(s.port n).config.enabled ∧ c.enabled) (fun _ => rfl)
      ((trainIfReady n).comp fun _ => rfl) fun _ => rfl)

end Passes

/-- What a row image comes to when the message is passed first. -/
def RowResult.passed (f : RxFrame) : RowResult → RowResult
  | .written s => .written (passMessage f s)
  | .refused status => .refused status

theorem writeProfileRow_passMessage : writeProfileRow img (passMessage f s) = (writeProfileRow img s).passed f := by
  unfold writeProfileRow
  dsimp only
  split
  · next inside =>
    have row : ∀ r, (passMessage f s).profile r = s.profile r := fun _ => rfl
    rw [row]
    split
    · rfl
    · split
      · rfl
      · split
        · rfl
        · split <;> rfl
  · rfl

/-- No table's rule reads what passing the message changes (R176, R177, R183). -/
theorem writeRow_passMessage : writeRow x img (passMessage f s) = (writeRow x img s).passed f := by
  cases x with
  | group =>
    show writeGroupRow img (passMessage f s) = (writeGroupRow img s).passed f
    unfold writeGroupRow
    split <;> rfl
  | profile => exact writeProfileRow_passMessage
  | codeSet =>
    show writeCodeSetRow img (passMessage f s) = (writeCodeSetRow img s).passed f
    have same : codeSetInUse (passMessage f s) = codeSetInUse s := rfl
    unfold writeCodeSetRow
    rw [same]
    split_ifs <;> rfl
  | nestConfig =>
    show writeNestConfigRow img (passMessage f s) = (writeNestConfigRow img s).passed f
    unfold writeNestConfigRow
    dsimp only
    split_ifs
    · rfl
    · exact congrArg RowResult.written (Passes.storeNestConfig _ _ s)
    · rfl
  | allowList =>
    show writeAllowRow img (passMessage f s) = (writeAllowRow img s).passed f
    unfold writeAllowRow
    dsimp only
    split_ifs <;> rfl
  | settings =>
    show writeSettingsRow img (passMessage f s) = (writeSettingsRow img s).passed f
    unfold writeSettingsRow
    dsimp only
    split_ifs <;> rfl

/-! ### The images in order (R183) -/

/-- The images `i < k` written, each into the state that the one before it left. -/
theorem writeRows_written {imgs : List (List Byte)} {u : Nat → State} {k : Nat} (hk : k ≤ imgs.length)
    (written : ∀ i img, i < k → imgs[i]? = some img → writeRow x img (u i) = .written (u (i + 1))) :
    writeRows x (reqOf f) 0 imgs (passMessage f (u 0)) =
      writeRows x (reqOf f) k (imgs.drop k) (passMessage f (u k)) := by
  induction k with
  | zero => rfl
  | succ k ih =>
    have row : writeRow x imgs[k] (passMessage f (u k)) = .written (passMessage f (u (k + 1))) := by
      rw [writeRow_passMessage, written k imgs[k] k.lt_succ_self (List.getElem?_eq_getElem hk)]
      rfl
    rw [ih (Nat.le_of_lt hk) fun i img hi => written i img (Nat.lt_succ_of_lt hi), List.drop_eq_getElem_cons hk,
      writeRows, row]

theorem piecesOf_flatten {k : Nat} {imgs : List (List Byte)} (size : ∀ img ∈ imgs, img.length = k) :
    piecesOf k imgs.length imgs.flatten = imgs := by
  induction imgs with
  | nil => rfl
  | cons img imgs ih =>
    obtain ⟨first, rest⟩ := List.forall_mem_cons.mp size
    rw [List.length_cons, List.flatten_cons, piecesOf, List.take_left' first, List.drop_left' first, ih rest]

/-! ### The request (R183, R193) -/

/-- The tables and the rows that write them. -/
def putRowsRows : List (Table × Instr) :=
  [(.group, .putRowsGroup), (.profile, .putRowsProfile), (.codeSet, .putRowsCodeSet),
    (.nestConfig, .putRowsNestConfig), (.allowList, .putRowsAllowList), (.settings, .putRowsSettings)]

theorem exec_putRows {y : Table × Instr} (hy : y ∈ putRowsRows) (s : State) : exec y.2 s = putRows y.1 s := by
  have each : ∀ y ∈ putRowsRows, ∀ s, exec y.2 s = putRows y.1 s := by
    simp only [putRowsRows, List.forall_mem_cons]
    exact ⟨fun _ => rfl, fun _ => rfl, fun _ => rfl, fun _ => rfl, fun _ => rfl, fun _ => rfl, nofun⟩
  exact each y hy s

/-- A PUT_ROWS that names no other known table is carried out by the row of `x`. -/
theorem putRows_taken (h : Asked s f .putRows args) (own : ∀ t, tableArg args = some (some t) → t = x) :
    putRows x s = .next (withTable putRowsOf (reqOf f) args (passMessage f s)) := by
  obtain ⟨dispatcher, room, isPut, rfl⟩ := h
  refine runRequest_eq dispatcher room ?_ _
  rw [isPutRows, isPut, Bool.true_and]
  split
  · next t named => exact decide_eq_true (own t named)
  · rfl
  · rfl

theorem putRows_own {rest : List Byte} (h : Asked s f .putRows (BitVec.ofNat 8 x.code :: rest)) :
    putRows x s = .next (putRowsOf x (reqOf f) (BitVec.ofNat 8 x.code :: rest) (passMessage f s)) := by
  have known := tableOf_ofNat_code x
  have arg : tableArg (BitVec.ofNat 8 x.code :: rest) = some (some x) := congrArg some known
  rw [putRows_taken h fun t ht => ?_, withTable_known known]
  rw [arg] at ht
  exact (Option.some.inj (Option.some.inj ht)).symm

/-- A count and a length that the table takes: the images are written in order (R183). -/
theorem putRows_images {imgs : List (List Byte)}
    (h : Asked s f .putRows (BitVec.ofNat 8 x.code :: BitVec.ofNat 8 imgs.length :: imgs.flatten))
    (hpos : 0 < imgs.length) (hmax : imgs.length ≤ x.maxRows) (size : ∀ img ∈ imgs, img.length = x.imageSize) :
    putRows x s = .next (writeRows x (reqOf f) 0 imgs (passMessage f s)) := by
  have small : x.maxRows < 256 := by cases x <;> decide
  have count : (byteAt (BitVec.ofNat 8 x.code :: BitVec.ofNat 8 imgs.length :: imgs.flatten) 1).toNat = imgs.length :=
    toNat_ofNat_byte (by omega)
  have bytes : imgs.flatten.length = imgs.length * x.imageSize := by
    rw [List.length_flatten, List.map_congr_left size, List.map_const', List.sum_replicate, smul_eq_mul]
  have images : (BitVec.ofNat 8 x.code :: BitVec.ofNat 8 imgs.length :: imgs.flatten).drop 2 = imgs.flatten := rfl
  rw [putRows_own h, putRowsOf, count, if_neg, images, piecesOf_flatten size]
  rw [List.length_cons, List.length_cons, bytes]
  omega

theorem putRows_inOrder {imgs : List (List Byte)} {u : Nat → State} {k : Nat}
    (h : Asked s f .putRows (BitVec.ofNat 8 x.code :: BitVec.ofNat 8 imgs.length :: imgs.flatten))
    (hpos : 0 < imgs.length) (hmax : imgs.length ≤ x.maxRows) (size : ∀ img ∈ imgs, img.length = x.imageSize)
    (start : u 0 = s)
    (written : ∀ i img, i < k → imgs[i]? = some img → writeRow x img (u i) = .written (u (i + 1))) :
    (k = imgs.length → putRows x s = .next (answered f .ok [BitVec.ofNat 8 imgs.length, 0#8] (u k))) ∧
    (∀ bad status, imgs[k]? = some bad → writeRow x bad (u k) = .refused status →
      putRows x s = .next (answered f status [BitVec.ofNat 8 k, byteAt bad 0] (u k))) := by
  rw [putRows_images h hpos hmax size]
  subst start
  refine ⟨fun all => ?_, fun bad status hbad refused => ?_⟩
  · rw [writeRows_written all.le written, all, List.drop_length]
    rfl
  · obtain ⟨hk, rfl⟩ := List.getElem?_eq_some_iff.mp hbad
    have row : writeRow x imgs[k] (passMessage f (u k)) = .refused status := by
      rw [writeRow_passMessage, refused]
      rfl
    rw [writeRows_written hk.le written, List.drop_eq_getElem_cons hk, writeRows, row]
    rfl

theorem putRows_badRequest (h : Asked s f .putRows args) (table : byteAt args 0 = BitVec.ofNat 8 x.code)
    (bad : args.length < 2 ∨ byteAt args 1 = 0#8 ∨ x.maxRows < (byteAt args 1).toNat ∨
      args.length ≠ 2 + (byteAt args 1).toNat * x.imageSize) :
    putRows x s = .next (answered f .badRequest [] s) := by
  cases args with
  | nil =>
    have nonzero : 0#8 ≠ BitVec.ofNat 8 x.code := by cases x <;> decide
    exact absurd table nonzero
  | cons b rest =>
    obtain rfl : b = BitVec.ofNat 8 x.code := table
    rw [putRows_own h, putRowsOf, if_pos]
    · rfl
    · exact bad.imp_right (Or.imp_left (congrArg BitVec.toNat))

/-! ### Images that fail (R38, R64, R86, R89, R174, R185, R194) -/

theorem writeRow_outside (x : Table) (s : State)
    (outside : (byteAt img 0).toNat < x.firstRow ∨ x.lastRow < (byteAt img 0).toNat) :
    writeRow x img s = .refused .badRow := by
  cases x with
  | group => exact dif_neg fun inside => outside.elim (Nat.not_lt_zero _) fun high => Nat.not_lt.mpr high inside
  | profile =>
    exact dif_neg fun ⟨low, inside, _⟩ => outside.elim (Nat.not_lt.mpr low) fun high => Nat.not_lt.mpr high inside
  | codeSet => exact dif_neg fun inside => outside.elim (Nat.not_lt_zero _) fun high => Nat.not_lt.mpr high inside
  | nestConfig => exact dif_neg fun inside => outside.elim (Nat.not_lt_zero _) fun high => Nat.not_lt.mpr high inside
  | allowList => exact dif_neg fun inside => outside.elim (Nat.not_lt_zero _) fun high => Nat.not_lt.mpr high inside
  | settings =>
    have high : 0 < (byteAt img 0).toNat := outside.resolve_left (Nat.not_lt_zero _)
    exact if_pos (.inl fun zero => high.ne' (congrArg BitVec.toNat zero))

theorem writeNestConfigRow_grace (h : leAt img 2 2 = 0 ∨ 1000 < leAt img 2 2) (s : State) :
    writeRow .nestConfig img s = .refused .badRow := by
  show writeNestConfigRow img s = _
  unfold writeNestConfigRow
  dsimp only
  split
  · exact if_pos h
  · rfl

theorem writeAllowRow_valid (h : 1 < (byteAt img 1).toNat) (s : State) :
    writeRow .allowList img s = .refused .badRow := by
  show writeAllowRow img s = _
  unfold writeAllowRow
  dsimp only
  split
  · exact if_pos (.inl h)
  · rfl

theorem writeAllowRow_group (hvalid : byteAt img 1 = 1#8) (hgroup : (byteAt img 2).getLsbD 0 = true)
    (hlen : 8 ≤ img.length) (s : State) : writeRow .allowList img s = .refused .badRow := by
  have address : ((img.drop 2).take 6).length = 6 := by
    rw [List.length_take, List.length_drop]
    omega
  have group : isGroupAddress (BitVec.ofNat 48 (beNat ((img.drop 2).take 6))) = true := by
    rw [isGroupAddress_ofNat address, byteAt_take (by decide), byteAt_drop]
    exact hgroup
  show writeAllowRow img s = _
  unfold writeAllowRow
  dsimp only
  split
  · exact if_pos (.inr ⟨decide_eq_true hvalid, group⟩)
  · rfl

/-- A Code Set that a CODE slot of a pinned Profile row names is in use (R89). -/
theorem codeSetInUse_of {p : Fin 64} {i : Fin 4} {k : Nat} (hpins : (s.profile p).pins ≠ 0)
    (hmode : (s.profile p).slots[i.val].mode = .code) (hset : (s.profile p).slots[i.val].codeSet.toNat = k) :
    codeSetInUse s k = true := by
  have slot : ((s.profile p).slots.toList.any fun m => m.mode = .code && m.codeSet.toNat = k) = true :=
    List.any_eq_true.mpr ⟨(s.profile p).slots[i.val], by simp, by simp [hmode, hset]⟩
  exact List.any_eq_true.mpr ⟨s.profile p, by simp [State.profile], by simp [hpins, slot]⟩

theorem writeCodeSetRow_inUse (hrow : (byteAt img 0).toNat < 64)
    (used : codeSetInUse s ((byteAt img 0).toNat / 8) = true) : writeRow .codeSet img s = .refused .inUse := by
  show writeCodeSetRow img s = _
  rw [writeCodeSetRow, dif_pos hrow, if_pos used]

theorem writeProfileRow_invalid {r : Fin 64} (hr : (byteAt img 0).toNat = r.val) (hne : r ≠ 0) (hdef : byteAt img 1 = 1#8)
    (hpins : (s.profile r).pins = 0) (hbad : decodeSlots img = none ∨
      ∃ slots, decodeSlots img = some slots ∧ ∃ i : Fin 4, slots[i.val].valid = false) :
    writeRow .profile img s = .refused .badRow := by
  rw [writeProfileRow_of hr hne (by rw [hdef]; decide), if_neg (not_not.mpr hpins), hdef, if_neg (by decide)]
  rcases hbad with undecoded | ⟨slots, decoded, i, invalid⟩
  · rw [undecoded]
  · rw [decoded]
    refine if_neg fun all => ?_
    rw [(slotPasses_iff _).mp ((all_valid_iff slots).mp all i)] at invalid
    cases invalid

/-- Settles O19: the images are written in order, and each failing image by the check of its table. -/
theorem putRowsWritesInOrder : Obligations.PutRowsWritesInOrder := by
  refine ⟨fun s f imgs u k y hy h hpos hmax size start written => ?_, fun s f args y hy h table bad => ?_,
    fun s f args c hc h => ?_, fun s img => ⟨fun x => writeRow_outside x s, fun grace => writeNestConfigRow_grace grace s,
      fun high => ⟨writeAllowRow_valid high s, dif_neg fun inside => Nat.not_le.mpr high inside.2.2⟩,
      fun valid group size => writeAllowRow_group valid group size s, fun bad => if_pos (.inr bad),
      fun r hr hne hdef hpins hbad => writeProfileRow_invalid hr hne hdef hpins hbad,
      fun p hpins i hmode hset hrow => writeCodeSetRow_inUse hrow (codeSetInUse_of hpins hmode hset)⟩⟩
  · rw [exec_putRows hy]
    exact putRows_inOrder h hpos hmax size start written
  · rw [exec_putRows hy]
    exact putRows_badRequest h table bad
  · have row : c ∈ putRowsRows.map Prod.snd := hc
    obtain ⟨y, hy, rfl⟩ := List.mem_map.mp row
    rw [exec_putRows hy]
    refine ⟨?_, ?_⟩
    · rintro rfl
      exact putRows_taken h nofun
    · rintro table rest rfl unknown
      have noTable := tableOf_unknown unknown
      rw [putRows_taken h fun t named => ?_, withTable_unknown noTable]
      · rfl
      · rw [tableArg, noTable] at named
        cases named

end Sys2Proof.Machine

end

section
/-! The step as the front command of the queue (95_what_each_step_holds, log entry 2): statement O1. -/

namespace Sys2Proof.Machine

theorem step_of_pending {s : State} {c : Instr} {rest : List Instr} (h : s.pending = c :: rest) :
    step s = exec c { s with pending := rest } := by
  rw [step, h]

/-- Settles O1: the front of `c :: s.pending` is `c`, and with the rest `s.pending` the state is `s` again. -/
theorem stepTakesFrontCommand : Obligations.StepTakesFrontCommand := by
  intro c s
  have front : ({ s with pending := c :: s.pending } : State).pending = c :: s.pending := rfl
  exact step_of_pending front

end Sys2Proof.Machine

end
